-- ==== Sys2Proof/Word.lean ====
section
/-! DEFINITION. The word types of the machine and sparse tables (R6, R23, R24). -/

namespace Sys2Proof

/-- A byte of memory (R45). -/
abbrev Byte := BitVec 8
/-- Bits 63:0 of a c register, the width of a 64-bit operation (R24). -/
abbrev Word := BitVec 64
/-- The 128 bits of a c register (R23). -/
abbrev Quad := BitVec 128
/-- A v register (R23). -/
abbrev VReg := BitVec 256
/-- A p register (R23). -/
abbrev PReg := BitVec 32

/-- A c register, or a 16-byte granule: 128 bits and a tag (R23, R36). -/
structure CReg where
  val : Quad
  tag : Bool
deriving DecidableEq, Repr

/-- Plain zero with the tag clear (R18). -/
def CReg.zero : CReg := ⟨0, false⟩

/-- A sparse table: keys with their values, keys rising. -/
abbrev Tab (α : Type) := List (Nat × α)

end Sys2Proof
end

