-- ==== Sys2Proof/Config.lean ====
section
/-! DEFINITION. What the spec leaves open: free values (no body, so nothing can be proved of them), and
properties of the part (log 3, log 5, log 9). -/

namespace Sys2Proof.Config

/-- Which line, entry or unit a full shared structure gives up (the spec states no L1, TLB or check-cache
replacement order). DESIGN CHOICE: free (log 3). -/
opaque victim : Nat → Nat

/-- Where the search for a free object table entry starts (the spec does not say which free entry is taken).
DESIGN CHOICE: free (log 3). -/
opaque freeEntry : Nat → Nat

/-- The fraction and sign of a NaN converted from E4M3, by the bits of the destination's fraction and the source pattern: R94 states
the conversions between FP64, FP32, FP16, BF16 and E5M2, and those to E4M3. Free (log 9). -/
opaque nanFromE4M3 : Nat → Nat → Nat × Bool

/-- Whether an address lies outside a partition's HBM region (R371): the spec does not say where the regions lie. Free
(log 3). -/
opaque outsideRegion : Nat → Nat → Bool

/-- Where a launch places the HBM pools and objects that it makes, in units of 64 KiB (R270): the spec does not say. Free
(log 3). -/
opaque hbmPlace : Nat → Nat

/-- Whether a key is that of another device's membership of a partition (R354): each membership has a key of its own, and the spec
does not say where a device holds its peers' keys. DESIGN CHOICE: free (log 64). -/
opaque peerKey : Nat → Nat → Bool

/-- The device identity public key that the boot ROM derives (R410): a property of the part (log 5). -/
opaque deviceKey : BitVec 256

/-- The vendor's public key of the boot ROM (R410): a property of the part (log 5). -/
opaque vendorKey : BitVec 256

/-- The public key that a device certificate names (R410): the certificate's form is a standard's (log 5). -/
opaque certKey : List Byte → BitVec 256

/-- The firmware alias key that the boot derives from the identity key and the measurements (R410): the derivation is a standard's
(log 5). -/
opaque aliasKey : BitVec 256 → List (BitVec 512) → BitVec 256

/-- Ilusaelo's PCI-SIG vendor ID (R406), and what the DVSEC headers hold beside it and the DVSEC ID (log 34). -/
opaque vendorId : BitVec 16

/-- The rest of a DVSEC header, which a standard lays out (R406, log 34). -/
opaque dvsecRest : Nat → BitVec 16

/-- The grants that a die's budget allows, by the power limit of the configuration (R407): the spec does not say what a grant draws, nor
a die's baseline draw. Free (log 79). -/
opaque grantBudget : Nat → Nat → Nat

/-- The digest of the boot ROM (R381, R410): a property of the part (log 5). -/
opaque romDigest : BitVec 512

end Sys2Proof.Config
end

