-- ==== Sys2Proof/Machine/Parts.lean ====
section
/-! DEFINITION. The records that State is made of: what the spec's registers, tables, buffers and queues hold.
Plain data only. State itself is in Machine/State.lean. -/

namespace Sys2Proof.Machine

/-- A clock as it is carried: the 24 entries (R296) and the domain EPOCH at which it was made (R297). -/
structure Carried where
  epoch : Nat
  clk : List Nat
deriving DecidableEq, Repr

/-- The mordant field of a 64-byte line (R301). -/
structure Mordant where
  writer : Nat
  wclk : Nat
  rb : Nat
  scope : Nat
deriving DecidableEq, Repr

/-- A line whose field nothing has written (R301: SCOPE 3 at reset). -/
def Mordant.inherited (rb : Nat) : Mordant := ⟨0, 0, rb, 3⟩

/-- An object table entry (R219, R220). ENTKIND: 0 free, 1 object, 2 pool, 3 sync object;
4, the model's own, an assist frame (log 8). `part`: the partition that the entry counts against (R218). -/
structure Obj where
  gen : Nat
  ownDev : Nat
  ownCore : Nat
  ownCtx : Nat
  held : Nat
  level : Nat
  entKind : Nat
  poisoned : Bool
  pinned : Bool
  transit : Bool
  retired : Bool
  ptab : Bool
  key : Nat
  base : Nat
  rebase : Nat
  length : Nat
  poolId : Nat
  homeDev : Nat
  homeObj : Nat
  homeGen : Nat
  inUse : Nat
  part : Nat
deriving DecidableEq, Repr

/-- An entry at device reset (R219). -/
def Obj.free : Obj :=
  { gen := 0, ownDev := 0, ownCore := 0, ownCtx := 0, held := 0, level := 0, entKind := 0, poisoned := false,
    pinned := false, transit := false, retired := false, ptab := false, key := 0, base := 0, rebase := 0,
    length := 0, poolId := 0, homeDev := 0, homeObj := 0, homeGen := 0, inUse := 0,
    part := 0 }

/-- An L1 line (R236): the OBJID it was filled through, the line number within the object, where the line lies
(flat address of its first byte), bytes, dirty mask, granule tags and, for HBM, its mordant field (R301). -/
structure L1Line where
  obj : Nat
  line : Nat
  addr : Nat
  bytes : List Byte
  dirty : List Bool
  tags : List Bool
  field : Mordant
deriving DecidableEq, Repr

/-- A store buffer entry (R131, R176): the object and checked location, the flat address, one optional byte per
byte of the span (none: not enabled), for a capability store the tag it gives, the strand's own clock entry at
issue (R303), and whether the line is race-recorded. -/
structure StoreEntry where
  obj : Nat
  loc : Nat
  addr : Nat
  bytes : List (Option Byte)
  cap : Option Bool
  wclk : Nat
  checked : Bool
deriving DecidableEq, Repr

/-- A stream binding (R26, R136), with the elements that have been read ahead, by position: the value, and the race record
found when it was read (R137; empty when there was none). -/
structure Stream where
  out : Bool
  esize : Nat
  cap : CReg
  count : Nat
  stride : Int
  pos : Nat
  ahead : Tab (CReg × List Word)
deriving DecidableEq, Repr

/-- A buffered remote store (R123). -/
structure RemoteStore where
  obj : Nat
  dev : Nat
  homeObj : Nat
  homeGen : Nat
  loc : Nat
  bytes : List Byte
deriving DecidableEq, Repr

/-- A commit under way (R127): when its batches were sent, its status register, its destinations, which of them have answered, each with
none when it applied its batch or with its refusal code, and the status word once the outcome is decided. -/
structure Commit where
  sent : Nat
  sr : Nat
  dests : List Nat
  answers : List (Nat × Option Nat)
  status : Option CReg := none
deriving DecidableEq, Repr

/-- An open remote region (R123): the checkpoint, with the code capability at its `rmt.begin` and that instruction's word, the
failure target, E, the buffer, a failure recorded while the strand is frozen (R129), and the commit under way (R127). -/
structure Region where
  c : Tab CReg
  p : Tab PReg
  code : CReg
  insn : Nat
  fpmode : Word
  fpflags : Word
  seed : Word
  target : Int
  e : Nat
  buf : List RemoteStore
  failed : Option (Nat × Nat)
  commit : Option Commit
deriving DecidableEq, Repr

/-- A captured vector loop (R180 to R183): words, count, stagger, position (k, j), the pc of the block, the run-ahead pc,
whether the strand's pc stands at the block word under way, and then the pattern of its own next instruction when that waits for the last
iteration (R182). -/
structure Loop where
  words : List (BitVec 32)
  count : Nat
  stagger : Nat
  k : Nat
  j : Nat
  pc0 : Nat
  ahead : Nat
  stopped : Bool
  parked : Option Nat := none
deriving DecidableEq, Repr

/-- What an outstanding access does at its reply (R131, R133, R134, R176 to R178). -/
structure Access where
  cap : Bool            -- a capability load (R134)
  kind : Nat            -- 0 a c register, 1 a v register, 2 the read-ahead of a stream
  dst : Nat
  ext : Nat             -- kind 0: 0 zero-extend, 1 sign-extend, 2 whole; kind 2: the position
  size : Nat            -- bytes of one element
  pieces : List (Nat × Nat × Nat)   -- (destination byte, checked location, flat address)
  obj : Nat
  pops : List Nat       -- stream registers popped, to be put back if the reply faults (R26)
  own : Bool            -- through an OWN, so that it is checked for races (R303)
deriving DecidableEq, Repr

/-- What a slot in WAIT waits for (R20, R274). -/
inductive Wait where
  /-- in precise mode, the line that a store is checked against: object, location, flat address (R131) -/
  | line (obj loc addr : Nat)
  /-- an L1 miss, another core's LS, the host or a remote device: a reply (R131) -/
  | reply (a : Access) (len : Nat)
  /-- the object's entry, which the capability check cache lacks (R20, R33) -/
  | check (obj : Nat)
  /-- a translation of a virtual address of a context, which the cluster TLB holds and the core TLB lacks (R20, R238) -/
  | tlb (asid va : Nat)
  /-- lines of its code object, as (OBJID, line of the object), which the instruction cache lacks (R112) -/
  | code (lines : List (Nat × Nat))
  /-- a translation of a virtual address of a context, for an object of a level (R239, R240) -/
  | walk (asid va level : Nat)
  /-- the acknowledgements of an entry update (R226) -/
  | entry (obj : Nat)
  /-- an object in transit (R33 step 8) -/
  | transit (obj : Nat)
  /-- a place in the deferred list of a sync word (R146) -/
  | deferred (word : Nat)
  /-- refused by a full deferred list (R146) -/
  | retry (word : Nat)
  /-- TAGS AND m ≠ 0 (R158) -/
  | anyTag (m : Word)
  /-- TAGS AND m = m (R158) -/
  | allTags (m : Word)
  /-- a barrier instance: group, instance (R160) -/
  | barrier (g inst : Nat)
  /-- engine back-pressure: the port is full (R190) -/
  | port (p : Nat)
  /-- a result element of a port (R193) -/
  | element (p : Nat)
  /-- every e0 command that targets the bank (R195) -/
  | bank (b : Nat)
  /-- engine commands of the domain that name the object (R139, R191) -/
  | engine (obj : Nat)
  /-- the end of every command of the device that names an object which `creclaim` has cancelled (R191) -/
  | cancelled (obj : Nat)
  /-- filled(Q) at least n (R186, R188) -/
  | filled (q n : Nat)
  /-- free(Q) at least n (R186) -/
  | room (q n : Nat)
  /-- e0 commands that name queue Q (R187) -/
  | queueBusy (q : Nat)
  /-- the vector loop buffer (R180, R182) -/
  | loop
  /-- a helper position and a slot (R155) -/
  | helper
  /-- a handle's helper (R156) -/
  | handle (serial : Nat)
  /-- a full store buffer (R131) -/
  | stores
  /-- pool space being cleaned (R222) -/
  | cleaning (pool : Nat)
  /-- a spilled work entry (R159) -/
  | work
  /-- the allowance of 8 messages per (device, core, context) (R279) -/
  | allowance (dev core ctx : Nat)
  /-- a shuffle identifier: open waits for room, close waits for its end (R214) -/
  | shuffle (id : Nat) (closing : Bool)
  /-- the end of a cluster's exit from a low state (R405) -/
  | edge (cluster : Nat)
  /-- the outcome of a commit (R127) -/
  | commit
  /-- a continuation message (R161) -/
  | continuation
  /-- the comparator: the leading member waits for a match or for room, the trailing member for the leader (R330, R331) -/
  | pairing
  /-- a rebase of the domain's clocks (R307) -/
  | rebase
  /-- a translation store's acknowledgements (R241) -/
  | translation (len : Nat)
  /-- the elements of a `vscatter` that have yet to enter the store buffer (R178) -/
  | scatter (rest : List StoreEntry) (len : Nat)
  /-- an entry of the thread-context cache for an assist frame (R327) -/
  | contexts
  /-- the acknowledgements of the strand's writes to other devices, at a release of fabric or system scope (R247) -/
  | remote
deriving DecidableEq, Repr

/-- The state of a slot (R274). -/
inductive SlotState where
  | vacant
  | ready
  | wait (w : Wait)
  | frozen
  | swap
deriving DecidableEq, Repr

/-- A race of a strand's engine command, which stops the strand at its next boundary (R191, R316): the code, port and SEQ of the
command, the location, and the record. -/
structure RaceStop where
  code : Nat
  port : Nat
  seq : Nat
  addr : Nat
  record : List Word
deriving DecidableEq, Repr

/-- The stop of a pair at the instruction at which its leading member has frozen (R333): how many instructions the trailing member
is to retire, and the packet to send then. -/
structure PairStop where
  count : Nat
  packet : List Word
  record : List Word
deriving DecidableEq, Repr

/-- The requests that take effect at the strand's next boundary: OUT with PAIRALL and the handle of an EXCHANGE (R290), a kill (R157),
HALT, the cross-trigger's halt (R338), and STEP with the count of retired instructions at which it was asked for (R325), a race of an engine command (R316), and the stop of the pair (R333). -/
structure Pending where
  out : Option (Bool × Option Nat)
  kill : Bool
  halt : Bool
  trig : Bool
  step : Option Nat
  race : Option RaceStop
  stop : Option PairStop
deriving DecidableEq, Repr

/-- Nothing waits at the strand's boundary. -/
def Pending.none : Pending := ⟨.none, false, false, false, .none, .none, .none⟩

/-- A pending effect of the leading member (R330, R331): the instruction word, its operand values, a tag for the
checked location, the store it holds when it is a store, whether it has been matched, and the values of the operands that a store writes
(R322). -/
structure Held where
  word : BitVec 32
  ops : List CReg
  loc : Nat
  store : Option StoreEntry
  matched : Bool
  data : List CReg
deriving DecidableEq, Repr

/-- An assist frame (R327, R328): the strand's state at the instruction that entered the assist, the instruction's length and pc,
and the frame's OBJID. -/
structure Frame where
  c : Tab CReg
  v : Tab VReg
  p : Tab PReg
  code : CReg
  fpmode : Word
  fpflags : Word
  seed : Word
  clock : List Nat
  streams : Tab Stream
  region : Option Region
  loop : Option Loop
  barrier : Option (Nat × Nat)
  len : Nat
  pc0 : Nat
  obj : Nat
deriving DecidableEq, Repr

/-- Everything a slot holds (R23, R274, R287, R324). The model's own: `opening`, the counter class in which the slot began the present
cycle (R274); `windows`, the HOST windows that its strand has written, the last one last, until a zero-length read (R255); `again`, its instruction has issued and is taken up again when its wait ends (R20, R261); `raised`, the `epush` that waits for its
port has counted its bytes for the barrier (R190). -/
structure Slot where
  state : SlotState
  kind : Nat
  pair : Nat
  partner : Nat
  asid : Nat
  c : Tab CReg
  v : Tab VReg
  p : Tab PReg
  code : CReg
  fpmode : Word
  fpflags : Word
  seed : Word
  clock : List Nat
  streams : Tab Stream
  region : Option Region
  loop : Option Loop
  barrier : Option (Nat × Nat)
  sbuf : List StoreEntry
  wrote : List Nat
  frame : Option Frame
  lastCode : Nat
  image : Nat
  accSel : Word
  lastIssue : Option Nat
  yielded : Bool
  pend : Pending
  trig : Bool
  serial : Nat
  retired : Nat
  cls : Nat
  lvq : List CReg
  held : List Held
  given : Option CReg
  insn : Nat
  born : Nat
  windows : List Nat
  opening : Nat
  again : Bool
  raised : Bool
deriving DecidableEq, Repr

/-- A vacant, scrubbed slot (R119). STOCHSEED and ASID of a vacant slot: DESIGN CHOICE 0 (log 2). -/
def Slot.vacant : Slot :=
  { state := .vacant, kind := 0, pair := 0, partner := 0, asid := 0, c := [], v := [], p := [],
    code := CReg.zero, fpmode := 0, fpflags := 0, seed := 0, clock := [], streams := [], region := none,
    loop := none, barrier := none, sbuf := [], wrote := [], frame := none, lastCode := 0, image := 0,
    accSel := 0, lastIssue := none, yielded := false, pend := .none, trig := false, serial := 0,
    retired := 0, cls := 0, lvq := [], held := [], given := none, insn := 0, born := 0, windows := [],
    opening := 0x040, again := false, raised := false }

/-- A message (R152, R153): sender, destination, header as sent, payload, carried clock, and its form:
0 `msg`, 1 `mcast`, 2 `send`, 3 `cont`, 4 a fault packet, 5 a doorbell, 6 a bounce (log 42). One that has landed from another device and
awaits acceptance has a ticket (R229). -/
structure Msg where
  srcDev : Nat
  srcCore : Nat
  srcCtx : Nat
  dstDev : Nat
  dstCore : Nat
  dstCtx : Nat
  hdr : Word
  pay : List CReg
  clk : Option Carried
  form : Nat
  ticket : Option Nat := none
deriving DecidableEq, Repr

/-- An inbox entry (R277, R278), with its place in its core's arrival order. -/
structure InboxEntry where
  msg : Msg
  held : Bool
  order : Nat
deriving DecidableEq, Repr

/-- A work entry (R159, R285): context, first word, second register, the poster's clock. -/
structure WorkEntry where
  asid : Nat
  word : Word
  reg : CReg
  clk : Carried
deriving DecidableEq, Repr

/-- A heap record (R281): KIND 0 message, 1 held message, with its place in arrival order; 2 work entry. -/
inductive HeapRec where
  | message (m : Msg) (held : Bool) (order : Nat)
  | work (w : WorkEntry)
deriving DecidableEq, Repr

/-- A saved strand context, or both members of a saved pair (R287, R288). -/
structure Saved where
  handle : Nat
  inCache : Bool
  control : Bool
  images : List Slot
deriving DecidableEq, Repr

/-- A translation (R238): context, virtual address of the page, its size, target and address. -/
structure Tlb where
  asid : Nat
  va : Nat
  size : Nat
  tgt : Nat
  pa : Nat
deriving DecidableEq, Repr

/-- A release table entry (R300): the domain's context, the key (0: an object, 1: a word) and its clock. -/
structure Release where
  asid : Nat
  word : Bool
  key : Nat
  clk : Carried
deriving DecidableEq, Repr

/-- A tile queue (R185). -/
structure Queue where
  cap : CReg
  n : Nat
  prod : Nat
  read : Nat
  free : Nat
  clks : Tab Carried
deriving DecidableEq, Repr

/-- The operand latch (R199): format, the rows' bytes and tags, the recorded object and generation, whether it
was loaded from an OWN, and the restriction bits of that. -/
structure Latch where
  fmt : Nat
  bytes : List Byte
  tags : List Bool
  obj : Nat
  gen : Nat
  own : Bool
  rbits : Nat
deriving DecidableEq, Repr

/-- A tile in a ring input, with the context that sent it (R199, R200). -/
structure RingTile where
  latch : Latch
  asid : Nat
deriving DecidableEq, Repr

/-- The matrix state that a holder change saves (R184), with the clock of the last completion that targeted each bank, which
`aget` acquires (R195). -/
structure MatrixState where
  acc : Tab (BitVec 32)
  latch : Option Latch
  queues : Tab Queue
  bankClks : Tab Carried
deriving DecidableEq, Repr

/-- An engine command (R189 to R192): the pushing domain and strand, SEQ, the four registers, the pushed clock, the pc and code of
the push, and its outcome: none while it runs; then STATUS, COUNT, EVENTS and the element of a claim or MOVE. `leave`: grants it
has (R407). `stopped`: it stands at a racing access until its strand resumes (R191); `kind` and `born` say which strand that is. `since`: when it was pushed, or became its domain's first on the port. `sent`: its request to another device is out. Of one that has begun:
`got`, the bytes that it has read, or its result; `wrote`, how many bytes it has written, or rows it has passed; `events`, its EVENTS;
`read`, a collective's reads have been checked for races; `waited`, it has waited for leave. `marked`: the bytes that it still has in the counter of its group (R204). -/
structure Cmd where
  asid : Nat
  slot : Nat
  seq : Nat
  h : CReg
  x : CReg
  y : CReg
  z : CReg
  clk : Carried
  pc : Nat
  code : CReg
  done : Option (Nat × Nat × Nat × Option CReg)
  leave : Nat
  stopped : Bool
  kind : Nat
  born : Nat
  since : Nat
  sent : Bool
  got : List Byte := []
  wrote : Nat := 0
  events : Nat := 0
  read : Bool := false
  waited : Bool := false
  marked : Nat := 0
deriving DecidableEq, Repr

/-- A queued result element (R192, R193): its command's SEQ, its value and clock. -/
structure Element where
  val : CReg
  clk : Carried
deriving DecidableEq, Repr

/-- The open race record of a core (R313, R314): doublewords, the TIMEBASE of its last extension, and the partition whose report
object it goes to. -/
structure OpenRec where
  dw : List Word
  last : Nat
  part : Nat
deriving DecidableEq, Repr

/-- A core (R12). `arrived`: the messages that have arrived (R277). `icache`: the lines that its instruction cache holds, as (OBJID, line of the object). -/
structure Core where
  slots : Tab Slot
  l1 : List L1Line
  inbox : List InboxEntry
  arrived : Nat
  work : List WorkEntry
  tcc : List Saved
  tlb : List Tlb
  checkCache : List Nat
  icache : List (Nat × Nat)
  rtable : List Release
  holder : Option Nat
  mx : MatrixState
  passes : Nat
  retiredCols : List Nat
  ring : Option RingTile
  ports : Tab (List Cmd)
  loopSlot : Option Nat
  last : Nat
  starts : List Nat
  outHandle : Nat
  schedResult : Nat
  schedBusy : Bool
  schedSaved : Bool
  nextHandle : Nat
  births : Nat
  openRec : Option OpenRec
  outOfService : Bool
  episode : Bool
  episodeBy : Nat
  spilt : List Nat
  shipped : List (Nat × WorkEntry)
deriving DecidableEq, Repr

/-- The matrix state of a new holder (R184). -/
def MatrixState.fresh : MatrixState := { acc := [], latch := none, queues := [], bankClks := [] }

/-- A core after reset. -/
def Core.reset : Core :=
  { slots := [], l1 := [], inbox := [], arrived := 0, work := [], tcc := [], tlb := [], checkCache := [], icache := [], rtable := [],
    holder := none, mx := .fresh, passes := 0, retiredCols := [], ring := none, ports := [],
    loopSlot := none, last := 15, starts := [], outHandle := 0, schedResult := 0, schedBusy := false, schedSaved := false,
    nextHandle := 1, births := 0, openRec := none, outOfService := false, episode := false, episodeBy := 0, spilt := [],
    shipped := [] }

/-- A helper handle of a domain (R155, R156): SERIAL, whether it is a pair, slot, and once it has ended its result and
clock. -/
structure Handle where
  serial : Nat
  isPair : Bool
  slot : Nat
  ended : Option (CReg × Carried)
deriving DecidableEq, Repr

/-- A domain: a core with a context (R21). `swept`: since its last rebase no sweep pass has begun (0), one has begun (1), or one that
began since has completed (2) (R307). `set`: when hardware last set each bit of TAGS (0 to 63), LOSS (64) and SCOPECLIP (65) (R39). -/
structure Domain where
  part : Nat
  supv : Bool
  bindings : Tab CReg
  heapCap : CReg
  heapSize : Nat
  heap : List HeapRec
  rxls : Option Nat
  rxcl : Option Nat
  rxhb : Option Nat
  tags : Word
  tagClks : Tab Carried
  mode : Nat
  epoch : Nat
  loss : Bool
  scopeClip : Bool
  set : Tab Nat
  groups : Quad
  starts : Tab Nat
  floor : List Nat
  engines : Tab (List Nat)
  serial : Nat
  handles : List Handle
  counters : Tab Nat
  stopped : Bool
  pushes : Tab Nat
  doneSeq : Tab Nat
  elements : Tab (List Element)
  mx : Option MatrixState
  remoteFail : Option Nat
  swept : Nat
deriving DecidableEq, Repr

/-- A domain as R270 step 5 creates it, before the record's values are set. -/
def Domain.fresh : Domain :=
  { part := 0, supv := false, bindings := [], heapCap := CReg.zero, heapSize := 0, heap := [], rxls := none,
    rxcl := none, rxhb := none, tags := 0, tagClks := [], mode := 0, epoch := 0, loss := false,
    scopeClip := false, set := [], groups := 0, starts := [], floor := [], engines := [], serial := 0, handles := [],
    counters := [], stopped := false, pushes := [], doneSeq := [], elements := [], mx := none,
    remoteFail := none, swept := 2 }

/-- A context (R16). -/
structure Context where
  part : Nat
  root : Nat
  compat : Bool
  ptab : Nat
  codeObj : Nat
deriving DecidableEq, Repr

/-- A group table entry (R272), with the instance number, the member cores that arrived, those of other devices that have arrived at the
next instance, and the clocks joined, by domain (R160, R299). -/
structure Group where
  asid : Nat
  scope : Nat
  count : Nat
  members : List (Nat × Nat)
  arrived : List (Nat × Nat)
  early : List (Nat × Nat)
  pending : Nat
  inst : Nat
  joined : Tab Carried
deriving DecidableEq, Repr

/-- An open shuffle of a partition on this device (R214, R340, R358, R362). `bad`: packets under another plan have come for it. -/
structure Shuffle where
  digest : BitVec 64
  invalid : Bool
  bad : Bool
  plan : List Byte
  nacks : Nat
  coded : Nat
  ran : Bool
  active : List Nat
deriving DecidableEq, Repr

/-- A side-information entry (R214). -/
structure Side where
  id : Nat
  obj : Nat
  loc : Nat
  gen : Nat
deriving DecidableEq, Repr

/-- The SHUFFLE of a shuffle (R213, R362, R363): where it runs, since when, the blocks placed, the blocks sent with their send times,
whether each was sent again, and whether it was acknowledged; the bytes that were read of each (R364); of a block whose placing stopped at
a race, the bytes placed (R304); and whether the command has ended. -/
structure Running where
  id : Nat
  core : Nat
  start : Nat
  placed : List Nat
  sent : List (Nat × Nat × Bool × Bool)
  kept : Tab (List Byte)
  partly : Tab Nat
  done : Bool
deriving DecidableEq, Repr

/-- A HOST window (R372). -/
structure Window where
  obj : Nat
  tenant : Bool
deriving DecidableEq, Repr

/-- A decrypt stream (R383). -/
structure DStream where
  key : BitVec 256
  salt : BitVec 32
  counter : Nat
deriving DecidableEq, Repr

/-- The counter latch of a function (R395). -/
structure CLatch where
  valid : Bool
  sel : Word
  off : Nat
  high : Nat
deriving DecidableEq, Repr

/-- A launch that runs (R273). -/
structure Launched where
  ticket : Nat
  asid : Nat
  cores : List Nat
  groups : List Nat
deriving DecidableEq, Repr

/-- A remap table entry (R352). -/
structure Remap where
  valid : Bool
  epoch : Nat
  phys : Nat
deriving DecidableEq, Repr

/-- A partition (R370 to R401). TDI states: 0 CONFIG_UNLOCKED, 1 CONFIG_LOCKED, 2 RUN, 3 ERROR. `comers`: arrivals of other devices'
members, as (group, device, core, instance), that came before this device opened the group (R160). `raceDropped`: records dropped while no
race report object was installed (R315). `winBusy`: the window of a request that is in progress (R370). `late`: a write, by its offset in
the aperture, of a SYNC word whose deferred list is full (R377). -/
structure Partition where
  pstate : Nat
  resetPending : Bool
  flr : Bool
  supvCores : List Nat
  supvCtx : Nat
  queue : List (Nat × Nat)
  status : List (Nat × Nat)
  running : List Launched
  groups : Tab Group
  comers : List (Nat × Nat × Nat × Nat)
  assist : Tab CReg
  dbports : Tab CReg
  exports : Tab CReg
  raceRep : CReg
  raceDropped : Nat
  windows : Tab Window
  winVa : Nat
  winResult : Nat
  winBusy : Option Nat
  late : Option (Nat × Quad)
  tenantOnly : Bool
  shuffles : Tab Shuffle
  sides : List Side
  active : List Running
  sums : Tab Nat
  sel : Word
  latch : CLatch
  snaps : Tab Nat
  unavailable : List Nat
  policy : Option (List Byte)
  streams : Tab DStream
  tdi : Nat
  faults : List (List Word)
  ofpart : Nat
  latTol : Nat
  deepest : Nat
  job : Nat
  pkey : Nat
  otcap : Nat
  remap : Tab Remap
  traceCounts : Tab Nat
  debugObj : Nat
  aer : Nat
deriving DecidableEq, Repr

/-- A partition at reset. LATTOL's reset value is R406's; the others are zero or none. -/
def Partition.reset : Partition :=
  { pstate := 0, resetPending := false, flr := false, supvCores := [], supvCtx := 0, queue := [], status := [], running := [],
    groups := [], comers := [], assist := [], dbports := [], exports := [], raceRep := CReg.zero, raceDropped := 0, windows := [],
    winVa := 0, winResult := 0, winBusy := none, late := none, tenantOnly := false, shuffles := [], sides := [], active := [], sums := [],
    sel := 0, latch := ⟨false, 0, 0, 0⟩, snaps := [], unavailable := [], policy := none, streams := [], tdi := 0,
    faults := [], ofpart := 0, latTol := 0x14, deepest := 0, job := 0, pkey := 1, otcap := 65536, remap := [],
    traceCounts := [], debugObj := 0, aer := 0 }

/-- A cluster's trace control of one partition (R396), and the records dropped while it has no TRACEBUF (R397). -/
structure Trace where
  period : Nat
  en : Nat
  buf : CReg
  dropped : Nat
deriving DecidableEq, Repr

/-- A cluster: debug module, trace unit, cluster TLB, sweep and power state (R337, R396, R238, R306, R405).
Power: 0 running, 1 clock-gated, 2 retention, 3 off; `wake`: an event waits at its edge. -/
structure Cluster where
  arm : Bool
  onBreak : Bool
  halted : Bool
  objSel : Nat
  lineSel : Nat
  traces : Tab Trace
  optrace : Nat
  tlb : List Tlb
  sweep : Nat
  power : Nat
  wake : Bool
deriving DecidableEq, Repr

/-- A cluster at reset. -/
def Cluster.reset : Cluster :=
  { arm := false, onBreak := false, halted := false, objSel := 0, lineSel := 0, traces := [], optrace := 0,
    tlb := [], sweep := 0, power := 0, wake := false }

/-- A transfer in progress (R229 to R233): the object, the level of the receive pool that its bytes are to be copied
into, once its message has been sent to another device the message and the time at which it bounces, and the grants that its copy has
(R231, R407). -/
structure Transfer where
  obj : Nat
  copyTo : Option Nat
  sent : Option (Nat × Msg)
  leave : Nat := 0
deriving DecidableEq, Repr

/-- What a message to another device brings for one payload register that holds an OWN or SHADE of an object of the sender
(R230, R231, R234): the register, the object's home, its length, and, for a copy, the level to copy to, the bytes and the
tags of its granules. -/
structure Moved where
  index : Nat
  homeDev : Nat
  homeObj : Nat
  homeGen : Nat
  length : Nat
  copy : Option (Nat × List Byte × List Bool)
deriving DecidableEq, Repr

/-- A request in a bank's deferred list (R146, R147): the word's flat address, the requester (device, core, slot; slot
16 is the host), the operation (0 take, 1 peek, 2 put, 3 atomic) and a put's value and clock. -/
structure Waiter where
  word : Nat
  dev : Nat
  core : Nat
  slot : Nat
  op : Nat
  dst : Nat
  val : CReg
  clk : Carried
  len : Nat
deriving DecidableEq, Repr

/-- Pool space that is being cleaned (R222): the pool, the run, and the partition it belongs to. -/
structure Cleaning where
  pool : Nat
  base : Nat
  len : Nat
  part : Nat
deriving DecidableEq, Repr

/-- A line of the host write buffer (R255): bus address, bytes, the strands that wrote it, by core and number of their start, window,
the time it entered, and whether a release of a writer orders it ahead of later accesses to the host. -/
structure HostLine where
  addr : Nat
  bytes : List (Option Byte)
  writers : List (Nat × Nat)
  obj : Nat
  time : Nat
  ordered : Bool := false
deriving DecidableEq, Repr

/-- How an outstanding load is answered (R125, R131, R357, R375): from the level the model holds, with bytes from another
device, with a refusal code (R126), with an error of the host link, or with an uncorrectable error in one of the access's pieces. -/
inductive Reply where
  | level
  | bytes (b : List Byte)
  | refused (code : Nat)
  | unsupported
  | abort
  | poisoned
  | ecc (piece : Nat)
deriving DecidableEq, Repr

/-- What a packet of a block of a shuffle, or of a lake block, states and carries (R361): packet `ix` of `npkt`. -/
structure Block where
  shuf : Nat
  block : Nat
  blockB : Nat
  ix : Nat
  npkt : Nat
  digest : BitVec 64
  crcA : BitVec 64
  crcB : BitVec 64
  rcvA : Nat
  rcvB : Nat
  coder : Nat
  payload : List Byte
deriving DecidableEq, Repr

/-- What a packet carries, by TYPE (R348, R357, R361). The spec gives no TYPE to a member's arrival at a barrier of several devices (R160)
and to the `free` of a REMOTE object (R234): `arrival` and `release` (log 62); nor how the bytes of a copied object that one packet cannot carry
are cut: `piece`, the bytes and tags from an offset on of an object of a message that follows (R231, R347). An ERRCOMP names the packet that
it answers (R352, R353). -/
inductive Body where
  | msg (m : Msg) (moved : List Moved)
  | msgAck (m : Msg) (moved : List (Nat × Bool)) (refused : Bool)
  | rload (core slot obj gen loc n : Nat)
  | rdata (core slot : Nat) (r : Reply)
  | rbatch (core slot : Nat) (stores : List RemoteStore)
  | rback (core slot : Nat) (code : Option Nat)
  | ewrite (core port seq obj gen loc : Nat) (b : List Byte)
  | eread (core port seq obj gen loc n : Nat)
  | eack (core port seq : Nat) (code : Option Nat) (b : List Byte)
  | block (b : Block)
  | lake (b : Block)
  | sack (b : Block)
  | snack (b : Block) (reason : Nat)
  | edata (core port seq : Nat) (r : Reply)
  | errcomp (of : Body)
  | piece (obj gen off : Nat) (b : List Byte) (tags : List Bool)
  | stopnote (core ctx : Nat) (stop : Bool)
  | arrival (core group inst : Nat)
  | release (dev core ctx obj gen : Nat) (heir : Option (Nat × Nat × Nat))
  | mgmt
  | reserved (type : Nat)
deriving DecidableEq, Repr

/-- A packet's header flit and body (R347). -/
structure Packet where
  tc : Nat
  dl : Nat
  det : Bool
  nocode : Bool
  viac : Bool
  pkey : Nat
  dst : Nat
  src : Nat
  dstJob : Nat
  srcJob : Nat
  remapEp : Nat
  seq : Nat
  dstCore : Nat
  srcCore : Nat
  ctx : Nat
  body : Body
deriving DecidableEq, Repr

/-- A message from another device that has landed and awaits its acceptance (R229): its packet, and which registers were copied. -/
structure Landing where
  packet : Packet
  acks : List (Nat × Bool)
deriving DecidableEq, Repr

/-- A packet that waits for credits on a link (R344): its virtual channel, and its flits that have none yet. -/
structure Waiting where
  packet : Packet
  vc : Nat
  left : Nat
deriving DecidableEq, Repr

/-- One direction pair of a fabric port (R343 to R346): lanes in use (0: down), the next GSEQ to send, the next GSEQ
expected, groups sent and not acknowledged, each with its packet and its place in it, resends in a row of the oldest, the credits that it
holds for each virtual channel, the flits received for which it owes credits, what waits for credits, whether its neighbour is fenced, and
the TC 3 reads that it has forwarded (R356). -/
structure Link where
  width : Nat
  txSeq : Nat
  rxSeq : Nat
  replay : List (Nat × Packet × Nat)
  tries : Nat
  credits : List Nat
  owed : List Nat
  queue : List Waiting
  nextFenced : Bool
  reads : List Packet
deriving DecidableEq, Repr

/-- A link at reset: 24 lanes (R343), and the other end's 64 flits per virtual channel free (R344). -/
def Link.reset : Link :=
  { width := 24, txSeq := 0, rxSeq := 0, replay := [], tries := 0, credits := List.replicate 12 64, owed := List.replicate 12 0,
    queue := [], nextFenced := false, reads := [] }

/-- A hold entry of an active coding point (R360): the shuffle's partition and identifier, the point's two blocks, the
packets held of the two originals, the block length, the packets of each that have come, by index, state (0 WAIT, 1 CODED, 2 UNCODED),
time of the first original, timer start, expiries, and the SACKs. -/
structure HoldEntry where
  part : Nat
  shuf : Nat
  xa : Nat
  xb : Nat
  origA : List Packet
  origB : List Packet
  len : Nat
  seenA : List Nat
  seenB : List Nat
  state : Nat
  since : Nat
  timer : Nat
  expiries : Nat
  sackA : Bool
  sackB : Bool
deriving DecidableEq, Repr

/-- A mishap of an engine command (R192, R205): after how many bytes it strikes, and the STATUS it gives. -/
structure Mishap where
  after : Nat
  status : Nat
deriving DecidableEq, Repr

/-- A soft error of a matrix column in a pass (R198): the command's row, the column (64: the checker's), the first value there, and
its value in the rerun (none: the rerun is right). -/
structure Upset where
  row : Nat
  col : Nat
  first : BitVec 32
  again : Option (BitVec 32)
deriving DecidableEq, Repr

/-- What another device's member of a collective brings (R209): rank, PARAM, Z, and its source bytes. -/
structure Member where
  rank : Nat
  param : Word
  z : Quad
  bytes : List Byte
deriving DecidableEq, Repr

/-- A trace record (R397). -/
abbrev TraceRec := List Word

/-- A die's power manager (R404, R407): throttled, the latest sample, the grants that are out, and when it granted last; and its page walker (R12, R238,
R240): the walks asked for, oldest first, as (context, page), and the cache of non-leaf entries, as (context, flat address, entry). -/
structure Die where
  throttled : Bool
  degrees : Nat
  granted : Nat
  grantAt : Option Nat
  walks : List (Nat × Nat)
  entries : List (Nat × Nat × Nat)
deriving DecidableEq, Repr

/-- A die at reset. -/
def Die.reset : Die := ⟨false, 0, 0, none, [], []⟩

/-- A firmware image (R408): header fields, body and signature. -/
structure Firmware where
  version : Nat
  slotSeq : Nat
  body : List Byte
  sig : BitVec 512
deriving DecidableEq, Repr

/-- The flash regions (R408, R409). CONFIG is the record's bytes, as R409 lays them out. -/
structure Flash where
  ident : List Byte
  identSig : BitVec 512
  operatorKey : BitVec 256
  ownerSig : BitVec 512
  fwa : Firmware
  fwb : Firmware
  active : Nat
  config : List Byte
  retmap : Tab Nat
deriving DecidableEq, Repr

/-- An empty flash. -/
def Flash.empty : Flash :=
  { ident := [], identSig := 0, operatorKey := 0, ownerSig := 0, fwa := ⟨0, 0, [], 0⟩, fwb := ⟨0, 0, [], 0⟩,
    active := 0, config := [], retmap := [] }

/-- A migration image (R400, R411): what it holds, the flat ranges of its objects with their bytes, its counter section in bytes, and whether it verifies. -/
structure Image where
  part : Nat
  ctxs : Tab Context
  objs : Tab Obj
  spans : List (Nat × Nat)
  bytes : List (Nat × Byte)
  tags : List Nat
  full : List Nat
  domains : Tab Domain
  saved : List (Nat × Saved)
  groups : Tab Group
  remap : Tab Remap
  policy : Option (List Byte)
  counters : List Byte
  verified : Bool
deriving DecidableEq, Repr

/-- What management reads over MCTP (R356, R392, R411): a counter of a partition, a record of the operator ring from the oldest on, the
oldest operator copy of a partition, a die's temperature, and the write log of TC 3 requests. -/
inductive Query where
  | counter (part n : Nat) (inst : Bool) (core asid : Nat)
  | trace (n : Nat)
  | fault (part : Nat)
  | sensor (die : Nat)
  | writes
deriving DecidableEq, Repr

/-- What leaves the device: packets on a port (or to the own interface), groups of them that are sent again, control words, completions and interrupts to the host, packets
to the management controller, and its reports. -/
inductive Output where
  | packet (port : Nat) (p : Packet)
  | group (port gseq : Nat) (p : Packet) (ix : Nat)
  | control (port ackseq : Nat) (nak : Bool) (crvc crn : Nat)
  | hostRead (fn off : Nat) (v : Nat)
  | unsupportedRequest (fn off : Nat)
  | inboundData (fn addr : Nat) (b : List Byte)
  | inboundRefused (fn addr : Nat)
  | hostWrite (addr : Nat) (b : List (Option Byte))
  | zeroRead (obj : Nat)
  | msix (fn vec : Nat)
  | faultToManagement (dw : List Word)
  | spdm (fn : Nat) (key : BitVec 256) (blocks : List (BitVec 512))
  | policy (fn code : Nat)
  | image (i : Image)
  | report (code arg : Nat)
  | managed (q : Query) (v : List Nat)
deriving DecidableEq, Repr

end Sys2Proof.Machine
end

