-- ==== Sys2Proof/Syntax.lean ====
section
/-! DEFINITION. The instructions and the steps of the device: one constructor per row of spec/opcode_table.json.
The first 203 rows are instruction encodings (R47 to R71); the others are steps that the hardware, the host, the fabric
or the management controller brings about, with what they bring as arguments. -/

namespace Sys2Proof

open Machine

/-- c registers c0 to c31 (R23). -/
abbrev CR := Fin 32
/-- v registers v0 to v15 (R23). -/
abbrev VR := Fin 16
/-- p registers p0 to p7 (R23). -/
abbrev PR := Fin 8
/-- Tile queues q0 to q7 (R12). -/
abbrev QR := Fin 8
/-- Engine ports e0 to e2 (R38, R66). -/
abbrev EP := Fin 3

/-- Conditions on two registers (R49). -/
inductive Cond where
  | eq | ne | lt | ge | lo | hs
deriving DecidableEq, Repr

/-- Conditions on a register against zero (R49). -/
inductive CondZ where
  | eqz | nez | ltz | gez | gtz | lez
deriving DecidableEq, Repr

/-- Size codes (R55). -/
inductive Size where
  | b | h | w | d | q | bz | hz | wz
deriving DecidableEq, Repr

/-- Integer lane types (R60). -/
inductive ITy where
  | i8 | n8 | i4 | n4 | i64 | n64
deriving DecidableEq, Repr

/-- Floating lane types (R60). -/
inductive FTy where
  | f64 | f32 | f16 | bf16
deriving DecidableEq, Repr

/-- Vector compare relations (R61). -/
inductive VRel where
  | eq | ne | lt | le | gt | ge
deriving DecidableEq, Repr

/-- Capability fields (R57). -/
inductive Field where
  | kind | rbits | frac | gen | objid | cursor | length | level
deriving DecidableEq, Repr

/-- Types of a floating atomic (R58). -/
inductive AFTy where
  | f32 | f64 | bf16
deriving DecidableEq, Repr

/-- Format codes of the convert variant (R62). -/
inductive Fmt where
  | f64 | f32 | f16 | bf16 | e4m3 | e5m2 | e2m3 | e3m2 | e2m1 | mxi8 | i8 | n8 | i4 | n4 | i64 | n64
deriving DecidableEq, Repr

set_option genSizeOf false in
/-- The rows of spec/opcode_table.json, in its order but for ILLEGAL, which stands beside the encodings. -/
inductive Instr where
  -- integer, register forms (R104)
  | add (d a b : CR) | sub (d a b : CR) | and (d a b : CR) | or (d a b : CR) | xor (d a b : CR)
  | shl (d a b : CR) | shr (d a b : CR) | sra (d a b : CR)
  | min (d a b : CR) | max (d a b : CR) | minn (d a b : CR) | maxn (d a b : CR)
  | addQ (d a b : CR) | subQ (d a b : CR) | andQ (d a b : CR) | orQ (d a b : CR) | xorQ (d a b : CR)
  | setCc (d a b : CR) (c : Cond)
  -- immediate forms (R105 to R108)
  | addi (d a : CR) (imm : BitVec 15) | andi (d a : CR) (imm : BitVec 15)
  | ori (d a : CR) (imm : BitVec 15) | xori (d a : CR) (imm : BitVec 15)
  | shli (d a : CR) (sh : BitVec 6) | shri (d a : CR) (sh : BitVec 6)
  | srai (d a : CR) (sh : BitVec 6) | roli (d a : CR) (sh : BitVec 6)
  | setiCc (d a : CR) (c : Cond) (imm : BitVec 12)
  | lkZ (d : CR) (pos : BitVec 2) (imm : BitVec 16) | lkK (d : CR) (pos : BitVec 2) (imm : BitVec 16)
  | lkS (d : CR) (pos : BitVec 2) (imm : BitVec 16)
  -- multiply and divide (R109), bit operations (R110), addpc (R111)
  | mul (d a b : CR) | mulh (d a b : CR) | mulhn (d a b : CR) | div (d a b : CR) | divn (d a b : CR)
  | remS (d a b : CR) | remn (d a b : CR) | mulx (d a b : CR) | mulxn (d a b : CR)
  | clz (d a : CR) | ctz (d a : CR) | popc (d a : CR) | brev (d a : CR) | bswap (d a : CR)
  | bext (d a b : CR) | bins (d a b : CR) | andn (d a b : CR)
  | addpc (d : CR) (k : BitVec 15)
  -- control transfer (R114 to R117)
  | b (k : BitVec 25) | bl (k : BitVec 25)
  | bcc (a b : CR) (c : Cond) (k : BitVec 12) | bccz (a : CR) (c : CondZ) (k : BitVec 17)
  | br (a : CR) | brl (a : CR) | ret | dbnz (a : CR) (k : BitVec 17)
  -- strand control (R118 to R120), state registers, counters, time (R121, R122)
  | nop | endStrand | trap (code : BitVec 12) | brk (code : BitVec 12) | yield
  | rdst (d : CR) (n : BitVec 12) | wrst (a : CR) (n : BitVec 12) | setst (a : CR) (n : BitVec 12)
  | clrst (a : CR) (n : BitVec 12) | rdcnt (d : CR) (n : BitVec 12) | clock (d : CR)
  -- remote regions (R124, R127, R128)
  | rmtBegin (e : CR) (k : BitVec 17) | rmtCommit (s : CR) | rmtAbort
  -- loads and stores (R133 to R135), streams (R136)
  | ld (d a : CR) (z : Size) (off : BitVec 12) | st (d a : CR) (z : Size) (off : BitVec 12)
  | ldc (d a : CR) (off : BitVec 12) | stc (d a : CR) (off : BitVec 12)
  | ldx (d a b : CR) (z : Size) (sc : Fin 5) | stx (d a b : CR) (z : Size) (sc : Fin 5)
  | sbind (s a b : CR) (out : Bool) (e : Fin 5) | sunbind (s : CR)
  -- objects, shades, rights (R138 to R145)
  | alloc (d a b : CR) | free (a : CR) | creclaim (d a : CR)
  | split (d a b : CR) | join (d a b : CR) | send (a p : CR) (hint : BitVec 2) (strict : Bool)
  | cview (d a b : CR) | cget (d a : CR) (f : Field) | cset (d a b : CR) (f : Field)
  | cinc (d a b : CR) | ctest (d a : CR)
  -- sync words (R147), atomics (R149 to R151)
  | take (d a : CR) (off : BitVec 12) | put (d a : CR) (off : BitVec 12) (strict : Bool)
  | peek (d a : CR) (off : BitVec 12)
  | amoAdd (d a b : CR) (strict dbl : Bool) | amoAnd (d a b : CR) (strict dbl : Bool)
  | amoOr (d a b : CR) (strict dbl : Bool) | amoXor (d a b : CR) (strict dbl : Bool)
  | amoMin (d a b : CR) (strict dbl : Bool) | amoMax (d a b : CR) (strict dbl : Bool)
  | amoMinn (d a b : CR) (strict dbl : Bool) | amoMaxn (d a b : CR) (strict dbl : Bool)
  | amoSwap (d a b : CR) (strict dbl : Bool) | amoCas (d a b : CR) (strict dbl : Bool)
  | amoFadd (d a b : CR) (strict : Bool) (t : AFTy) (ctl : BitVec 4)
  | amoFmin (d a b : CR) (strict : Bool) (t : AFTy) (ctl : BitVec 4)
  | amoFmax (d a b : CR) (strict : Bool) (t : AFTy) (ctl : BitVec 4)
  | amoCas2 (d a b : CR) (strict : Bool)
  -- messages (R153, R161), handlers (R154), helpers (R155 to R157)
  | msg (p a h : CR) (n : Fin 9) | mcast (p a h : CR) (n : Fin 9) | cont (p a h : CR) (n : Fin 9)
  | bind (a : CR) (cls : BitVec 6) | unbind (cls : BitVec 6)
  | hstart (d a b : CR) | pair (d a b : CR) | hwait (d a : CR) | hkill (a : CR)
  -- tags (R158), work lists (R159), barriers (R160)
  | wany (a : CR) | wall (a : CR) | ffr (d a : CR) | tclr (a : CR)
  | post (a : CR) | grab (d : CR) | bar (g : BitVec 8) | barAdd (a : CR) (g : BitVec 8)
  -- vector integer (R165)
  | vadd (d a b : VR) (p : PR) (t : ITy) | vsub (d a b : VR) (p : PR) (t : ITy)
  | vmul (d a b : VR) (p : PR) (t : ITy) | vmin (d a b : VR) (p : PR) (t : ITy)
  | vmax (d a b : VR) (p : PR) (t : ITy) | vand (d a b : VR) (p : PR) (t : ITy)
  | vor (d a b : VR) (p : PR) (t : ITy) | vxor (d a b : VR) (p : PR) (t : ITy)
  | vshl (d a b : VR) (p : PR) (t : ITy) | vshr (d a b : VR) (p : PR) (t : ITy)
  | vabs (d a : VR) (p : PR) (t : ITy) | vneg (d a : VR) (p : PR) (t : ITy)
  | vadds (d a b : VR) (p : PR) (t : ITy) | vsubs (d a b : VR) (p : PR) (t : ITy)
  | vmulh (d a b : VR) (p : PR) (t : ITy) | vavg (d a b : VR) (p : PR) (t : ITy)
  -- vector floating (R166)
  | vfadd (d a b : VR) (p : PR) (t : FTy) | vfsub (d a b : VR) (p : PR) (t : FTy)
  | vfmul (d a b : VR) (p : PR) (t : FTy) | vfdiv (d a b : VR) (p : PR) (t : FTy)
  | vfma (d a b : VR) (p : PR) (t : FTy) | vfmin (d a b : VR) (p : PR) (t : FTy)
  | vfmax (d a b : VR) (p : PR) (t : FTy) | vfabs (d a : VR) (p : PR) (t : FTy)
  | vfneg (d a : VR) (p : PR) (t : FTy) | vfsqrt (d a : VR) (p : PR) (t : FTy)
  -- compares, predicates, select (R167 to R169)
  | vcmp (d : PR) (a b : VR) (p : PR) (t : ITy) (r : VRel) | vfcmp (d : PR) (a b : VR) (p : PR) (t : FTy) (r : VRel)
  | vsel (d a b : VR) (p : PR) (t : ITy) | pand (d a b : PR) | por (d a b : PR) | pxor (d a b : PR)
  -- permute, lane access, reductions (R170, R171)
  | vperm (d a b : VR) (p : PR) (t : ITy) | vbcast (d : VR) (a : CR) (p : PR) (t : ITy)
  | vins (d : VR) (a b : CR) (p : PR) (t : ITy) | vext (d : CR) (a : VR) (b : CR) (t : ITy)
  | vredadd (d : CR) (a : VR) (p : PR) (t : ITy) | vredmin (d : CR) (a : VR) (p : PR) (t : ITy)
  | vredmax (d : CR) (a : VR) (p : PR) (t : ITy) | vfredadd (d : CR) (a : VR) (p : PR) (t : FTy)
  | vfredmin (d : CR) (a : VR) (p : PR) (t : FTy) | vfredmax (d : CR) (a : VR) (p : PR) (t : FTy)
  -- conversions (R173 to R175)
  | vcvt (d a : VR) (to_ from_ : Fmt) | vmxq (d a : VR) (to_ from_ : Fmt) | vmxd (d a : VR) (to_ from_ : Fmt)
  -- vector memory (R176 to R178), vector loop (R180)
  | vld (d : VR) (a : CR) (p : PR) (off : BitVec 9) | vst (d : VR) (a : CR) (p : PR) (off : BitVec 9)
  | vgather (d : VR) (a : CR) (vi : VR) (p : PR) (w : Fin 4) | vscatter (d : VR) (a : CR) (vi : VR) (p : PR) (w : Fin 4)
  | vloop (cnt : CR) (nm1 stag : BitVec 4) (icnt : BitVec 12)
  -- tiles (R186 to R188), engine ports (R190 to R195), shuffles (R214)
  | tld (d a b : CR) (q : QR) (qm : Bool) | tst (d a b : CR) (q : QR) (qm : Bool)
  | tqDef (a b : CR) (q : QR) | tqAdv (b : CR) (q : QR) | tqRel (b : CR) (q : QR) | tqWait (b : CR) (q : QR)
  | epush (a : CR) (e : EP) (strict : Bool) | epop (d : CR) (e : EP) | estat (d : CR) (e : EP)
  | aget (d a : CR) (bank : Bool) (g : BitVec 4)
  | shufOpen (a b : CR) | shufHold (a b : CR) | shufClose (b : CR) | shufStat (d b : CR)
  -- compact forms (R71); registers as the compact fields name them
  | cAddi (d : BitVec 4) (imm : BitVec 7) | cMov (d a : BitVec 4) | cAdd (d a : BitVec 4) | cSub (d a : BitVec 4)
  | cLi (d : BitVec 4) (imm : BitVec 7)
  | cLdD (d a : BitVec 3) (k : BitVec 5) | cStD (d a : BitVec 3) (k : BitVec 5)
  | cLdW (d a : BitVec 3) (k : BitVec 5) | cStW (d a : BitVec 3) (k : BitVec 5)
  | cLdsp (d : CR) (k : BitVec 6) | cStsp (d : CR) (k : BitVec 6)
  | cB (k : BitVec 11) | cBeqz (a : BitVec 3) (k : BitVec 8) | cBnez (a : BitVec 3) (k : BitVec 8)
  | cRet | cNop
  -- a pattern that is not an instruction (R68, R69)
  | illegal (word : BitVec 32) (compact : Bool)
  -- engine commands of a core's ports (R196 to R213); the command is the oldest that has not completed
  | mma (core : Nat) (upsets : List Upset) | loadb (core : Nat) | ringClaim (core : Nat) | passb (core : Nat)
  | drain (core : Nat) | zero (core : Nat) | mark (core : Nat)
  | copy (core : Nat) (mishap : Option Mishap) | fill (core : Nat) (mishap : Option Mishap)
  | move (core : Nat) | decrypt (core : Nat) | ckpt (core : Nat) (mishap : Option Mishap)
  | areduce (core : Nat) (others : List Member) | agather (core : Nat) (others : List Member)
  | bcast (core : Nat) (others : List Member)
  | shuffle (core : Nat) | rget (core : Nat) (mishap : Option Mishap) | rput (core : Nat) (mishap : Option Mishap)
  -- hardware steps
  | commandCompletion (core : Nat) (e : EP) | leaveGrant (core : Nat) (e : EP)
  | loadReply (core slot : Nat) (r : Reply) | storeDrain (core slot : Nat) | syncRetry (core slot : Nat)
  | pageWalk (asid page : Nat) | entryUpdate (obj : Nat) | translationStore (core slot : Nat)
  | cleaningDone (pool base : Nat) | transferPlacement (obj : Nat) | transferBounce (obj : Nat)
  | helperStart (core : Nat) | messageArrival (core pick : Nat) | messageClaim (core : Nat)
  | controlStrandEntry (core : Nat) | spillOut (core : Nat) | spillReplay (core asid : Nat)
  | workReplay (core asid : Nat) | levellingSample | workShipArrival (core : Nat)
  | quiescenceTest | launchSubmit (fn : Nat) (v : Word) | launch (part : Nat) | launchRetire (part : Nat)
  | lqstatusRead (fn : Nat)
  | schedOut (core slot : Nat) (pairAll : Bool) | schedIn (core slot handle : Nat) (pairAll : Bool)
  | schedExchange (core slot handle : Nat) (pairAll : Bool) | swapBoundary (core slot : Nat)
  | domainStop (core asid : Nat) | domainResume (core asid : Nat) | stopnote (dev core asid : Nat) (stop : Bool)
  | resume (core slot : Nat) | kill (core slot : Nat) | halt (core slot : Nat) | step (core slot : Nat)
  | crossTriggerFire (cluster : Nat) | crossTriggerRelease (cluster : Nat)
  | pairEffectMatch (core slot : Nat) | eccUncorr (site core slot obj : Nat)
  | raceRecordAppend (core : Nat) | sweepVisit (cluster : Nat) | rebase (core asid : Nat)
  | remoteLoadServe (p : Packet) | noReply (core slot dev : Nat)
  | commitOutcome (core slot : Nat) (answers : List (Nat × Option Nat)) | rbatch (p : Packet)
  | linkGroupReceive (port : Nat) (flits : List Byte) (ctl : Quad) | nak (port gseq : Nat) | linkDown (port : Nat)
  | widthChange (port lanes : Nat) | packetHop (port : Nat) (p : Packet)
  | remapWrite (part job phys : Nat) (valid : Bool) | deviceFence (dev : Nat) (keys : List Nat)
  | isolatedReadAnswer (port : Nat) (p : Packet)
  | holdFirstArrival (p : Packet) | holdPartnerArrival (p : Packet) | pairwait (shuf xa : Nat)
  | sack (p : Packet) | snack (p : Packet) | codedTimerExpiry (shuf xa : Nat)
  | block (p : Packet) | lake (p : Packet) | busyResend (p : Packet)
  | senderSackTimeout (part shuf blk : Nat) | shuffleReceiveTimeout (part shuf : Nat)
  | hostLineDrain (failed : Bool) | timeout (core slot : Nat)
  | inboundWrite (fn addr : Nat) (b : List (Option Byte)) | inboundSyncPut (fn addr : Nat) (v : Quad)
  | inboundRead (fn addr n : Nat) | inboundSyncPeek (fn addr n : Nat)
  | doorbellMessage (fn d : Nat) (v : Word) | doorbellTag (fn d : Nat) (v : Word)
  | windowRegister (fn : Nat) (v : Word) | windowUnregister (fn : Nat) (v : Word)
  | quiesce (part : Nat) | partitionReset (part : Nat) | flr (fn : Nat) | quiesceComplete (part : Nat)
  | resetComplete (part : Nat)
  | counterRead (fn n : Nat) (trusted : Bool) | counterReadLow (fn n : Nat) (trusted : Bool)
  | counterReadHigh (fn n : Nat) (trusted : Bool)
  | ofpop (fn : Nat) | counterIntervalSnapshot (part cls : Nat) | traceSample (cluster part : Nat)
  | traceIntervalRecord (part cls : Nat) | deepestRead (fn : Nat) | thermalSample (die degrees : Nat)
  | clusterPowerEntry (cluster : Nat) | clusterPowerExit (cluster : Nat)
  | deviceReset | getMeasurements (fn : Nat) | policyInstall (fn : Nat) (secured : Bool) (record : List Byte)
  | streamInstall (fn stream : Nat) (secured : Bool) (key : BitVec 256) (salt : BitVec 32)
  | tdiStateChange (fn state : Nat) | migrationExport (part : Nat) | migrationImport (image : Image)
  | firmwareUpdate (image : Firmware) | registerWrite (fn off : Nat) (v : Word)
  | ewrite (p : Packet) | eread (p : Packet) | commandRemoteTimeout (core : Nat) (e : EP)
  | spareJobAssign (part job key : Nat)
deriving DecidableEq, Repr

/-- One turn of the agenda (log 1): a step of the table; the issue turn of a core; one replay of a core's vector loop;
the passing of cycles; and what no row of the table names: a host's read of a register of a function (R7, R370), a request of the host
without the T bit of the function's IDE stream (R382), an error on a posted write of a partition, or in the read of a DECRYPT
(R375), a read by management (R411),
and a configuration record written to the flash (R409). -/
inductive Turn where
  | event (i : Instr)
  | issue (core : Nat)
  | replay (core : Nat)
  | pass (cycles : Nat)
  | read (fn off : Nat) (trusted : Bool)
  | clear (i : Instr)
  | posted (part : Nat)
  | unread (core : Nat) (m : Mishap)
  | manage (q : Query)
  | record (r : List Byte)
deriving DecidableEq, Repr

end Sys2Proof
end

