-- ==== Sys2Proof/WellFormed.lean ====
section
/-! DEFINITION. Which terms of Instr are instructions of the machine: the limits that the minor maps (R51 to R71) put on
fields beyond their types, and the names that steps may carry (R14, R12). -/

namespace Sys2Proof

open Machine

/-- A core identifier that names a core (R14). -/
def coreOk (c : Nat) : Bool := c < 8192 && c / 32 % 64 < 48 && c % 32 < 24

/-- A cluster, as die × 64 + cluster (R12, R14). -/
def clusterOk (c : Nat) : Bool := c < 256 && c % 64 < 48

/-- A slot number (R17). -/
def slotOk (s : Nat) : Bool := s < 16

/-- A partition or function number (R370). -/
def partOk (p : Nat) : Bool := p < 64

/-- A fabric port: die × 2 + sign (R343). -/
def portOk (p : Nat) : Bool := p < 8

/-- Sizes a store takes (R55). -/
def Size.storable : Size → Bool
  | .b => true | .h => true | .w => true | .d => true | .q => true
  | .bz => false | .hz => false | .wz => false

/-- Formats that `vcvt` takes (R173). -/
def Fmt.vcvtOk : Fmt → Bool
  | .e2m3 => false | .e3m2 => false | .e2m1 => false | .mxi8 => false
  | .f64 => true | .f32 => true | .f16 => true | .bf16 => true | .e4m3 => true | .e5m2 => true
  | .i8 => true | .n8 => true | .i4 => true | .n4 => true | .i64 => true | .n64 => true

/-- MX element formats (R174, R175). -/
def Fmt.mxOk : Fmt → Bool
  | .e4m3 => true | .e5m2 => true | .e3m2 => true | .e2m3 => true | .e2m1 => true | .mxi8 => true
  | .f64 => false | .f32 => false | .f16 => false | .bf16 => false
  | .i8 => false | .n8 => false | .i4 => false | .n4 => false | .i64 => false | .n64 => false

/-- Registers of a source or destination group of `vmxq` and `vmxd` (R174): 4 for f32, 2 for the 16-bit formats, and 0
for a format that has no group. -/
def Fmt.group : Fmt → Nat
  | .f32 => 4 | .f16 => 2 | .bf16 => 2
  | .f64 => 0 | .e4m3 => 0 | .e5m2 => 0 | .e2m3 => 0 | .e3m2 => 0 | .e2m1 => 0 | .mxi8 => 0
  | .i8 => 0 | .n8 => 0 | .i4 => 0 | .n4 => 0 | .i64 => 0 | .n64 => 0

/-- Whether a lane type is 4 bits wide (R60). -/
def ITy.nibble : ITy → Bool
  | .i4 => true | .n4 => true | .i8 => false | .n8 => false | .i64 => false | .n64 => false

/-- Whether a lane type is signed (R60). -/
def ITy.signed : ITy → Bool
  | .i8 => true | .i4 => true | .i64 => true | .n8 => false | .n4 => false | .n64 => false

/-- A message group: the payload registers stay within c31, and c0 is named when there are none (R59). -/
def payloadOk (a : CR) (n : Fin 9) : Bool :=
  if n.val = 0 then a.val = 0 else a.val + n.val ≤ 32

/-- The limits on an instruction's fields, and on what a step names. -/
def Instr.wf : Instr → Bool
  | .st _ _ z _ => z.storable
  | .stx _ _ _ z _ => z.storable
  | .sbind s _ _ _ _ => 24 ≤ s.val && s.val ≤ 27
  | .sunbind s => 24 ≤ s.val && s.val ≤ 27
  | .cset _ _ _ f => f = .rbits || f = .cursor
  | .amoFadd _ _ _ _ _ ctl => ctl.getLsbD 3 || ctl = 0
  | .amoFmin _ _ _ _ _ ctl => ctl.getLsbD 3 || ctl = 0
  | .amoFmax _ _ _ _ _ ctl => ctl.getLsbD 3 || ctl = 0
  | .msg _ a _ n => payloadOk a n
  | .mcast _ a _ n => payloadOk a n
  | .cont _ a _ n => payloadOk a n
  | .hstart _ _ fb => fb.val ≤ 28
  | .pair _ _ fb => fb.val ≤ 28
  | .post a => a.val ≠ 0 && a.val ≠ 31
  | .grab d => d.val ≠ 0 && d.val ≠ 31
  | .vabs _ _ _ t => t.signed
  | .vneg _ _ _ t => t.signed
  | .vcmp _ _ _ _ t _ => !t.nibble
  | .vcvt _ _ t f => t.vcvtOk && f.vcvtOk && t ≠ f
  | .vmxq d a t f => t.mxOk && f.group ≠ 0 && a.val % f.group = 0 && d.val ≤ 14
  | .vmxd d a t f => f.mxOk && t.group ≠ 0 && d.val % t.group = 0 && a.val ≤ 14
  | .vloop c _ _ i => c.val = 0 || i = 0
  | .tld d _ _ q qm => if qm then d.val = 0 else q.val = 0
  | .tst _ a _ q qm => if qm then a.val = 0 else q.val = 0
  | .epush a _ _ => 1 ≤ a.val && a.val ≤ 28
  | .cAddi d _ => d ≠ 0
  | .mma c _ => coreOk c | .loadb c => coreOk c | .ringClaim c => coreOk c | .passb c => coreOk c
  | .drain c => coreOk c | .zero c => coreOk c | .mark c => coreOk c
  | .copy c _ => coreOk c | .fill c _ => coreOk c | .move c => coreOk c | .decrypt c => coreOk c
  | .ckpt c _ => coreOk c | .areduce c _ => coreOk c | .agather c _ => coreOk c | .bcast c _ => coreOk c
  | .shuffle c => coreOk c | .rget c _ => coreOk c | .rput c _ => coreOk c
  | .commandCompletion c _ => coreOk c | .leaveGrant c _ => coreOk c
  | .loadReply c s _ => coreOk c && slotOk s
  | .storeDrain c s => coreOk c && slotOk s
  | .syncRetry c s => coreOk c && slotOk s
  | .translationStore c s => coreOk c && slotOk s
  | .helperStart c => coreOk c | .messageArrival c _ => coreOk c | .messageClaim c => coreOk c
  | .controlStrandEntry c => coreOk c | .spillOut c => coreOk c | .spillReplay c _ => coreOk c
  | .workReplay c _ => coreOk c | .workShipArrival c => coreOk c
  | .launchSubmit f _ => partOk f | .launch p => partOk p | .launchRetire p => partOk p | .lqstatusRead f => partOk f
  | .schedOut c s _ => coreOk c && slotOk s
  | .schedIn c s _ _ => coreOk c && slotOk s
  | .schedExchange c s _ _ => coreOk c && slotOk s
  | .swapBoundary c s => coreOk c && slotOk s
  | .domainStop c _ => coreOk c | .domainResume c _ => coreOk c
  | .resume c s => coreOk c && slotOk s | .kill c s => coreOk c && slotOk s
  | .halt c s => coreOk c && slotOk s | .step c s => coreOk c && slotOk s
  | .crossTriggerFire c => clusterOk c | .crossTriggerRelease c => clusterOk c
  | .pairEffectMatch c s => coreOk c && slotOk s
  | .eccUncorr site c s _ => site ≤ 4 && coreOk c && slotOk s
  | .raceRecordAppend c => coreOk c | .sweepVisit c => clusterOk c | .rebase c _ => coreOk c
  | .noReply c s _ => coreOk c && slotOk s
  | .commitOutcome c s _ => coreOk c && slotOk s
  | .linkGroupReceive p fl _ => portOk p && fl.length = 512
  | .nak p _ => portOk p | .linkDown p => portOk p
  | .widthChange p l => portOk p && (l = 24 || l = 12 || l = 6)
  | .packetHop p _ => p ≤ 8
  | .remapWrite p _ _ _ => partOk p
  | .isolatedReadAnswer p _ => portOk p
  | .senderSackTimeout p _ _ => partOk p | .shuffleReceiveTimeout p _ => partOk p
  | .timeout c s => coreOk c && slotOk s
  | .inboundWrite f _ _ => partOk f | .inboundSyncPut f _ _ => partOk f
  | .inboundRead f _ _ => partOk f | .inboundSyncPeek f _ _ => partOk f
  | .doorbellMessage f d v => partOk f && d < 16 && !v.getLsbD 63
  | .doorbellTag f d v => partOk f && d < 16 && v.getLsbD 63
  | .windowRegister f _ => partOk f | .windowUnregister f _ => partOk f
  | .quiesce p => partOk p | .partitionReset p => partOk p | .flr f => partOk f
  | .quiesceComplete p => partOk p | .resetComplete p => partOk p
  | .counterRead f n _ => partOk f && n < 4096
  | .counterReadLow f n _ => partOk f && n < 4096
  | .counterReadHigh f n _ => partOk f && n < 4096
  | .ofpop f => partOk f | .counterIntervalSnapshot p c => partOk p && c < 8
  | .traceSample c p => clusterOk c && partOk p
  | .traceIntervalRecord p c => partOk p && c < 4
  | .deepestRead f => partOk f | .thermalSample d _ => d < 4
  | .clusterPowerEntry c => clusterOk c | .clusterPowerExit c => clusterOk c
  | .getMeasurements f => partOk f | .policyInstall f _ _ => partOk f
  | .streamInstall f s _ _ _ => partOk f && s < 16
  | .tdiStateChange f s => 1 ≤ f && partOk f && s < 4
  | .migrationExport p => partOk p
  | .registerWrite f _ _ => partOk f
  | .commandRemoteTimeout c _ => coreOk c
  | .spareJobAssign p _ _ => partOk p
  | _ => true

end Sys2Proof
end

