-- ==== Sys2Proof/Decode.lean ====
section
/-! DEFINITION. The decoder from bytes (R45 to R71) and the encoder, from the same tables of the spec. -/

namespace Sys2Proof

/-- Why a pattern is not an instruction (R46, R68). -/
inductive DecodeError where
  /-- the object ends inside the instruction -/
  | truncated
  /-- a reserved major (R50) -/
  | reservedMajor
  /-- a selector code that the minor map does not list -/
  | selector
  /-- a field that must be zero is not -/
  | notZero
  /-- a register that the file does not have, or a group that runs past c31 -/
  | register
  /-- a COND, MODE, FIELD, TY, size, SCALE or format code marked ILLEGAL -/
  | code
deriving DecidableEq, Repr

/-! ### Fields -/

/-- Bits lo + n − 1 down to lo of w (R6). -/
def bitsAt (w lo n : Nat) : Nat := w / 2 ^ lo % 2 ^ n

/-- A c register of a field. -/
def toCR (n : Nat) : CR := Fin.ofNat 32 n
/-- A v register of a field below 16. -/
def toVR (n : Nat) : VR := Fin.ofNat 16 n
/-- A p register of a field below 8. -/
def toPR (n : Nat) : PR := Fin.ofNat 8 n
/-- A tile queue of a field. -/
def toQR (n : Nat) : QR := Fin.ofNat 8 n
/-- An engine port of a field below 3. -/
def toEP (n : Nat) : EP := Fin.ofNat 3 n

/-- COND codes on two registers (R49). -/
def Cond.ofCode : Nat → Option Cond
  | 0 => some .eq | 1 => some .ne | 2 => some .lt | 3 => some .ge | 4 => some .lo | 5 => some .hs | _ => none

/-- COND codes on a register against zero (R49). -/
def CondZ.ofCode : Nat → Option CondZ
  | 0 => some .eqz | 1 => some .nez | 2 => some .ltz | 3 => some .gez | 4 => some .gtz | 5 => some .lez | _ => none

/-- Size codes (R55). -/
def Size.ofCode : Nat → Option Size
  | 0 => some .b | 1 => some .h | 2 => some .w | 3 => some .d | 4 => some .q
  | 5 => some .bz | 6 => some .hz | 7 => some .wz | _ => none

/-- Integer TY codes (R60). -/
def ITy.ofCode : Nat → Option ITy
  | 0 => some .i8 | 1 => some .n8 | 2 => some .i4 | 3 => some .n4 | 4 => some .i64 | 5 => some .n64 | _ => none

/-- Floating TY codes (R60). -/
def FTy.ofCode : Nat → Option FTy
  | 0 => some .f64 | 1 => some .f32 | 2 => some .f16 | 3 => some .bf16 | _ => none

/-- FIELD codes (R57). -/
def Field.ofCode : Nat → Option Field
  | 0 => some .kind | 1 => some .rbits | 2 => some .frac | 3 => some .gen
  | 4 => some .objid | 5 => some .cursor | 6 => some .length | 7 => some .level | _ => none

/-- Types of a floating atomic (R58). -/
def AFTy.ofCode : Nat → Option AFTy
  | 0 => some .f32 | 1 => some .f64 | 2 => some .bf16 | _ => none

/-- Format codes (R62). -/
def Fmt.ofCode : Nat → Option Fmt
  | 0 => some .f64 | 1 => some .f32 | 2 => some .f16 | 3 => some .bf16 | 4 => some .e4m3 | 5 => some .e5m2
  | 6 => some .e2m3 | 7 => some .e3m2 | 8 => some .e2m1 | 9 => some .mxi8 | 10 => some .i8 | 11 => some .n8
  | 12 => some .i4 | 13 => some .n4 | 14 => some .i64 | 15 => some .n64 | _ => none

/-- The compare relations in the order of R61. -/
def VRel.ofCode : Nat → VRel
  | 0 => .eq | 1 => .ne | 2 => .lt | 3 => .le | 4 => .gt | _ => .ge

/-- A result of decoding. -/
abbrev Dec := Except DecodeError Instr

/-- The value of a selector, or the named error. -/
def need {α : Type} (o : Option α) (k : α → Instr) : Dec :=
  match o with
  | some x => .ok (k x)
  | none => .error .code

/-- The instruction, if the fields that must be zero are zero. -/
def zero (z : Nat) (i : Instr) : Dec := if z = 0 then .ok i else .error .notZero

/-! ### The minor maps: d, a, b and fn are bits 24:20, 19:15, 14:10 and 9:0 -/

/-- Major 0x00 (R51). -/
def dec00 (d a b : CR) (fn : Nat) : Dec :=
  if fn = 0 then .ok (.add d a b) else if fn = 1 then .ok (.sub d a b)
  else if fn = 2 then .ok (.and d a b) else if fn = 3 then .ok (.or d a b)
  else if fn = 4 then .ok (.xor d a b) else if fn = 5 then .ok (.shl d a b)
  else if fn = 6 then .ok (.shr d a b) else if fn = 7 then .ok (.sra d a b)
  else if fn = 8 then .ok (.min d a b) else if fn = 9 then .ok (.max d a b)
  else if fn = 10 then .ok (.minn d a b) else if fn = 11 then .ok (.maxn d a b)
  else if fn = 16 then .ok (.addQ d a b) else if fn = 17 then .ok (.subQ d a b)
  else if fn = 18 then .ok (.andQ d a b) else if fn = 19 then .ok (.orQ d a b)
  else if fn = 20 then .ok (.xorQ d a b)
  else if 32 ≤ fn ∧ fn < 38 then need (Cond.ofCode (fn - 32)) (Instr.setCc d a b)
  else .error .selector

/-- Major 0x05 (R51): m is IMM[14:12], z IMM[11:6], sh IMM[5:0]. -/
def dec05 (d a : CR) (m z sh : Nat) : Dec :=
  if m = 0 then zero z (.shli d a (.ofNat 6 sh)) else if m = 1 then zero z (.shri d a (.ofNat 6 sh))
  else if m = 2 then zero z (.srai d a (.ofNat 6 sh)) else if m = 3 then zero z (.roli d a (.ofNat 6 sh))
  else .error .selector

/-- Major 0x07 (R52). -/
def dec07 (d : CR) (pos mode imm : Nat) : Dec :=
  if mode = 0 then .ok (.lkZ d (.ofNat 2 pos) (.ofNat 16 imm))
  else if mode = 1 then .ok (.lkK d (.ofNat 2 pos) (.ofNat 16 imm))
  else if mode = 2 then .ok (.lkS d (.ofNat 2 pos) (.ofNat 16 imm))
  else .error .code

/-- Major 0x08 (R51). -/
def dec08 (d a b : CR) (fn : Nat) : Dec :=
  if fn = 0 then .ok (.mul d a b) else if fn = 1 then .ok (.mulh d a b)
  else if fn = 2 then .ok (.mulhn d a b) else if fn = 3 then .ok (.div d a b)
  else if fn = 4 then .ok (.divn d a b) else if fn = 5 then .ok (.remS d a b)
  else if fn = 6 then .ok (.remn d a b) else if fn = 7 then .ok (.mulx d a b)
  else if fn = 8 then .ok (.mulxn d a b) else .error .selector

/-- Major 0x09 (R51). -/
def dec09 (d a b : CR) (fn : Nat) : Dec :=
  if fn = 0 then zero b.val (.clz d a) else if fn = 1 then zero b.val (.ctz d a)
  else if fn = 2 then zero b.val (.popc d a) else if fn = 3 then zero b.val (.brev d a)
  else if fn = 4 then zero b.val (.bswap d a) else if fn = 5 then .ok (.bext d a b)
  else if fn = 6 then .ok (.bins d a b) else if fn = 7 then .ok (.andn d a b) else .error .selector

/-- Major 0x14 (R53). -/
def dec14 (d a b : CR) (fn : Nat) : Dec :=
  if fn = 0 then zero (d.val + b.val) (.br a) else if fn = 1 then zero (d.val + b.val) (.brl a)
  else if fn = 2 then zero (d.val + a.val + b.val) .ret else .error .selector

/-- Major 0x18 (R54): m is IMM[14:12], k IMM[11:0]. -/
def dec18 (d a : CR) (m k : Nat) : Dec :=
  if m = 0 then zero (d.val + a.val + k) .nop else if m = 1 then zero (d.val + a.val + k) .endStrand
  else if m = 2 then zero (d.val + a.val) (.trap (.ofNat 12 k))
  else if m = 3 then zero (d.val + a.val) (.brk (.ofNat 12 k))
  else if m = 4 then zero (d.val + a.val + k) .yield else .error .selector

/-- Major 0x19 (R54). -/
def dec19 (d a : CR) (m k : Nat) : Dec :=
  if m = 0 then zero a.val (.rdst d (.ofNat 12 k)) else if m = 1 then zero d.val (.wrst a (.ofNat 12 k))
  else if m = 2 then zero d.val (.setst a (.ofNat 12 k)) else if m = 3 then zero d.val (.clrst a (.ofNat 12 k))
  else .error .selector

/-- Major 0x1A (R54). -/
def dec1A (d a : CR) (m k : Nat) : Dec :=
  if m = 0 then zero a.val (.rdcnt d (.ofNat 12 k)) else if m = 1 then zero (a.val + k) (.clock d)
  else .error .selector

/-- Major 0x1B (R54): c is bits 19:17, k OFF17. -/
def dec1B (d : CR) (c k : Nat) : Dec :=
  if c = 0 then .ok (.rmtBegin d (.ofNat 17 k)) else if c = 1 then zero k (.rmtCommit d)
  else if c = 2 then zero (d.val + k) .rmtAbort else .error .selector

/-- The size of a store (R55). -/
def storeSize (z : Nat) : Option Size := (Size.ofCode z).filter Size.storable

/-- Majors 0x24 and 0x25 (R56): z is FN[9:7], sc FN[6:4], r FN[3:0]. -/
def decX (load : Bool) (d a b : CR) (z sc r : Nat) : Dec :=
  if r ≠ 0 then .error .notZero
  else if 4 < sc then .error .code
  else if load then need (Size.ofCode z) (fun z => .ldx d a b z (Fin.ofNat 5 sc))
  else need (storeSize z) (fun z => .stx d a b z (Fin.ofNat 5 sc))

/-- Major 0x26 (R56). -/
def dec26 (d a b : CR) (fn : Nat) : Dec :=
  if bitsAt fn 0 2 = 0 then
    if ¬(24 ≤ d.val ∧ d.val ≤ 27) then .error .register
    else if bitsAt fn 2 4 ≠ 0 then .error .notZero
    else if 4 < bitsAt fn 6 3 then .error .code
    else .ok (.sbind d a b (bitsAt fn 9 1 == 1) (Fin.ofNat 5 (bitsAt fn 6 3)))
  else if bitsAt fn 0 2 = 1 then
    if ¬(24 ≤ d.val ∧ d.val ≤ 27) then .error .register
    else zero (a.val + b.val + bitsAt fn 2 8) (.sunbind d)
  else .error .selector

/-- Major 0x28 (R57). -/
def dec28 (d a b : CR) (fn : Nat) : Dec :=
  if fn = 0 then .ok (.alloc d a b) else if fn = 1 then zero (d.val + b.val) (.free a)
  else if fn = 2 then zero b.val (.creclaim d a) else .error .selector

/-- Major 0x29 (R57): h is FN[9:8], t FN[7], f FN[6:0]. -/
def dec29 (d a b : CR) (h t f : Nat) : Dec :=
  if f = 0 then zero (h + t) (.split d a b) else if f = 1 then zero (h + t) (.join d a b)
  else if f = 2 then zero d.val (.send a b (.ofNat 2 h) (t == 1))
  else if f = 3 then zero (h + t) (.cview d a b) else .error .selector

/-- Major 0x2A (R57): z is FN[9:7], f FIELD, o FN[2:0]. -/
def dec2A (d a b : CR) (z f o : Nat) : Dec :=
  if z ≠ 0 then .error .notZero
  else if o = 0 then if b.val ≠ 0 then .error .notZero else need (Field.ofCode f) (Instr.cget d a)
  else if o = 1 then
    need ((Field.ofCode f).filter (fun g => g == .rbits || g == .cursor)) (Instr.cset d a b)
  else if o = 2 then zero f (.cinc d a b)
  else if o = 3 then zero (f + b.val) (.ctest d a) else .error .selector

/-- Major 0x2C (R58): t is SZ[14], o SZ[13:12]. -/
def dec2C (d a : CR) (t o k : Nat) : Dec :=
  if o = 0 then zero t (.take d a (.ofNat 12 k)) else if o = 1 then .ok (.put d a (.ofNat 12 k) (t == 1))
  else if o = 2 then zero t (.peek d a (.ofNat 12 k)) else .error .selector

/-- Major 0x2D (R58): s is STRICT, w the width, o FN[7:4]. -/
def dec2D (d a b : CR) (s w : Bool) (o : Nat) : Dec :=
  if o = 0 then .ok (.amoAdd d a b s w) else if o = 1 then .ok (.amoAnd d a b s w)
  else if o = 2 then .ok (.amoOr d a b s w) else if o = 3 then .ok (.amoXor d a b s w)
  else if o = 4 then .ok (.amoMin d a b s w) else if o = 5 then .ok (.amoMax d a b s w)
  else if o = 6 then .ok (.amoMinn d a b s w) else if o = 7 then .ok (.amoMaxn d a b s w)
  else if o = 8 then .ok (.amoSwap d a b s w) else if o = 9 then .ok (.amoCas d a b s w)
  else .error .selector

/-- Major 0x2E (R58). -/
def dec2E (d a b : CR) (s : Bool) (ty o ctl : Nat) : Dec :=
  if ctl < 8 ∧ ctl ≠ 0 then .error .notZero
  else if o = 0 then need (AFTy.ofCode ty) (fun t => .amoFadd d a b s t (.ofNat 4 ctl))
  else if o = 1 then need (AFTy.ofCode ty) (fun t => .amoFmin d a b s t (.ofNat 4 ctl))
  else if o = 2 then need (AFTy.ofCode ty) (fun t => .amoFmax d a b s t (.ofNat 4 ctl))
  else .error .selector

/-- Major 0x30 (R59): o is FN[9:8], n COUNT, z FN[3:0]. -/
def dec30 (d a b : CR) (o n z : Nat) : Dec :=
  if z ≠ 0 then .error .notZero
  else if 8 < n then .error .code
  else if n = 0 ∧ a.val ≠ 0 then .error .notZero
  else if n ≠ 0 ∧ 32 < a.val + n then .error .register
  else if o = 0 then .ok (.msg d a b (Fin.ofNat 9 n)) else if o = 1 then .ok (.mcast d a b (Fin.ofNat 9 n))
  else if o = 2 then .ok (.cont d a b (Fin.ofNat 9 n)) else .error .selector

/-- Major 0x31 (R59): o is IMM[14], z IMM[13:6], k CLASS. -/
def dec31 (d a : CR) (o z k : Nat) : Dec :=
  if o = 0 then zero (d.val + z) (.bind a (.ofNat 6 k)) else zero (d.val + a.val + z) (.unbind (.ofNat 6 k))

/-- Major 0x32 (R59). -/
def dec32 (d a b : CR) (fn : Nat) : Dec :=
  if fn = 0 then if 28 < b.val then .error .register else .ok (.hstart d a b)
  else if fn = 1 then if 28 < b.val then .error .register else .ok (.pair d a b)
  else if fn = 2 then zero b.val (.hwait d a)
  else if fn = 3 then zero (d.val + b.val) (.hkill a) else .error .selector

/-- Major 0x33 (R59). -/
def dec33 (d a b : CR) (fn : Nat) : Dec :=
  if fn = 0 then zero (d.val + b.val) (.wany a) else if fn = 1 then zero (d.val + b.val) (.wall a)
  else if fn = 2 then zero b.val (.ffr d a) else if fn = 3 then zero (d.val + b.val) (.tclr a)
  else .error .selector

/-- Major 0x34 (R59). -/
def dec34 (d a b : CR) (fn : Nat) : Dec :=
  if fn = 0 then if a.val = 0 ∨ a.val = 31 then .error .register else zero (d.val + b.val) (.post a)
  else if fn = 1 then if d.val = 0 ∨ d.val = 31 then .error .register else zero (a.val + b.val) (.grab d)
  else .error .selector

/-- Major 0x35 (R59): o is IMM[14], z IMM[13:8], g GROUP. -/
def dec35 (d a : CR) (o z g : Nat) : Dec :=
  if o = 0 then zero (d.val + a.val + z) (.bar (.ofNat 8 g)) else zero (d.val + z) (.barAdd a (.ofNat 8 g))

/-- Major 0x36 (R61): o is OP, t the integer type. -/
def dec36 (d a b p o : Nat) (t : ITy) : Dec :=
  if 16 ≤ d ∨ 16 ≤ a ∨ 16 ≤ b then .error .register
  else
    let d := toVR d
    let a := toVR a
    let b := toVR b
    let p := toPR p
    if o = 0 then .ok (.vadd d a b p t) else if o = 1 then .ok (.vsub d a b p t)
    else if o = 2 then .ok (.vmul d a b p t) else if o = 3 then .ok (.vmin d a b p t)
    else if o = 4 then .ok (.vmax d a b p t) else if o = 5 then .ok (.vand d a b p t)
    else if o = 6 then .ok (.vor d a b p t) else if o = 7 then .ok (.vxor d a b p t)
    else if o = 8 then .ok (.vshl d a b p t) else if o = 9 then .ok (.vshr d a b p t)
    else if o = 10 then if t.signed then zero b.val (.vabs d a p t) else .error .code
    else if o = 11 then if t.signed then zero b.val (.vneg d a p t) else .error .code
    else if o = 12 then .ok (.vadds d a b p t) else if o = 13 then .ok (.vsubs d a b p t)
    else if o = 14 then .ok (.vmulh d a b p t) else .ok (.vavg d a b p t)

/-- Major 0x37 (R61). -/
def dec37 (d a b p o : Nat) (t : FTy) : Dec :=
  if 16 ≤ d ∨ 16 ≤ a ∨ 16 ≤ b then .error .register
  else
    let d := toVR d
    let a := toVR a
    let b := toVR b
    let p := toPR p
    if o = 0 then .ok (.vfadd d a b p t) else if o = 1 then .ok (.vfsub d a b p t)
    else if o = 2 then .ok (.vfmul d a b p t) else if o = 3 then .ok (.vfdiv d a b p t)
    else if o = 4 then .ok (.vfma d a b p t) else if o = 5 then .ok (.vfmin d a b p t)
    else if o = 6 then .ok (.vfmax d a b p t) else if o = 7 then zero b.val (.vfabs d a p t)
    else if o = 8 then zero b.val (.vfneg d a p t) else if o = 9 then zero b.val (.vfsqrt d a p t)
    else .error .selector

/-- Major 0x38 (R61): ty is the type code. -/
def dec38 (d a b p ty o : Nat) : Dec :=
  if o < 6 then
    if 8 ≤ d ∨ 16 ≤ a ∨ 16 ≤ b then .error .register
    else need ((ITy.ofCode ty).filter (fun t => !t.nibble))
      (fun t => .vcmp (toPR d) (toVR a) (toVR b) (toPR p) t (VRel.ofCode o))
  else if o < 12 then
    if 8 ≤ d ∨ 16 ≤ a ∨ 16 ≤ b then .error .register
    else need (FTy.ofCode ty) (fun t => .vfcmp (toPR d) (toVR a) (toVR b) (toPR p) t (VRel.ofCode (o - 6)))
  else if o = 12 then
    if 16 ≤ d ∨ 16 ≤ a ∨ 16 ≤ b then .error .register
    else need (ITy.ofCode ty) (fun t => .vsel (toVR d) (toVR a) (toVR b) (toPR p) t)
  else if 8 ≤ d ∨ 8 ≤ a ∨ 8 ≤ b then .error .register
  else if o = 13 then zero (p + ty) (.pand (toPR d) (toPR a) (toPR b))
  else if o = 14 then zero (p + ty) (.por (toPR d) (toPR a) (toPR b))
  else zero (p + ty) (.pxor (toPR d) (toPR a) (toPR b))

/-- Major 0x39 (R61). -/
def dec39 (d a b p ty o : Nat) : Dec :=
  if o = 0 then
    if 16 ≤ d ∨ 16 ≤ a ∨ 16 ≤ b then .error .register
    else need (ITy.ofCode ty) (fun t => .vperm (toVR d) (toVR a) (toVR b) (toPR p) t)
  else if o = 1 then
    if 16 ≤ d then .error .register else if b ≠ 0 then .error .notZero
    else need (ITy.ofCode ty) (fun t => .vbcast (toVR d) (toCR a) (toPR p) t)
  else if o = 2 then
    if 16 ≤ d then .error .register
    else need (ITy.ofCode ty) (fun t => .vins (toVR d) (toCR a) (toCR b) (toPR p) t)
  else if o = 3 then
    if 16 ≤ a then .error .register else if p ≠ 0 then .error .notZero
    else need (ITy.ofCode ty) (fun t => .vext (toCR d) (toVR a) (toCR b) t)
  else if 9 < o then .error .selector
  else if 16 ≤ a then .error .register
  else if b ≠ 0 then .error .notZero
  else if o = 4 then need (ITy.ofCode ty) (fun t => .vredadd (toCR d) (toVR a) (toPR p) t)
  else if o = 5 then need (ITy.ofCode ty) (fun t => .vredmin (toCR d) (toVR a) (toPR p) t)
  else if o = 6 then need (ITy.ofCode ty) (fun t => .vredmax (toCR d) (toVR a) (toPR p) t)
  else if o = 7 then need (FTy.ofCode ty) (fun t => .vfredadd (toCR d) (toVR a) (toPR p) t)
  else if o = 8 then need (FTy.ofCode ty) (fun t => .vfredmin (toCR d) (toVR a) (toPR p) t)
  else need (FTy.ofCode ty) (fun t => .vfredmax (toCR d) (toVR a) (toPR p) t)

/-- Major 0x3A (R62): z is bit 4. A pair of formats that the entry does not list is refused (R173 to R175). -/
def dec3A (d a to_ from_ z o : Nat) : Dec :=
  if z ≠ 0 then .error .notZero
  else if 16 ≤ d ∨ 16 ≤ a then .error .register
  else match Fmt.ofCode to_, Fmt.ofCode from_ with
    | some t, some f =>
      let i : Option Instr :=
        if o = 0 then some (.vcvt (toVR d) (toVR a) t f) else if o = 1 then some (.vmxq (toVR d) (toVR a) t f)
        else if o = 2 then some (.vmxd (toVR d) (toVR a) t f) else none
      match i with
      | some i => if i.wf then .ok i else .error .code
      | none => .error .selector
    | _, _ => .error .code

/-- Major 0x3B (R63): z is SZ, k bits 11:0. -/
def dec3B (d : Nat) (a : CR) (z k : Nat) : Dec :=
  if 16 ≤ d then .error .register
  else if z = 0 then .ok (.vld (toVR d) a (toPR (bitsAt k 9 3)) (.ofNat 9 (bitsAt k 0 9)))
  else if z = 1 then .ok (.vst (toVR d) a (toPR (bitsAt k 9 3)) (.ofNat 9 (bitsAt k 0 9)))
  else if 3 < z then .error .selector
  else if bitsAt k 0 2 ≠ 0 then .error .notZero
  else if 3 < bitsAt k 2 3 then .error .code
  else if z = 2 then
    .ok (.vgather (toVR d) a (toVR (bitsAt k 8 4)) (toPR (bitsAt k 5 3)) (Fin.ofNat 4 (bitsAt k 2 3)))
  else .ok (.vscatter (toVR d) a (toVR (bitsAt k 8 4)) (toPR (bitsAt k 5 3)) (Fin.ofNat 4 (bitsAt k 2 3)))

/-- Major 0x3C (R64). -/
def dec3C (c : CR) (nm1 stag icnt : Nat) : Dec :=
  if c.val ≠ 0 ∧ icnt ≠ 0 then .error .notZero
  else .ok (.vloop c (.ofNat 4 nm1) (.ofNat 4 stag) (.ofNat 12 icnt))

/-- Major 0x3D (R65): o is FN[9:7], q FN[6:4], qm FN[3], z FN[2:0]. -/
def dec3D (d a b : CR) (o q qm z : Nat) : Dec :=
  if z ≠ 0 then .error .notZero
  else if o = 0 then zero (if qm = 1 then d.val else q) (.tld d a b (toQR q) (qm == 1))
  else if o = 1 then zero (if qm = 1 then a.val else q) (.tst d a b (toQR q) (qm == 1))
  else if o = 2 then zero (d.val + qm) (.tqDef a b (toQR q))
  else if o = 3 then zero (d.val + a.val + qm) (.tqAdv b (toQR q))
  else if o = 4 then zero (d.val + a.val + qm) (.tqRel b (toQR q))
  else if o = 5 then zero (d.val + a.val + qm) (.tqWait b (toQR q)) else .error .selector

/-- Major 0x3E (R66): p is PORT, o OP, x XF. -/
def dec3E (d a : CR) (p o x : Nat) : Dec :=
  if 2 < p then .error .code
  else if o = 0 then
    if a.val = 0 ∨ 28 < a.val then .error .register
    else zero (d.val + bitsAt x 0 9) (.epush a (toEP p) (bitsAt x 9 1 == 1))
  else if o = 1 then zero (a.val + x) (.epop d (toEP p))
  else if o = 2 then zero (a.val + x) (.estat d (toEP p))
  else if o = 3 then
    if p ≠ 0 then .error .code
    else zero (bitsAt x 0 5) (.aget d a (bitsAt x 9 1 == 1) (.ofNat 4 (bitsAt x 5 4)))
  else .error .selector

/-- Major 0x3F (R67). -/
def dec3F (d a b : CR) (fn : Nat) : Dec :=
  if fn = 0 then zero d.val (.shufOpen a b) else if fn = 1 then zero d.val (.shufHold a b)
  else if fn = 2 then zero (d.val + a.val) (.shufClose b) else if fn = 3 then zero a.val (.shufStat d b)
  else .error .selector

/-- A 32-bit word by its major (R50). -/
def decodeWord (w : Nat) : Dec :=
  let d := toCR (bitsAt w 20 5)
  let a := toCR (bitsAt w 15 5)
  let b := toCR (bitsAt w 10 5)
  let fn := bitsAt w 0 10
  let imm := BitVec.ofNat 15 (bitsAt w 0 15)
  let nd := bitsAt w 20 5
  let na := bitsAt w 15 5
  let nb := bitsAt w 10 5
  let p := bitsAt w 7 3
  let ty := bitsAt w 4 3
  let o := bitsAt w 0 4
  match bitsAt w 25 6 with
  | 0x00 => dec00 d a b fn
  | 0x01 => .ok (.addi d a imm)
  | 0x02 => .ok (.andi d a imm)
  | 0x03 => .ok (.ori d a imm)
  | 0x04 => .ok (.xori d a imm)
  | 0x05 => dec05 d a (bitsAt w 12 3) (bitsAt w 6 6) (bitsAt w 0 6)
  | 0x06 => need (Cond.ofCode (bitsAt w 12 3)) (fun c => .setiCc d a c (.ofNat 12 (bitsAt w 0 12)))
  | 0x07 => dec07 d (bitsAt w 18 2) (bitsAt w 16 2) (bitsAt w 0 16)
  | 0x08 => dec08 d a b fn
  | 0x09 => dec09 d a b fn
  | 0x0A => zero na (.addpc d imm)
  | 0x10 => .ok (.b (.ofNat 25 (bitsAt w 0 25)))
  | 0x11 => .ok (.bl (.ofNat 25 (bitsAt w 0 25)))
  | 0x12 => need (Cond.ofCode (bitsAt w 12 3)) (fun c => .bcc d a c (.ofNat 12 (bitsAt w 0 12)))
  | 0x13 => need (CondZ.ofCode (bitsAt w 17 3)) (fun c => .bccz d c (.ofNat 17 (bitsAt w 0 17)))
  | 0x14 => dec14 d a b fn
  | 0x15 => if bitsAt w 17 3 = 0 then .ok (.dbnz d (.ofNat 17 (bitsAt w 0 17))) else .error .code
  | 0x18 => dec18 d a (bitsAt w 12 3) (bitsAt w 0 12)
  | 0x19 => dec19 d a (bitsAt w 12 3) (bitsAt w 0 12)
  | 0x1A => dec1A d a (bitsAt w 12 3) (bitsAt w 0 12)
  | 0x1B => dec1B d (bitsAt w 17 3) (bitsAt w 0 17)
  | 0x20 => need (Size.ofCode (bitsAt w 12 3)) (fun z => .ld d a z (.ofNat 12 (bitsAt w 0 12)))
  | 0x21 => need (storeSize (bitsAt w 12 3)) (fun z => .st d a z (.ofNat 12 (bitsAt w 0 12)))
  | 0x22 => if bitsAt w 12 3 = 0 then .ok (.ldc d a (.ofNat 12 (bitsAt w 0 12))) else .error .code
  | 0x23 => if bitsAt w 12 3 = 0 then .ok (.stc d a (.ofNat 12 (bitsAt w 0 12))) else .error .code
  | 0x24 => decX true d a b (bitsAt w 7 3) (bitsAt w 4 3) (bitsAt w 0 4)
  | 0x25 => decX false d a b (bitsAt w 7 3) (bitsAt w 4 3) (bitsAt w 0 4)
  | 0x26 => dec26 d a b fn
  | 0x28 => dec28 d a b fn
  | 0x29 => dec29 d a b (bitsAt w 8 2) (bitsAt w 7 1) (bitsAt w 0 7)
  | 0x2A => dec2A d a b (bitsAt w 7 3) (bitsAt w 3 4) (bitsAt w 0 3)
  | 0x2C => dec2C d a (bitsAt w 14 1) (bitsAt w 12 2) (bitsAt w 0 12)
  | 0x2D => if bitsAt w 0 4 = 0 then dec2D d a b (bitsAt w 9 1 == 1) (bitsAt w 8 1 == 1) (bitsAt w 4 4)
            else .error .notZero
  | 0x2E => dec2E d a b (bitsAt w 9 1 == 1) (bitsAt w 7 2) (bitsAt w 4 3) (bitsAt w 0 4)
  | 0x2F => zero (bitsAt w 0 9) (.amoCas2 d a b (bitsAt w 9 1 == 1))
  | 0x30 => dec30 d a b (bitsAt w 8 2) (bitsAt w 4 4) (bitsAt w 0 4)
  | 0x31 => dec31 d a (bitsAt w 14 1) (bitsAt w 6 8) (bitsAt w 0 6)
  | 0x32 => dec32 d a b fn
  | 0x33 => dec33 d a b fn
  | 0x34 => dec34 d a b fn
  | 0x35 => dec35 d a (bitsAt w 14 1) (bitsAt w 8 6) (bitsAt w 0 8)
  | 0x36 => match ITy.ofCode ty with
    | some t => dec36 nd na nb p o t
    | none => .error .code
  | 0x37 => match FTy.ofCode ty with
    | some t => dec37 nd na nb p o t
    | none => .error .code
  | 0x38 => dec38 nd na nb p ty o
  | 0x39 => dec39 nd na nb p ty o
  | 0x3A => dec3A nd na nb (bitsAt w 5 5) (bitsAt w 4 1) o
  | 0x3B => dec3B nd a (bitsAt w 12 3) (bitsAt w 0 12)
  | 0x3C => dec3C d (bitsAt w 16 4) (bitsAt w 12 4) (bitsAt w 0 12)
  | 0x3D => dec3D d a b (bitsAt w 7 3) (bitsAt w 4 3) (bitsAt w 3 1) (bitsAt w 0 3)
  | 0x3E => dec3E d a (bitsAt w 13 2) (bitsAt w 10 3) fn
  | 0x3F => dec3F d a b fn
  | _ => .error .reservedMajor

/-- A parcel with bit 15 clear (R70, R71). -/
def decodeCompact (w : Nat) : Dec :=
  let d4 := BitVec.ofNat 4 (bitsAt w 7 4)
  let a4 := BitVec.ofNat 4 (bitsAt w 3 4)
  let i7 := BitVec.ofNat 7 (bitsAt w 0 7)
  let d3 := BitVec.ofNat 3 (bitsAt w 8 3)
  let a3 := BitVec.ofNat 3 (bitsAt w 5 3)
  let k5 := BitVec.ofNat 5 (bitsAt w 0 5)
  let z := bitsAt w 0 3
  match bitsAt w 11 4 with
  | 0 => if bitsAt w 7 4 = 0 then .error .register else .ok (.cAddi d4 i7)
  | 1 => zero z (.cMov d4 a4)
  | 2 => zero z (.cAdd d4 a4)
  | 3 => zero z (.cSub d4 a4)
  | 4 => .ok (.cLi d4 i7)
  | 5 => .ok (.cLdD d3 a3 k5)
  | 6 => .ok (.cStD d3 a3 k5)
  | 7 => .ok (.cLdW d3 a3 k5)
  | 8 => .ok (.cStW d3 a3 k5)
  | 9 => .ok (.cLdsp (toCR (bitsAt w 6 5)) (.ofNat 6 (bitsAt w 0 6)))
  | 10 => .ok (.cStsp (toCR (bitsAt w 6 5)) (.ofNat 6 (bitsAt w 0 6)))
  | 11 => .ok (.cB (.ofNat 11 (bitsAt w 0 11)))
  | 12 => .ok (.cBeqz d3 (.ofNat 8 (bitsAt w 0 8)))
  | 13 => .ok (.cBnez d3 (.ofNat 8 (bitsAt w 0 8)))
  | 14 => zero (bitsAt w 0 11) .cRet
  | _ => zero (bitsAt w 0 11) .cNop

/-- A parcel of two bytes, little-endian (R45). -/
def parcel (lo hi : Byte) : Nat := lo.toNat + 256 * hi.toNat

/-- The pattern at the front of the bytes: its length, its value, and the bytes after it (R45). A word's first parcel
is its high half. -/
def pattern : List Byte → Option (Nat × Nat × List Byte)
  | b0 :: b1 :: rest =>
    if parcel b0 b1 < 2 ^ 15 then some (2, parcel b0 b1, rest)
    else match rest with
      | b2 :: b3 :: rest => some (4, parcel b0 b1 * 2 ^ 16 + parcel b2 b3, rest)
      | _ => none
  | _ => none

/-- The instruction of a pattern of `len` bytes. -/
def decodePattern (len w : Nat) : Dec := if len = 2 then decodeCompact w else decodeWord w

/-- The decoder: the instruction at the front of the bytes, and the bytes after it. -/
def decode (bs : List Byte) : Except DecodeError (Instr × List Byte) :=
  match pattern bs with
  | none => .error .truncated
  | some (len, w, rest) => match decodePattern len w with
    | .ok i => .ok (i, rest)
    | .error e => .error e

/-! ### The encoder -/

/-- A compact parcel of value w. -/
def parcelBytes (w : Nat) : List Byte := [.ofNat 8 w, .ofNat 8 (w / 256)]

/-- The bytes of a 32-bit word, as R45 stores them. -/
def wordBytes (w : Nat) : List Byte := parcelBytes (w / 2 ^ 16) ++ parcelBytes w

/-- Lay out a pattern of `len` bytes. -/
def patternBytes (len w : Nat) : List Byte := if len = 2 then parcelBytes w else wordBytes w

/-- Format R (R47). -/
def fmtR (maj d a b fn : Nat) : Nat := 2 ^ 31 + maj * 2 ^ 25 + d * 2 ^ 20 + a * 2 ^ 15 + b * 2 ^ 10 + fn
/-- Formats I and M: the low 15 bits as one field (R47). -/
def fmtI (maj d a imm : Nat) : Nat := 2 ^ 31 + maj * 2 ^ 25 + d * 2 ^ 20 + a * 2 ^ 15 + imm
/-- Format M (R47). -/
def fmtM (maj d a z off : Nat) : Nat := 2 ^ 31 + maj * 2 ^ 25 + d * 2 ^ 20 + a * 2 ^ 15 + z * 2 ^ 12 + off
/-- Format Z (R47). -/
def fmtZ (maj a c off : Nat) : Nat := 2 ^ 31 + maj * 2 ^ 25 + a * 2 ^ 20 + c * 2 ^ 17 + off
/-- Format J (R47). -/
def fmtJ (maj off : Nat) : Nat := 2 ^ 31 + maj * 2 ^ 25 + off
/-- Format V (R47). -/
def fmtV (maj d a b p ty o : Nat) : Nat :=
  2 ^ 31 + maj * 2 ^ 25 + d * 2 ^ 20 + a * 2 ^ 15 + b * 2 ^ 10 + p * 2 ^ 7 + ty * 2 ^ 4 + o

/-- Codes of conditions (R49). -/
def Cond.toCode : Cond → Nat
  | .eq => 0 | .ne => 1 | .lt => 2 | .ge => 3 | .lo => 4 | .hs => 5
/-- Codes of conditions against zero (R49). -/
def CondZ.toCode : CondZ → Nat
  | .eqz => 0 | .nez => 1 | .ltz => 2 | .gez => 3 | .gtz => 4 | .lez => 5
/-- Size codes (R55). -/
def Size.toCode : Size → Nat
  | .b => 0 | .h => 1 | .w => 2 | .d => 3 | .q => 4 | .bz => 5 | .hz => 6 | .wz => 7
/-- Integer type codes (R60). -/
def ITy.toCode : ITy → Nat
  | .i8 => 0 | .n8 => 1 | .i4 => 2 | .n4 => 3 | .i64 => 4 | .n64 => 5
/-- Floating type codes (R60). -/
def FTy.toCode : FTy → Nat
  | .f64 => 0 | .f32 => 1 | .f16 => 2 | .bf16 => 3
/-- FIELD codes (R57). -/
def Field.toCode : Field → Nat
  | .kind => 0 | .rbits => 1 | .frac => 2 | .gen => 3 | .objid => 4 | .cursor => 5 | .length => 6 | .level => 7
/-- Types of a floating atomic (R58). -/
def AFTy.toCode : AFTy → Nat
  | .f32 => 0 | .f64 => 1 | .bf16 => 2
/-- Compare relations (R61). -/
def VRel.toCode : VRel → Nat
  | .eq => 0 | .ne => 1 | .lt => 2 | .le => 3 | .gt => 4 | .ge => 5
/-- Format codes (R62). -/
def Fmt.toCode : Fmt → Nat
  | .f64 => 0 | .f32 => 1 | .f16 => 2 | .bf16 => 3 | .e4m3 => 4 | .e5m2 => 5 | .e2m3 => 6 | .e3m2 => 7 | .e2m1 => 8
  | .mxi8 => 9 | .i8 => 10 | .n8 => 11 | .i4 => 12 | .n4 => 13 | .i64 => 14 | .n64 => 15

/-- FN of an integer atomic (R58). -/
def amoFn (s w : Bool) (o : Nat) : Nat := s.toNat * 512 + w.toNat * 256 + o * 16
/-- FN of a floating atomic (R58). -/
def amoFfn (s : Bool) (t : AFTy) (o : Nat) (ctl : BitVec 4) : Nat :=
  s.toNat * 512 + t.toCode * 128 + o * 16 + ctl.toNat

/-- The length and the pattern of an instruction (R47 to R71). Steps have no pattern. -/
def encodePattern : Instr → Option (Nat × Nat)
  | .add d a b => some (4, fmtR 0x00 d a b 0)
  | .sub d a b => some (4, fmtR 0x00 d a b 1)
  | .and d a b => some (4, fmtR 0x00 d a b 2)
  | .or d a b => some (4, fmtR 0x00 d a b 3)
  | .xor d a b => some (4, fmtR 0x00 d a b 4)
  | .shl d a b => some (4, fmtR 0x00 d a b 5)
  | .shr d a b => some (4, fmtR 0x00 d a b 6)
  | .sra d a b => some (4, fmtR 0x00 d a b 7)
  | .min d a b => some (4, fmtR 0x00 d a b 8)
  | .max d a b => some (4, fmtR 0x00 d a b 9)
  | .minn d a b => some (4, fmtR 0x00 d a b 10)
  | .maxn d a b => some (4, fmtR 0x00 d a b 11)
  | .addQ d a b => some (4, fmtR 0x00 d a b 16)
  | .subQ d a b => some (4, fmtR 0x00 d a b 17)
  | .andQ d a b => some (4, fmtR 0x00 d a b 18)
  | .orQ d a b => some (4, fmtR 0x00 d a b 19)
  | .xorQ d a b => some (4, fmtR 0x00 d a b 20)
  | .setCc d a b c => some (4, fmtR 0x00 d a b (32 + c.toCode))
  | .addi d a imm => some (4, fmtI 0x01 d a imm.toNat)
  | .andi d a imm => some (4, fmtI 0x02 d a imm.toNat)
  | .ori d a imm => some (4, fmtI 0x03 d a imm.toNat)
  | .xori d a imm => some (4, fmtI 0x04 d a imm.toNat)
  | .shli d a sh => some (4, fmtI 0x05 d a (0 * 2 ^ 12 + sh.toNat))
  | .shri d a sh => some (4, fmtI 0x05 d a (1 * 2 ^ 12 + sh.toNat))
  | .srai d a sh => some (4, fmtI 0x05 d a (2 * 2 ^ 12 + sh.toNat))
  | .roli d a sh => some (4, fmtI 0x05 d a (3 * 2 ^ 12 + sh.toNat))
  | .setiCc d a c imm => some (4, fmtI 0x06 d a (c.toCode * 2 ^ 12 + imm.toNat))
  | .lkZ d pos imm => some (4, 2 ^ 31 + 0x07 * 2 ^ 25 + d.val * 2 ^ 20 + pos.toNat * 2 ^ 18 + 0 * 2 ^ 16 + imm.toNat)
  | .lkK d pos imm => some (4, 2 ^ 31 + 0x07 * 2 ^ 25 + d.val * 2 ^ 20 + pos.toNat * 2 ^ 18 + 1 * 2 ^ 16 + imm.toNat)
  | .lkS d pos imm => some (4, 2 ^ 31 + 0x07 * 2 ^ 25 + d.val * 2 ^ 20 + pos.toNat * 2 ^ 18 + 2 * 2 ^ 16 + imm.toNat)
  | .mul d a b => some (4, fmtR 0x08 d a b 0)
  | .mulh d a b => some (4, fmtR 0x08 d a b 1)
  | .mulhn d a b => some (4, fmtR 0x08 d a b 2)
  | .div d a b => some (4, fmtR 0x08 d a b 3)
  | .divn d a b => some (4, fmtR 0x08 d a b 4)
  | .remS d a b => some (4, fmtR 0x08 d a b 5)
  | .remn d a b => some (4, fmtR 0x08 d a b 6)
  | .mulx d a b => some (4, fmtR 0x08 d a b 7)
  | .mulxn d a b => some (4, fmtR 0x08 d a b 8)
  | .clz d a => some (4, fmtR 0x09 d a 0 0)
  | .ctz d a => some (4, fmtR 0x09 d a 0 1)
  | .popc d a => some (4, fmtR 0x09 d a 0 2)
  | .brev d a => some (4, fmtR 0x09 d a 0 3)
  | .bswap d a => some (4, fmtR 0x09 d a 0 4)
  | .bext d a b => some (4, fmtR 0x09 d a b 5)
  | .bins d a b => some (4, fmtR 0x09 d a b 6)
  | .andn d a b => some (4, fmtR 0x09 d a b 7)
  | .addpc d k => some (4, fmtI 0x0A d 0 k.toNat)
  | .b k => some (4, fmtJ 0x10 k.toNat)
  | .bl k => some (4, fmtJ 0x11 k.toNat)
  | .bcc a fb c k => some (4, fmtM 0x12 a fb c.toCode k.toNat)
  | .bccz a c k => some (4, fmtZ 0x13 a c.toCode k.toNat)
  | .br a => some (4, fmtR 0x14 0 a 0 0)
  | .brl a => some (4, fmtR 0x14 0 a 0 1)
  | .ret => some (4, fmtR 0x14 0 0 0 2)
  | .dbnz a k => some (4, fmtZ 0x15 a 0 k.toNat)
  | .nop => some (4, fmtM 0x18 0 0 0 0)
  | .endStrand => some (4, fmtM 0x18 0 0 1 0)
  | .trap k => some (4, fmtM 0x18 0 0 2 k.toNat)
  | .brk k => some (4, fmtM 0x18 0 0 3 k.toNat)
  | .yield => some (4, fmtM 0x18 0 0 4 0)
  | .rdst d n => some (4, fmtM 0x19 d 0 0 n.toNat)
  | .wrst a n => some (4, fmtM 0x19 0 a 1 n.toNat)
  | .setst a n => some (4, fmtM 0x19 0 a 2 n.toNat)
  | .clrst a n => some (4, fmtM 0x19 0 a 3 n.toNat)
  | .rdcnt d n => some (4, fmtM 0x1A d 0 0 n.toNat)
  | .clock d => some (4, fmtM 0x1A d 0 1 0)
  | .rmtBegin e k => some (4, fmtZ 0x1B e 0 k.toNat)
  | .rmtCommit e => some (4, fmtZ 0x1B e 1 0)
  | .rmtAbort => some (4, fmtZ 0x1B 0 2 0)
  | .ld d a z off => some (4, fmtM 0x20 d a z.toCode off.toNat)
  | .st d a z off => some (4, fmtM 0x21 d a z.toCode off.toNat)
  | .ldc d a off => some (4, fmtM 0x22 d a 0 off.toNat)
  | .stc d a off => some (4, fmtM 0x23 d a 0 off.toNat)
  | .ldx d a i z sc => some (4, fmtR 0x24 d a i (z.toCode * 128 + sc.val * 16))
  | .stx d a i z sc => some (4, fmtR 0x25 d a i (z.toCode * 128 + sc.val * 16))
  | .sbind d a i out e => some (4, fmtR 0x26 d a i (out.toNat * 512 + e.val * 64))
  | .sunbind d => some (4, fmtR 0x26 d 0 0 1)
  | .alloc d a n => some (4, fmtR 0x28 d a n 0)
  | .free a => some (4, fmtR 0x28 0 a 0 1)
  | .creclaim d a => some (4, fmtR 0x28 d a 0 2)
  | .split d a n => some (4, fmtR 0x29 d a n 0)
  | .join d a n => some (4, fmtR 0x29 d a n 1)
  | .send a p hint s => some (4, fmtR 0x29 0 a p (hint.toNat * 256 + s.toNat * 128 + 2))
  | .cview d a n => some (4, fmtR 0x29 d a n 3)
  | .cget d a f => some (4, fmtR 0x2A d a 0 (f.toCode * 8))
  | .cset d a n f => some (4, fmtR 0x2A d a n (f.toCode * 8 + 1))
  | .cinc d a n => some (4, fmtR 0x2A d a n 2)
  | .ctest d a => some (4, fmtR 0x2A d a 0 3)
  | .take d a off => some (4, fmtM 0x2C d a 0 off.toNat)
  | .put d a off s => some (4, fmtM 0x2C d a (s.toNat * 4 + 1) off.toNat)
  | .peek d a off => some (4, fmtM 0x2C d a 2 off.toNat)
  | .amoAdd d a o s w => some (4, fmtR 0x2D d a o (amoFn s w 0))
  | .amoAnd d a o s w => some (4, fmtR 0x2D d a o (amoFn s w 1))
  | .amoOr d a o s w => some (4, fmtR 0x2D d a o (amoFn s w 2))
  | .amoXor d a o s w => some (4, fmtR 0x2D d a o (amoFn s w 3))
  | .amoMin d a o s w => some (4, fmtR 0x2D d a o (amoFn s w 4))
  | .amoMax d a o s w => some (4, fmtR 0x2D d a o (amoFn s w 5))
  | .amoMinn d a o s w => some (4, fmtR 0x2D d a o (amoFn s w 6))
  | .amoMaxn d a o s w => some (4, fmtR 0x2D d a o (amoFn s w 7))
  | .amoSwap d a o s w => some (4, fmtR 0x2D d a o (amoFn s w 8))
  | .amoCas d a o s w => some (4, fmtR 0x2D d a o (amoFn s w 9))
  | .amoFadd d a o s t ctl => some (4, fmtR 0x2E d a o (amoFfn s t 0 ctl))
  | .amoFmin d a o s t ctl => some (4, fmtR 0x2E d a o (amoFfn s t 1 ctl))
  | .amoFmax d a o s t ctl => some (4, fmtR 0x2E d a o (amoFfn s t 2 ctl))
  | .amoCas2 d a o s => some (4, fmtR 0x2F d a o (s.toNat * 512))
  | .msg d a h n => some (4, fmtR 0x30 d a h (0 * 256 + n.val * 16))
  | .mcast d a h n => some (4, fmtR 0x30 d a h (1 * 256 + n.val * 16))
  | .cont d a h n => some (4, fmtR 0x30 d a h (2 * 256 + n.val * 16))
  | .bind a k => some (4, fmtI 0x31 0 a k.toNat)
  | .unbind k => some (4, fmtI 0x31 0 0 (2 ^ 14 + k.toNat))
  | .hstart d a g => some (4, fmtR 0x32 d a g 0)
  | .pair d a g => some (4, fmtR 0x32 d a g 1)
  | .hwait d a => some (4, fmtR 0x32 d a 0 2)
  | .hkill a => some (4, fmtR 0x32 0 a 0 3)
  | .wany a => some (4, fmtR 0x33 0 a 0 0)
  | .wall a => some (4, fmtR 0x33 0 a 0 1)
  | .ffr d a => some (4, fmtR 0x33 d a 0 2)
  | .tclr a => some (4, fmtR 0x33 0 a 0 3)
  | .post a => some (4, fmtR 0x34 0 a 0 0)
  | .grab d => some (4, fmtR 0x34 d 0 0 1)
  | .bar g => some (4, fmtI 0x35 0 0 g.toNat)
  | .barAdd a g => some (4, fmtI 0x35 0 a (2 ^ 14 + g.toNat))
  | .vadd d a e p t => some (4, fmtV 0x36 d a e p t.toCode 0)
  | .vsub d a e p t => some (4, fmtV 0x36 d a e p t.toCode 1)
  | .vmul d a e p t => some (4, fmtV 0x36 d a e p t.toCode 2)
  | .vmin d a e p t => some (4, fmtV 0x36 d a e p t.toCode 3)
  | .vmax d a e p t => some (4, fmtV 0x36 d a e p t.toCode 4)
  | .vand d a e p t => some (4, fmtV 0x36 d a e p t.toCode 5)
  | .vor d a e p t => some (4, fmtV 0x36 d a e p t.toCode 6)
  | .vxor d a e p t => some (4, fmtV 0x36 d a e p t.toCode 7)
  | .vshl d a e p t => some (4, fmtV 0x36 d a e p t.toCode 8)
  | .vshr d a e p t => some (4, fmtV 0x36 d a e p t.toCode 9)
  | .vabs d a p t => some (4, fmtV 0x36 d a 0 p t.toCode 10)
  | .vneg d a p t => some (4, fmtV 0x36 d a 0 p t.toCode 11)
  | .vadds d a e p t => some (4, fmtV 0x36 d a e p t.toCode 12)
  | .vsubs d a e p t => some (4, fmtV 0x36 d a e p t.toCode 13)
  | .vmulh d a e p t => some (4, fmtV 0x36 d a e p t.toCode 14)
  | .vavg d a e p t => some (4, fmtV 0x36 d a e p t.toCode 15)
  | .vfadd d a e p t => some (4, fmtV 0x37 d a e p t.toCode 0)
  | .vfsub d a e p t => some (4, fmtV 0x37 d a e p t.toCode 1)
  | .vfmul d a e p t => some (4, fmtV 0x37 d a e p t.toCode 2)
  | .vfdiv d a e p t => some (4, fmtV 0x37 d a e p t.toCode 3)
  | .vfma d a e p t => some (4, fmtV 0x37 d a e p t.toCode 4)
  | .vfmin d a e p t => some (4, fmtV 0x37 d a e p t.toCode 5)
  | .vfmax d a e p t => some (4, fmtV 0x37 d a e p t.toCode 6)
  | .vfabs d a p t => some (4, fmtV 0x37 d a 0 p t.toCode 7)
  | .vfneg d a p t => some (4, fmtV 0x37 d a 0 p t.toCode 8)
  | .vfsqrt d a p t => some (4, fmtV 0x37 d a 0 p t.toCode 9)
  | .vcmp d a e p t r => some (4, fmtV 0x38 d a e p t.toCode r.toCode)
  | .vfcmp d a e p t r => some (4, fmtV 0x38 d a e p t.toCode (6 + r.toCode))
  | .vsel d a e p t => some (4, fmtV 0x38 d a e p t.toCode 12)
  | .pand d a e => some (4, fmtV 0x38 d a e 0 0 13)
  | .por d a e => some (4, fmtV 0x38 d a e 0 0 14)
  | .pxor d a e => some (4, fmtV 0x38 d a e 0 0 15)
  | .vperm d a e p t => some (4, fmtV 0x39 d a e p t.toCode 0)
  | .vbcast d a p t => some (4, fmtV 0x39 d a 0 p t.toCode 1)
  | .vins d a e p t => some (4, fmtV 0x39 d a e p t.toCode 2)
  | .vext d a e t => some (4, fmtV 0x39 d a e 0 t.toCode 3)
  | .vredadd d a p t => some (4, fmtV 0x39 d a 0 p t.toCode 4)
  | .vredmin d a p t => some (4, fmtV 0x39 d a 0 p t.toCode 5)
  | .vredmax d a p t => some (4, fmtV 0x39 d a 0 p t.toCode 6)
  | .vfredadd d a p t => some (4, fmtV 0x39 d a 0 p t.toCode 7)
  | .vfredmin d a p t => some (4, fmtV 0x39 d a 0 p t.toCode 8)
  | .vfredmax d a p t => some (4, fmtV 0x39 d a 0 p t.toCode 9)
  | .vcvt d a t f => some (4, fmtR 0x3A d a t.toCode (f.toCode * 32 + 0))
  | .vmxq d a t f => some (4, fmtR 0x3A d a t.toCode (f.toCode * 32 + 1))
  | .vmxd d a t f => some (4, fmtR 0x3A d a t.toCode (f.toCode * 32 + 2))
  | .vld d a p off => some (4, fmtM 0x3B d a 0 (p.val * 512 + off.toNat))
  | .vst d a p off => some (4, fmtM 0x3B d a 1 (p.val * 512 + off.toNat))
  | .vgather d a vi p w => some (4, fmtM 0x3B d a 2 (vi.val * 256 + p.val * 32 + w.val * 4))
  | .vscatter d a vi p w => some (4, fmtM 0x3B d a 3 (vi.val * 256 + p.val * 32 + w.val * 4))
  | .vloop c nm1 stag icnt =>
    some (4, 2 ^ 31 + 0x3C * 2 ^ 25 + c.val * 2 ^ 20 + nm1.toNat * 2 ^ 16 + stag.toNat * 2 ^ 12 + icnt.toNat)
  | .tld d a n q qm => some (4, fmtR 0x3D d a n (0 * 128 + q.val * 16 + qm.toNat * 8))
  | .tst d a n q qm => some (4, fmtR 0x3D d a n (1 * 128 + q.val * 16 + qm.toNat * 8))
  | .tqDef a n q => some (4, fmtR 0x3D 0 a n (2 * 128 + q.val * 16))
  | .tqAdv n q => some (4, fmtR 0x3D 0 0 n (3 * 128 + q.val * 16))
  | .tqRel n q => some (4, fmtR 0x3D 0 0 n (4 * 128 + q.val * 16))
  | .tqWait n q => some (4, fmtR 0x3D 0 0 n (5 * 128 + q.val * 16))
  | .epush a e s => some (4, fmtI 0x3E 0 a (e.val * 2 ^ 13 + s.toNat * 512))
  | .epop d e => some (4, fmtI 0x3E d 0 (e.val * 2 ^ 13 + 2 ^ 10))
  | .estat d e => some (4, fmtI 0x3E d 0 (e.val * 2 ^ 13 + 2 * 2 ^ 10))
  | .aget d a bank g => some (4, fmtI 0x3E d a (3 * 2 ^ 10 + bank.toNat * 512 + g.toNat * 32))
  | .shufOpen a n => some (4, fmtR 0x3F 0 a n 0)
  | .shufHold a n => some (4, fmtR 0x3F 0 a n 1)
  | .shufClose n => some (4, fmtR 0x3F 0 0 n 2)
  | .shufStat d n => some (4, fmtR 0x3F d 0 n 3)
  | .cAddi d imm => some (2, 0 * 2 ^ 11 + d.toNat * 2 ^ 7 + imm.toNat)
  | .cMov d a => some (2, 1 * 2 ^ 11 + d.toNat * 2 ^ 7 + a.toNat * 2 ^ 3)
  | .cAdd d a => some (2, 2 * 2 ^ 11 + d.toNat * 2 ^ 7 + a.toNat * 2 ^ 3)
  | .cSub d a => some (2, 3 * 2 ^ 11 + d.toNat * 2 ^ 7 + a.toNat * 2 ^ 3)
  | .cLi d imm => some (2, 4 * 2 ^ 11 + d.toNat * 2 ^ 7 + imm.toNat)
  | .cLdD d a k => some (2, 5 * 2 ^ 11 + d.toNat * 2 ^ 8 + a.toNat * 2 ^ 5 + k.toNat)
  | .cStD d a k => some (2, 6 * 2 ^ 11 + d.toNat * 2 ^ 8 + a.toNat * 2 ^ 5 + k.toNat)
  | .cLdW d a k => some (2, 7 * 2 ^ 11 + d.toNat * 2 ^ 8 + a.toNat * 2 ^ 5 + k.toNat)
  | .cStW d a k => some (2, 8 * 2 ^ 11 + d.toNat * 2 ^ 8 + a.toNat * 2 ^ 5 + k.toNat)
  | .cLdsp d k => some (2, 9 * 2 ^ 11 + d.val * 2 ^ 6 + k.toNat)
  | .cStsp d k => some (2, 10 * 2 ^ 11 + d.val * 2 ^ 6 + k.toNat)
  | .cB k => some (2, 11 * 2 ^ 11 + k.toNat)
  | .cBeqz a k => some (2, 12 * 2 ^ 11 + a.toNat * 2 ^ 8 + k.toNat)
  | .cBnez a k => some (2, 13 * 2 ^ 11 + a.toNat * 2 ^ 8 + k.toNat)
  | .cRet => some (2, 14 * 2 ^ 11)
  | .cNop => some (2, 15 * 2 ^ 11)
  | _ => none

/-- Whether a term is a step that the hardware, the host, the fabric or the management controller brings about. -/
def Instr.isStep : Instr → Bool
  | .illegal _ _ => false
  | i => (encodePattern i).isNone

/-- The bytes of an instruction, in the order that R45 stores them. -/
def encode (i : Instr) : Option (List Byte) := (encodePattern i).map (fun p => patternBytes p.1 p.2)

/-- The instruction that the decoder reads from the bits w, numbered as spec/opcode_table.json numbers them: the table's
unit is the whole 32-bit word or the whole parcel. -/
def decodeTableWord (nbits w : Nat) : Option Instr :=
  let bs := if nbits = 16 then parcelBytes w else if nbits = 32 then wordBytes w else []
  match decode bs with
  | .ok (i, []) => some i
  | _ => none

end Sys2Proof
end

