-- ==== Sys2Proof/Machine/State.lean ====
section
/-! DEFINITION. The state of one device, the ways a step can stop without a next state, and the state after reset. -/

namespace Sys2Proof.Machine

/-- Why the machine stops with a fault. -/
inductive Fault where
  /-- An instruction is asked of a slot that holds no READY strand: only `exec` on such a state raises it, never `step`
  (R274). Safe. -/
  | noStrand
deriving DecidableEq, Repr

/-- Why a step has no meaning. -/
inductive Refusal where
  /-- An instruction without a meaning, rejected by name. Safe. -/
  | notModelled (mnemonic : String)
deriving DecidableEq, Repr

/-- Everything that the spec gives a device, and the model's own fields: `core`, `slot`, `ir`, `replaying`, `agenda`
`busy` (log 1), `fresh` (log 3) and `out` (what has left the device). -/
structure State where
  /-- TIMEBASE (R39, R5) -/
  time : Nat
  /-- DEVID.PHYS (R42) -/
  phys : Nat
  /-- extents of the mesh-torus (R350) -/
  extents : Nat × Nat × Nat × Nat
  /-- the strand whose turn it is, and the pattern it has fetched -/
  core : Nat
  slot : Nat
  ir : Nat
  /-- a strand's instruction has been executed in the present cycle (R4) -/
  busy : Bool
  /-- the turn is a replay of the strand's vector loop (R180) -/
  replaying : Bool
  agenda : List Turn
  fresh : Nat
  /-- memory levels (R34), by flat address; tags of granules (R36), by granule number -/
  mem : List Host.Cell
  tags : List Nat
  /-- sync words that are full, by flat address, and the banks' deferred lists (R146) -/
  full : List Nat
  waiters : List Waiter
  /-- the object table (R218), cleaning space (R222), transfers (R229), mordant fields by line number (R301) -/
  objs : Tab Obj
  cleaning : List Cleaning
  /-- allocations that wait for cleaning, in their order: pool, core, slot (R222) -/
  requests : List (Nat × Nat × Nat)
  transfers : List Transfer
  mordant : Tab Mordant
  /-- messages on their way to a core's inbox, and at the fabric interface for stopped contexts (R277, R279) -/
  net : List Msg
  outbox : List Msg
  /-- stop notices that this device has received: (device, core, context) (R279) -/
  notices : List (Nat × Nat × Nat)
  /-- the host write buffer (R255) -/
  hostBuf : List HostLine
  cores : Tab Core
  clusters : Tab Cluster
  dies : Tab Die
  parts : Tab Partition
  ctxs : Tab Context
  /-- domains, by core × 4,096 + context (R21) -/
  domains : Tab Domain
  /-- fabric ports (R343), revoked keys and fenced devices (R354, R355) -/
  links : Tab Link
  revoked : List Nat
  fenced : List Nat
  /-- end-to-end sequence numbers by destination, and those delivered by source (R347, R349) -/
  sent : Tab Nat
  delivered : Tab (List Nat)
  /-- TC 0 packets that wait for an earlier one (R349) -/
  reorder : List Packet
  /-- messages from other devices that await acceptance, by ticket (R229), and packets of those whose copies have not all come (R347) -/
  landings : Tab Landing
  pieces : List Packet
  /-- the write log of TC 3 requests (R356) -/
  writeLog : List (Nat × Nat)
  /-- hold entries of active coding points (R360), and the decode buffer (R362) -/
  holds : List HoldEntry
  lakes : List Packet
  /-- REMOTE batches applied, and the last packet of the same kind (R357) -/
  batches : List (Nat × Nat × Nat)
  flash : Flash
  /-- the configuration record that the last device reset took (R409) -/
  conf : List Byte
  /-- measurement blocks 1 to 4, made at boot, and the firmware alias key (R381, R410) -/
  blocks : List (BitVec 512)
  aliasKey : BitVec 256
  /-- booted: the compute clocks run (R410) -/
  booted : Bool
  /-- the operator trace ring (R398) -/
  ring : List TraceRec
  out : List Output
deriving DecidableEq, Repr

/-- The device right after reset. Values that the spec does not give are listed in log 2. -/
def State.reset : State :=
  { time := 0, phys := 0, extents := (1, 1, 1, 1), core := 0, slot := 0, ir := 0, busy := false, replaying := false, agenda := [],
    fresh := 0, mem := [], tags := [], full := [], waiters := [], objs := [], cleaning := [], requests := [], transfers := [],
    mordant := [], net := [], outbox := [], notices := [], hostBuf := [], cores := [], clusters := [], dies := [],
    parts := [], ctxs := [], domains := [], links := [], revoked := [], fenced := [], sent := [], delivered := [], reorder := [],
    landings := [], pieces := [],
    writeLog := [], holds := [], lakes := [], batches := [], flash := .empty, conf := [], blocks := [], aliasKey := 0, booted := false, ring := [], out := [] }

end Sys2Proof.Machine
end

