-- ==== Sys2Proof/Machine/Bits.lean ====
section
/-! DEFINITION. Bits and bytes (R6, R45, R73, R74), sparse tables, and the canonical list of memory bytes. -/

namespace Sys2Proof.Machine

/-! ### Numbers -/

/-- `bits(x, n)` of an integer, as a number (R74). -/
def bitsN (x : Int) (n : Nat) : Nat := (x % (2 ^ n : Nat)).toNat

/-- `sint` of an n-bit string (R74). -/
def sintN (x n : Nat) : Int := if 2 * (x % 2 ^ n) < 2 ^ n then (x % 2 ^ n : Nat) else (x % 2 ^ n : Nat) - (2 ^ n : Nat)

/-- `sat` (R74). -/
def sat (x lo hi : Int) : Int := if x < lo then lo else if hi < x then hi else x

/-- Place x in bits lo + n − 1 down to lo. -/
def field (x lo n : Nat) : Nat := x % 2 ^ n * 2 ^ lo

/-- One bit as a Bool. -/
def bit (x k : Nat) : Bool := x / 2 ^ k % 2 == 1

/-- Round up to a multiple of u. -/
def roundUp (x u : Nat) : Nat := (x + u - 1) / u * u

/-- The value of bytes, the least significant first (R45). -/
def leNat : List Byte → Nat
  | [] => 0
  | b :: bs => b.toNat + 256 * leNat bs

/-- The n low bytes of a value (R45). -/
def leBytes : Nat → Nat → List Byte
  | 0, _ => []
  | n + 1, x => .ofNat 8 x :: leBytes n (x / 256)

/-- A plain 64-bit result (R24). -/
def plain (x : Nat) : CReg := ⟨.ofNat 128 (x % 2 ^ 64), false⟩

/-- A plain 128-bit result (R24). -/
def plainQ (x : Nat) : CReg := ⟨.ofNat 128 x, false⟩

end Sys2Proof.Machine

namespace Sys2Proof

/-- Bits 63:0 as an unsigned value. -/
def CReg.lo (c : CReg) : Nat := c.val.toNat % 2 ^ 64

/-- Bits 127:64 as an unsigned value. -/
def CReg.hi (c : CReg) : Nat := c.val.toNat / 2 ^ 64

/-- Bits 63:0 as a signed value. -/
def CReg.slo (c : CReg) : Int := Machine.sintN c.val.toNat 64

end Sys2Proof

namespace Sys2Proof.Machine

/-! ### Sparse tables -/

/-- The value under a key. -/
def lookT {α : Type} : Tab α → Nat → Option α
  | [], _ => none
  | (j, x) :: t, k => if j = k then some x else lookT t k

/-- Put a value under a key; keys stay in rising order. -/
def putT {α : Type} : Tab α → Nat → α → Tab α
  | [], k, x => [(k, x)]
  | (j, y) :: t, k, x =>
    if k < j then (k, x) :: (j, y) :: t else if j = k then (k, x) :: t else (j, y) :: putT t k x

/-- Take every entry of a key out. -/
def dropT {α : Type} : Tab α → Nat → Tab α
  | [], _ => []
  | (j, y) :: t, k => if j = k then dropT t k else (j, y) :: dropT t k

/-- Change the value under a key that is there. -/
def mapT {α : Type} (t : Tab α) (k : Nat) (f : α → α) : Tab α :=
  match lookT t k with
  | some x => putT t k (f x)
  | none => t

/-- Put a number into a rising list. -/
def putN : List Nat → Nat → List Nat
  | [], k => [k]
  | j :: t, k => if k < j then k :: j :: t else if j = k then j :: t else j :: putN t k

/-- Take a number out of a rising list. -/
def dropN (t : List Nat) (k : Nat) : List Nat := t.filter (fun j => j != k)

/-- Set entry k of a list that reads 0 beyond its end. -/
def setL (l : List Nat) (k v : Nat) : List Nat :=
  (List.range (max l.length (k + 1))).map (fun i => if i = k then v else l.getD i 0)

/-- Entry by entry maximum of two lists that read 0 beyond their ends. -/
def maxL (a b : List Nat) : List Nat :=
  (List.range (max a.length b.length)).map (fun i => max (a.getD i 0) (b.getD i 0))

/-! ### Bytes of memory -/

/-- What an unlisted byte reads as (log 4). -/
def Memory.blank : Byte := 0

/-- The byte at an address. -/
def Memory.get : List Host.Cell → Nat → Byte
  | [], _ => Memory.blank
  | (j, x) :: m, a => if j = a then x else Memory.get m a

/-- Write a byte, keeping the canonical form. -/
def Memory.set : List Host.Cell → Nat → Byte → List Host.Cell
  | [], a, b => if b = Memory.blank then [] else [(a, b)]
  | (j, x) :: m, a, b =>
    if a < j then if b = Memory.blank then (j, x) :: m else (a, b) :: (j, x) :: m
    else if j = a then if b = Memory.blank then m else (a, b) :: m
    else (j, x) :: Memory.set m a b

/-- The canonical form: addresses strictly rising, no byte equal to the blank. -/
def Memory.wf : List Host.Cell → Bool
  | [] => true
  | [(_, b)] => b != Memory.blank
  | (a, b) :: (a', b') :: m => b != Memory.blank && decide (a < a') && Memory.wf ((a', b') :: m)

/-- The n bytes from an address. -/
def Memory.read (m : List Host.Cell) : Nat → Nat → List Byte
  | _, 0 => []
  | a, n + 1 => Memory.get m a :: Memory.read m (a + 1) n

/-- Write bytes from an address. -/
def Memory.write (m : List Host.Cell) : Nat → List Byte → List Host.Cell
  | _, [] => m
  | a, b :: bs => Memory.write (Memory.set m a b) (a + 1) bs

/-- Blank the n bytes from an address. -/
def Memory.clear (m : List Host.Cell) (a n : Nat) : List Host.Cell :=
  m.filter (fun c => decide (c.1 < a) || decide (a + n ≤ c.1))

/-- Copy n bytes from a to d; the two ranges do not overlap. -/
def Memory.copy (m : List Host.Cell) (a d n : Nat) : List Host.Cell :=
  (m.filter (fun c => decide (a ≤ c.1) && decide (c.1 < a + n))).foldl
    (fun m' c => Memory.set m' (c.1 - a + d) c.2) (Memory.clear m d n)

/-- Write those bytes that are enabled. -/
def Memory.writeSome (m : List Host.Cell) : Nat → List (Option Byte) → List Host.Cell
  | _, [] => m
  | a, none :: bs => Memory.writeSome m (a + 1) bs
  | a, some b :: bs => Memory.writeSome (Memory.set m a b) (a + 1) bs

end Sys2Proof.Machine
end

