-- ==== Sys2Proof/Machine/Flags.lean ====
section
/-! DEFINITION. Number formats, rounding, flags and sums (R82 to R101), and the generator of repeatable stochastic
rounding (R92). A finite value is (−1)^neg × m × 2^e, exactly, or with a last one bit that stands for a remainder below
every bit that rounding looks at. -/

namespace Sys2Proof.Machine

/-! ### The generator (R92) -/

/-- One step of the generator. -/
def xorStep (s : Nat) : Nat :=
  let s := if s = 0 then 1 else s
  let s := s ^^^ (s * 2 ^ 13 % 2 ^ 64)
  let s := s ^^^ (s / 2 ^ 7)
  s ^^^ (s * 2 ^ 17 % 2 ^ 64)

/-- The random value of a state. -/
def randOf (s : Nat) : Nat := s / 2 ^ 32

/-! ### Flags (R88) -/

def flIX : Nat := 1
def flUF : Nat := 2
def flOF : Nat := 4
def flDZ : Nat := 8
def flNV : Nat := 16
def flID : Nat := 32
def flSA : Nat := 64

/-! ### Formats (R83 to R85) -/

/-- A floating format: exponent bits, fraction bits, bias, and what its top exponent code holds: 0 infinity and NaN, 1 the
one NaN of E4M3, 2 numbers only. -/
structure FFmt where
  ew : Nat
  mw : Nat
  bias : Nat
  top : Nat
deriving DecidableEq, Repr

def fmtF64 : FFmt := ⟨11, 52, 1023, 0⟩
def fmtF32 : FFmt := ⟨8, 23, 127, 0⟩
def fmtF16 : FFmt := ⟨5, 10, 15, 0⟩
def fmtBF16 : FFmt := ⟨8, 7, 127, 0⟩
def fmtE5M2 : FFmt := ⟨5, 2, 15, 0⟩
def fmtE4M3 : FFmt := ⟨4, 3, 7, 1⟩
def fmtE3M2 : FFmt := ⟨3, 2, 3, 2⟩
def fmtE2M3 : FFmt := ⟨2, 3, 1, 2⟩
def fmtE2M1 : FFmt := ⟨2, 1, 1, 2⟩

/-- Bits of a pattern. -/
def FFmt.width (f : FFmt) : Nat := 1 + f.ew + f.mw

/-- The sign bit's weight. -/
def FFmt.signBit (f : FFmt) : Nat := 2 ^ (f.ew + f.mw)

/-- A sign as a pattern. -/
def FFmt.sign (f : FFmt) (neg : Bool) : Nat := if neg then f.signBit else 0

/-- The exponent of the smallest normal number. -/
def FFmt.emin (f : FFmt) : Int := 1 - f.bias

/-- The canonical NaN (R84). -/
def FFmt.nan (f : FFmt) : Nat :=
  if f.top = 0 then (2 ^ f.ew - 1) * 2 ^ f.mw + 2 ^ (f.mw - 1) else 2 ^ (f.ew + f.mw) - 1

/-- Positive infinity (R84). -/
def FFmt.inf (f : FFmt) : Nat := (2 ^ f.ew - 1) * 2 ^ f.mw

/-- The largest finite magnitude as a pattern (R83). -/
def FFmt.maxPat (f : FFmt) : Nat :=
  if f.top = 0 then f.inf - 1 else if f.top = 1 then 2 ^ (f.ew + f.mw) - 2 else 2 ^ (f.ew + f.mw) - 1

/-- A pattern's value: NaN (negative, quiet, its pattern), infinity, or a finite number. -/
inductive FVal where
  | nan (neg quiet : Bool) (pat : Nat)
  | inf (neg : Bool)
  | num (neg : Bool) (m : Nat) (e : Int)
deriving DecidableEq, Repr

/-- The value of a magnitude pattern. -/
def FFmt.mag (f : FFmt) (x : Nat) : Nat × Int :=
  let ex := x / 2 ^ f.mw
  let fr := x % 2 ^ f.mw
  if ex = 0 then (fr, f.emin - f.mw) else (2 ^ f.mw + fr, (ex : Int) - f.bias - f.mw)

/-- The value of a pattern (R83, R84). -/
def FFmt.unpack (f : FFmt) (x : Nat) : FVal :=
  let neg := decide (f.signBit ≤ x % 2 ^ f.width)
  let a := x % f.signBit
  if f.top = 0 ∧ f.inf < a then .nan neg (bit a (f.mw - 1)) x
  else if f.top = 0 ∧ a = f.inf then .inf neg
  else if f.top = 1 ∧ a = f.nan then .nan neg true x
  else let (m, e) := f.mag a
    .num neg m e

/-- Whether a pattern is a subnormal number. -/
def FFmt.subnormal (f : FFmt) (x : Nat) : Bool := x % f.signBit / 2 ^ f.mw == 0 && x % 2 ^ f.mw != 0

/-! ### Exact arithmetic -/

/-- The integer m × 2^e scaled to exponent q ≤ e. -/
def scaled (neg : Bool) (m : Nat) (e q : Int) : Int :=
  let x : Int := m * (2 ^ (e - q).toNat : Nat)
  if neg then -x else x

/-- The exact sum of two finite values; an exact zero has the sign given. -/
def exactAdd (a b : Bool × Nat × Int) (zero : Bool) : Bool × Nat × Int :=
  let q := min a.2.2 b.2.2
  let s := scaled a.1 a.2.1 a.2.2 q + scaled b.1 b.2.1 b.2.2 q
  if s = 0 then (zero, 0, 0) else (decide (s < 0), s.natAbs, q)

/-- The integer square root of n, from bit k of the root down. -/
def isqrtFrom (n : Nat) : Nat → Nat → Nat
  | 0, r => r
  | k + 1, r => if (r + 2 ^ k) * (r + 2 ^ k) ≤ n then isqrtFrom n k (r + 2 ^ k) else isqrtFrom n k r

/-- A quotient of magnitudes, with 140 bits or more and the remainder's bit. -/
def exactDiv (m1 : Nat) (e1 : Int) (m2 : Nat) (e2 : Int) : Nat × Int :=
  let k := 140 + Nat.log2 m2
  let q := m1 * 2 ^ k / m2
  (2 * q + (if m1 * 2 ^ k % m2 = 0 then 0 else 1), e1 - e2 - k - 1)

/-- A square root of a magnitude, with 140 bits or more and the remainder's bit. -/
def exactSqrt (m : Nat) (e : Int) : Nat × Int :=
  let odd := (e % 2).toNat
  let n := m * 2 ^ (280 + odd)
  let r := isqrtFrom n 300 0
  (2 * r + (if r * r = n then 0 else 1), (e - odd) / 2 - 140 - 1)

/-! ### Rounding (R90, R91) -/

/-- Controls of a rounding: RM, SAT, NANC, how subnormals are handled (0 flush, 1 assist, 2 in full), and the random
value of its step. -/
structure Ctl where
  rm : Nat
  sat : Bool
  nanc : Bool
  subn : Nat
  u : Nat
deriving DecidableEq, Repr

/-- m × 2^e rounded to a multiple of 2^q (R90): the multiple, and whether it is inexact. -/
def roundMag (c : Ctl) (neg : Bool) (m : Nat) (e q : Int) : Nat × Bool :=
  if q ≤ e then (m * 2 ^ (e - q).toNat, false)
  else
    let sh := (q - e).toNat
    let k := m / 2 ^ sh
    let r := m % 2 ^ sh
    let up : Bool :=
      if c.rm = 0 then decide (2 ^ sh < 2 * r) || (2 ^ sh == 2 * r && k % 2 == 1)
      else if c.rm = 1 then false
      else if c.rm = 2 then !neg
      else if c.rm = 3 then neg
      else decide (c.u < r * 2 ^ 32 / 2 ^ sh)
    (if r ≠ 0 && up then k + 1 else k, r != 0)

/-- Whether k × 2^q exceeds a pattern's magnitude. -/
def exceeds (f : FFmt) (k : Nat) (q : Int) (pat : Nat) : Bool :=
  let (m, e) := f.mag pat
  if q ≤ e then decide (m * 2 ^ (e - q).toNat < k) else decide (m < k * 2 ^ (q - e).toNat)

/-- What an overflow delivers (R91). -/
def overflow (f : FFmt) (c : Ctl) (neg : Bool) : Nat × Nat :=
  if f.top = 2 then (f.sign neg + f.maxPat, flOF ||| flIX ||| flSA)
  else if c.sat then (f.sign neg + f.maxPat, flOF ||| flIX ||| flSA)
  else if c.rm = 1 ∨ (c.rm = 2 ∧ neg) ∨ (c.rm = 3 ∧ !neg) then (f.sign neg + f.maxPat, flOF ||| flIX)
  else (f.sign neg + (if f.top = 1 then f.nan else f.inf), flOF ||| flIX)

/-- `round_to` of a finite value (R74, R90, R91, R93): the pattern, its flags, and whether a non-zero result is tiny. -/
def roundTo (f : FFmt) (c : Ctl) (neg : Bool) (m : Nat) (e : Int) : Nat × Nat × Bool :=
  if m = 0 then (f.sign neg, 0, false)
  else
    let q := max ((Nat.log2 m : Int) + e - f.mw) (f.emin - f.mw)
    let (k, ix) := roundMag c neg m e q
    let tiny := decide (q = f.emin - f.mw) && decide (k < 2 ^ f.mw)
    if exceeds f k q f.maxPat then
      let (p, fl) := overflow f c neg
      (p, fl, false)
    else if tiny then
      if c.subn = 0 then (f.sign neg, flUF ||| flIX, true)
      else (f.sign neg + k, if ix then flUF ||| flIX else 0, true)
    else
      let (k, q) := if k = 2 ^ (f.mw + 1) then (2 ^ f.mw, q + 1) else (k, q)
      let ex := (q + f.mw + f.bias).toNat
      (f.sign neg + ex * 2 ^ f.mw + (k - 2 ^ f.mw), if ix then flIX else 0, false)

/-! ### Operations (R94, R101, R166) -/

/-- An operand under the subnormal handling of R93: its value, and the flag ID when it is flushed. -/
def operand (f : FFmt) (c : Ctl) (x : Nat) : FVal × Nat :=
  if f.subnormal x ∧ c.subn = 0 then (.num (decide (f.signBit ≤ x % 2 ^ f.width)) 0 0, flID) else (f.unpack x, 0)

/-- A NaN pattern with its quiet bit set (R94). -/
def FFmt.quieted (f : FFmt) (x : Nat) : Nat := if f.top = 0 then x ||| 2 ^ (f.mw - 1) else x

/-- NANC: every NaN result becomes the canonical NaN (R94). -/
def nancOf (f : FFmt) (c : Ctl) (p : Nat) : Nat := if c.nanc then f.nan else p

/-- A signalling NaN raises NV (R94). -/
def FVal.sig : FVal → Nat
  | .nan _ q _ => if q then 0 else flNV
  | .inf _ => 0
  | .num _ _ _ => 0

/-- The first NaN of the operands. -/
def firstNan : List FVal → Option Nat
  | [] => none
  | .nan _ _ p :: _ => some p
  | .inf _ :: t => firstNan t
  | .num _ _ _ :: t => firstNan t

/-- A lane's outcome: pattern, flags, and whether R93 would enter the assist. -/
structure Lane where
  pat : Nat
  flags : Nat
  assist : Bool
deriving DecidableEq, Repr

/-- An invalid operation (R94). -/
def invalid (f : FFmt) (fl : Nat) (sub : Bool) : Lane := ⟨f.nan, fl ||| flNV, sub⟩

/-- A NaN operand delivered, or none. -/
def nanLane (f : FFmt) (c : Ctl) (xs : List FVal) (fl : Nat) (sub : Bool) : Option Lane :=
  (firstNan xs).map (fun p => ⟨nancOf f c (f.quieted p), xs.foldl (fun a x => a ||| x.sig) fl, sub⟩)

/-- A rounded lane. -/
def roundLane (f : FFmt) (c : Ctl) (x : Bool × Nat × Int) (fl : Nat) (sub : Bool) : Lane :=
  let (p, g, tiny) := roundTo f c x.1 x.2.1 x.2.2
  ⟨p, fl ||| g, sub || tiny⟩

/-- The sign of an exact zero sum under a mode. -/
def zeroSign (c : Ctl) (a b : Bool) : Bool := if a = b then a else c.rm == 3

/-- A sum of two values that are not NaN. -/
def addVals (f : FFmt) (c : Ctl) (a b : FVal) (fl : Nat) (sub : Bool) : Lane :=
  match a, b with
  | .inf x, .inf y => if x = y then ⟨f.sign x + f.inf, fl, sub⟩ else invalid f fl sub
  | .inf x, _ => ⟨f.sign x + f.inf, fl, sub⟩
  | _, .inf y => ⟨f.sign y + f.inf, fl, sub⟩
  | .num x m e, .num y n g =>
    let z := if m = 0 ∧ n = 0 then zeroSign c x y else c.rm == 3
    roundLane f c (exactAdd (x, m, e) (y, n, g) z) fl sub
  | _, _ => invalid f fl sub

/-- The value with its sign inverted. -/
def FVal.neg : FVal → FVal
  | .nan s q p => .nan s q p
  | .inf s => .inf (!s)
  | .num s m e => .num (!s) m e

/-- `vfadd` and `vfsub` of a lane. -/
def fAdd (f : FFmt) (c : Ctl) (minus : Bool) (x y : Nat) : Lane :=
  let (a, fa) := operand f c x
  let (b, fb) := operand f c y
  let sub := f.subnormal x || f.subnormal y
  match nanLane f c [a, b] (fa ||| fb) sub with
  | some l => l
  | none => addVals f c a (if minus then b.neg else b) (fa ||| fb) sub

/-- `vfmul` of a lane. -/
def fMul (f : FFmt) (c : Ctl) (x y : Nat) : Lane :=
  let (a, fa) := operand f c x
  let (b, fb) := operand f c y
  let sub := f.subnormal x || f.subnormal y
  let fl := fa ||| fb
  match nanLane f c [a, b] fl sub with
  | some l => l
  | none =>
    match a, b with
    | .inf s, .inf t => ⟨f.sign (s != t) + f.inf, fl, sub⟩
    | .inf s, .num t n _ => if n = 0 then invalid f fl sub else ⟨f.sign (s != t) + f.inf, fl, sub⟩
    | .num s m _, .inf t => if m = 0 then invalid f fl sub else ⟨f.sign (s != t) + f.inf, fl, sub⟩
    | .num s m e, .num t n g => roundLane f c (s != t, m * n, e + g) fl sub
    | _, _ => invalid f fl sub

/-- `vfdiv` of a lane. -/
def fDiv (f : FFmt) (c : Ctl) (x y : Nat) : Lane :=
  let (a, fa) := operand f c x
  let (b, fb) := operand f c y
  let sub := f.subnormal x || f.subnormal y
  let fl := fa ||| fb
  match nanLane f c [a, b] fl sub with
  | some l => l
  | none =>
    match a, b with
    | .inf _, .inf _ => invalid f fl sub
    | .inf s, .num t _ _ => ⟨f.sign (s != t) + f.inf, fl, sub⟩
    | .num s _ _, .inf t => ⟨f.sign (s != t), fl, sub⟩
    | .num s m e, .num t n g =>
      if n = 0 then
        if m = 0 then invalid f fl sub
        else if c.sat then ⟨f.sign (s != t) + f.maxPat, fl ||| flDZ ||| flSA, sub⟩
        else ⟨f.sign (s != t) + f.inf, fl ||| flDZ, sub⟩
      else if m = 0 then ⟨f.sign (s != t), fl, sub⟩
      else
        let q := exactDiv m e n g
        roundLane f c (s != t, q.1, q.2) fl sub
    | _, _ => invalid f fl sub

/-- `vfma` of a lane: a × b + d with one rounding; a product of zero and infinity is invalid whatever d is (R94). -/
def fMa (f : FFmt) (c : Ctl) (x y z : Nat) : Lane :=
  let (a, fa) := operand f c x
  let (b, fb) := operand f c y
  let (d, fd) := operand f c z
  let sub := f.subnormal x || f.subnormal y || f.subnormal z
  let fl := fa ||| fb ||| fd
  let bad := match a, b with
    | .inf _, .num _ n _ => n == 0
    | .num _ m _, .inf _ => m == 0
    | _, _ => false
  if bad then invalid f (d.sig ||| fl) sub
  else match nanLane f c [a, b, d] fl sub with
  | some l => l
  | none =>
    match a, b with
    | .inf s, .inf t => addVals f c (.inf (s != t)) d fl sub
    | .inf s, .num t _ _ => addVals f c (.inf (s != t)) d fl sub
    | .num s _ _, .inf t => addVals f c (.inf (s != t)) d fl sub
    | .num s m e, .num t n g => addVals f c (.num (s != t) (m * n) (e + g)) d fl sub
    | _, _ => invalid f fl sub

/-- A rank that orders patterns as values, −0 below +0. -/
def FFmt.rank (f : FFmt) (x : Nat) : Int :=
  let a : Nat := x % f.signBit
  if f.signBit ≤ x % 2 ^ f.width then -(a : Int) - 1 else a

/-- The selection of `vfmin` and `vfmax` (R166). -/
def fSel (f : FFmt) (c : Ctl) (greater : Bool) (x y : Nat) : Lane :=
  let (a, fa) := operand f c x
  let (b, fb) := operand f c y
  let sub := f.subnormal x || f.subnormal y
  let x := if fa = 0 then x else x / f.signBit * f.signBit
  let y := if fb = 0 then y else y / f.signBit * f.signBit
  let fl := fa ||| fb
  let pick : Lane := ⟨if (decide (f.rank x ≤ f.rank y)) != greater then x else y, fl, sub⟩
  match a, b with
  | .nan _ true _, .inf _ => ⟨y, fl, sub⟩
  | .nan _ true _, .num _ _ _ => ⟨y, fl, sub⟩
  | .inf _, .nan _ true _ => ⟨x, fl, sub⟩
  | .num _ _ _, .nan _ true _ => ⟨x, fl, sub⟩
  | _, _ => (nanLane f c [a, b] fl sub).getD pick

/-- `vfabs` (`clear`) and `vfneg` of a lane: a NaN is quieted first, and NANC acts last (R94, R166). -/
def fSign (f : FFmt) (c : Ctl) (clear : Bool) (x : Nat) : Lane :=
  let (a, fl) := operand f c x
  let sub := f.subnormal x
  let flip (p : Nat) : Nat :=
    if clear then p % f.signBit else if f.signBit ≤ p then p - f.signBit else p + f.signBit
  match a with
  | .nan _ _ p => ⟨nancOf f c (flip (f.quieted p)), fl ||| a.sig, sub⟩
  | .inf _ => ⟨flip x, fl, sub⟩
  | .num _ _ _ => ⟨flip (if fl = 0 then x else x / f.signBit * f.signBit), fl, sub⟩

/-- `vfsqrt` of a lane. -/
def fSqrt (f : FFmt) (c : Ctl) (x : Nat) : Lane :=
  let (a, fl) := operand f c x
  let sub := f.subnormal x
  match a with
  | .nan _ _ p => ⟨nancOf f c (f.quieted p), fl ||| a.sig, sub⟩
  | .inf s => if s then invalid f fl sub else ⟨f.inf, fl, sub⟩
  | .num s m e =>
    if m = 0 then ⟨f.sign s, fl, sub⟩
    else if s then invalid f fl sub
    else
      let r := exactSqrt m e
      roundLane f c (false, r.1, r.2) fl sub

/-- The relation of `vfcmp` (R167): −1, 0, 1, or 2 for an unordered pair; subnormals in full. -/
def fCmp (f : FFmt) (x y : Nat) : Int :=
  let key (x : Nat) : Int :=
    let a : Nat := x % f.signBit
    if f.signBit ≤ x % 2 ^ f.width then -(a : Int) else a
  match f.unpack x, f.unpack y with
  | .nan _ _ _, _ => 2
  | _, .nan _ _ _ => 2
  | _, _ => if key x < key y then -1 else if key x = key y then 0 else 1

/-! ### Conversions (R95) -/

/-- A NaN moved to another format (R94): from E4M3 a quiet NaN whose sign and other bits are free (log 9). -/
def convNan (f g : FFmt) (neg : Bool) (pat : Nat) : Nat :=
  if g.top = 1 then g.sign neg + g.nan
  else if f.top = 1 then
    let x := Config.nanFromE4M3 g.mw (pat % 2 ^ f.width)
    g.sign x.2 + g.nan + x.1 % 2 ^ (g.mw - 1)
  else
    let fr := (pat ||| 2 ^ (f.mw - 1)) % 2 ^ f.mw
    let fr := if f.mw ≤ g.mw then fr * 2 ^ (g.mw - f.mw) else fr / 2 ^ (f.mw - g.mw)
    g.sign neg + g.inf + fr

/-- Floating to floating (R95). `c.subn` is 2 unless the pair is FP32 and FP64 (R93). -/
def convFF (f g : FFmt) (c : Ctl) (x : Nat) : Lane :=
  let (a, fl) := operand f c x
  let sub := f.subnormal x
  match a with
  | .nan neg _ p => ⟨nancOf g c (convNan f g neg p), fl ||| a.sig, sub⟩
  | .inf neg =>
    if g.top = 1 then
      if c.sat then ⟨g.sign neg + g.maxPat, fl ||| flSA, sub⟩
      else ⟨nancOf g c (g.sign neg + g.nan), fl ||| flNV, sub⟩
    else ⟨g.sign neg + g.inf, fl, sub⟩
  | .num neg m e =>
    let l := roundLane g c (neg, m, e) fl sub
    { l with pat := if g.top = 1 ∧ l.pat % g.signBit = g.nan then nancOf g c l.pat else l.pat }

/-- The range of an integer format (R82). -/
def intLo (w : Nat) (signed : Bool) : Int := if signed then -(2 ^ (w - 1) : Nat) else 0
/-- The top of an integer format's range (R82). -/
def intHi (w : Nat) (signed : Bool) : Int := if signed then (2 ^ (w - 1) : Nat) - 1 else (2 ^ w : Nat) - 1

/-- An integer out of range becomes the nearer bound, with NV (R91). -/
def clampInt (w : Nat) (signed : Bool) (x : Int) (fl : Nat) : Lane :=
  if x < intLo w signed then ⟨bitsN (intLo w signed) w, flNV, false⟩
  else if intHi w signed < x then ⟨bitsN (intHi w signed) w, flNV, false⟩
  else ⟨bitsN x w, fl, false⟩

/-- Floating to integer (R95). -/
def convFI (f : FFmt) (w : Nat) (signed : Bool) (c : Ctl) (x : Nat) : Lane :=
  match f.unpack x with
  | .nan _ _ _ => ⟨0, flNV, false⟩
  | .inf neg => ⟨bitsN (if neg then intLo w signed else intHi w signed) w, flNV, false⟩
  | .num neg m e =>
    let (k, ix) := roundMag c neg m e 0
    clampInt w signed (if neg then -(k : Int) else k) (if ix then flIX else 0)

/-- The value of an integer lane. -/
def intVal (w : Nat) (signed : Bool) (x : Nat) : Int := if signed then sintN x w else (x % 2 ^ w : Nat)

/-- Integer to floating (R95). -/
def convIF (w : Nat) (signed : Bool) (g : FFmt) (c : Ctl) (x : Nat) : Lane :=
  let v := intVal w signed x
  let l := roundLane g c (decide (v < 0), v.natAbs, 0) 0 false
  { l with pat := if g.top = 1 ∧ l.pat % g.signBit = g.nan then nancOf g c l.pat else l.pat }

/-! ### Sums of many terms (R98 to R100) -/

/-- The outcome of a sum of terms. -/
inductive Sum where
  | nan
  | inf (neg : Bool)
  | num (neg : Bool) (m : Nat) (e : Int)
deriving DecidableEq, Repr

/-- The exponent of a term's leading bit; none for zero, infinity and NaN. -/
def leadOf : FVal → Option Int
  | .num _ m e => if m = 0 then none else some ((Nat.log2 m : Int) + e)
  | .inf _ => none
  | .nan _ _ _ => none

/-- The greatest of the leading exponents. -/
def maxLead (ts : List FVal) : Option Int :=
  ts.foldl (fun a t => match a, leadOf t with
    | none, x => x
    | some x, none => some x
    | some x, some y => some (max x y)) none

/-- A term truncated toward zero to a multiple of 2^q. -/
def truncTo (q : Int) : FVal → Int
  | .num neg m e =>
    let k : Int := if q ≤ e then m * (2 ^ (e - q).toNat : Nat) else (m / 2 ^ (q - e).toNat : Nat)
    if neg then -k else k
  | .inf _ => 0
  | .nan _ _ _ => 0

/-- Whether a term is −0. -/
def isNegZero : FVal → Bool
  | .num neg m _ => neg && m == 0
  | .inf _ => false
  | .nan _ _ _ => false

/-- Whether a term is NaN. -/
def FVal.isNan : FVal → Bool
  | .nan _ _ _ => true
  | .inf _ => false
  | .num _ _ _ => false

/-- S of a list of terms with a window of w bits (R98 to R100). -/
def passSum (w : Nat) (ts : List FVal) : Sum :=
  if ts.any FVal.isNan then .nan
  else
    let pos := ts.contains (.inf false)
    let neg := ts.contains (.inf true)
    if pos && neg then .nan
    else if pos then .inf false
    else if neg then .inf true
    else match maxLead ts with
      | none => .num (!ts.isEmpty && ts.all isNegZero) 0 0
      | some e =>
        let q := e - w
        let s := ts.foldl (fun a t => a + truncTo q t) 0
        .num (decide (s < 0)) s.natAbs q

/-- Controls of a matrix pass: nearest-even, SAT off, subnormals in full (R98). -/
def passCtl : Ctl := ⟨0, false, false, 2, 0⟩

/-- The new accumulator value, and whether it is a NaN or an infinity that was produced (R98, R99). -/
def accAdd (acc : Nat) (s : Sum) : Nat :=
  let f := fmtF32
  match f.unpack acc, s with
  | .nan _ _ _, _ => f.nan
  | _, .nan => f.nan
  | .inf x, .inf y => if x = y then f.sign x + f.inf else f.nan
  | .inf x, .num _ _ _ => f.sign x + f.inf
  | .num _ _ _, .inf y => f.sign y + f.inf
  | .num x m e, .num y n g => (addVals f passCtl (.num x m e) (.num y n g) 0 false).pat

/-- The exact product of two values (R98, R99): infinity times zero is NaN. -/
def mulVal : FVal → FVal → FVal
  | .nan a b c, _ => .nan a b c
  | _, .nan a b c => .nan a b c
  | .inf s, .inf t => .inf (s != t)
  | .inf s, .num t n _ => if n = 0 then .nan false true 0 else .inf (s != t)
  | .num s m _, .inf t => if m = 0 then .nan false true 0 else .inf (s != t)
  | .num s m e, .num t n g => .num (s != t) (m * n) (e + g)

/-- The exact sum of finite products, times 2^k (R98). DESIGN CHOICE (log 57): R98 gives an exact zero no sign; a product with a zero
factor has the exclusive-or of the signs, and the sum is −0 only when every product is. -/
def blockTerm (ps : List FVal) (k : Int) : FVal :=
  if ps.any FVal.isNan then .nan false true 0
  else if ps.contains (.inf false) && ps.contains (.inf true) then .nan false true 0
  else if ps.contains (.inf false) then .inf false
  else if ps.contains (.inf true) then .inf true
  else
    let val (p : FVal) : Bool × Nat × Int := match p with
      | .num s m e => (s, m, e)
      | .inf s => (s, 0, 0)
      | .nan s _ _ => (s, 0, 0)
    let z := ps.all isNegZero
    let t := ps.foldl (fun a p => exactAdd a (val p) false) (false, 0, 0)
    .num (if t.2.1 = 0 then z else t.1) t.2.1 (t.2.2 + k)

end Sys2Proof.Machine
end

