-- ==== Sys2Proof/Machine/Mem.lean ====
section
/-! DEFINITION. Access to the parts of State, memory levels (R34 to R36), mordant fields (R301) and the L1 (R236). -/

namespace Sys2Proof.Machine

/-! ### Parts of State -/

/-- A core (R12). -/
def State.coreAt (s : State) (c : Nat) : Core := (lookT s.cores c).getD Core.reset

/-- Replace a core. -/
def State.setCore (s : State) (c : Nat) (k : Core) : State := { s with cores := putT s.cores c k }

/-- Change a core. -/
def State.modCore (s : State) (c : Nat) (f : Core → Core) : State := s.setCore c (f (s.coreAt c))

/-- A slot of a core (R17). -/
def Core.slotAt (k : Core) (i : Nat) : Slot := (lookT k.slots i).getD Slot.vacant

/-- Replace a slot of a core. -/
def Core.setSlot (k : Core) (i : Nat) (t : Slot) : Core := { k with slots := putT k.slots i t }

/-- A slot. -/
def State.slotAt (s : State) (c i : Nat) : Slot := (s.coreAt c).slotAt i

/-- Replace a slot. -/
def State.setSlot (s : State) (c i : Nat) (t : Slot) : State := s.modCore c (fun k => k.setSlot i t)

/-- Change a slot. -/
def State.modSlot (s : State) (c i : Nat) (f : Slot → Slot) : State := s.setSlot c i (f (s.slotAt c i))

/-- The slot whose turn it is. -/
def State.cur (s : State) : Slot := s.slotAt s.core s.slot

/-- Change the slot whose turn it is. -/
def State.modCur (s : State) (f : Slot → Slot) : State := s.modSlot s.core s.slot f

/-- The key of a domain (R21). -/
def domKey (core asid : Nat) : Nat := core * 4096 + asid

/-- Whether a domain exists. -/
def State.hasDom (s : State) (core asid : Nat) : Bool := (lookT s.domains (domKey core asid)).isSome

/-- A domain. -/
def State.domAt (s : State) (core asid : Nat) : Domain := (lookT s.domains (domKey core asid)).getD Domain.fresh

/-- Change a domain that exists. -/
def State.modDom (s : State) (core asid : Nat) (f : Domain → Domain) : State :=
  { s with domains := mapT s.domains (domKey core asid) f }

/-- The domain of the strand whose turn it is. -/
def State.dom (s : State) : Domain := s.domAt s.core s.cur.asid

/-- Change the domain of the strand whose turn it is. -/
def State.modCurDom (s : State) (f : Domain → Domain) : State := s.modDom s.core s.cur.asid f

/-- A partition (R370). -/
def State.partAt (s : State) (p : Nat) : Partition := (lookT s.parts p).getD Partition.reset

/-- Change a partition. -/
def State.modPart (s : State) (p : Nat) (f : Partition → Partition) : State :=
  { s with parts := putT s.parts p (f (s.partAt p)) }

/-- A cluster, by die × 64 + cluster. -/
def State.clusterAt (s : State) (c : Nat) : Cluster := (lookT s.clusters c).getD Cluster.reset

/-- Change a cluster. -/
def State.modCluster (s : State) (c : Nat) (f : Cluster → Cluster) : State :=
  { s with clusters := putT s.clusters c (f (s.clusterAt c)) }

/-- An event waits at the edge of a cluster that is in a low state (R405). -/
def Cluster.stir (k : Cluster) : Cluster := { k with wake := k.wake || k.power != 0 }

/-- An event for a cluster. -/
def State.stir (s : State) (c : Nat) : State := s.modCluster c Cluster.stir

/-- An event for every cluster of the device. -/
def State.stirAll (s : State) : State := { s with clusters := s.clusters.map (fun p => (p.1, p.2.stir)) }

/-- A die. -/
def State.dieAt (s : State) (d : Nat) : Die := (lookT s.dies d).getD Die.reset

/-- Change a die. -/
def State.modDie (s : State) (d : Nat) (f : Die → Die) : State := { s with dies := putT s.dies d (f (s.dieAt d)) }

/-- An entry of the object table (R218). -/
def State.objAt (s : State) (o : Nat) : Obj := (lookT s.objs o).getD Obj.free

/-- Replace an entry of the object table. -/
def State.setObj (s : State) (o : Nat) (e : Obj) : State := { s with objs := putT s.objs o e }

/-- Change an entry of the object table. -/
def State.modObj (s : State) (o : Nat) (f : Obj → Obj) : State := s.setObj o (f (s.objAt o))

/-- The cluster of a core, as die × 64 + cluster (R14). -/
def clusterOf (core : Nat) : Nat := core / 32

/-- The die of a core (R14). -/
def dieOf (core : Nat) : Nat := core / 2048

/-- The job-visible identifier of this device for a partition (R42). -/
def State.jobDev (s : State) (part : Nat) : Nat := (s.partAt part).job

/-- The core identifiers of the device, rising (R14). -/
def allCores : List Nat :=
  (List.range 192).flatMap (fun q => (List.range 24).map (fun k => (q / 48 * 64 + q % 48) * 32 + k))

/-- A free number, and the counter advanced (log 3). -/
def State.drawn (s : State) : State := { s with fresh := s.fresh + 1 }

/-! ### Counters (R384, R385) -/

/-- A count stops at 2^63 − 1 (R384). -/
def countTo (x n : Nat) : Nat := min (x + n) (2 ^ 63 - 1)

/-- Add to a domain's counter. -/
def State.count (s : State) (core asid num n : Nat) : State :=
  s.modDom core asid (fun d => { d with counters := putT d.counters num (countTo ((lookT d.counters num).getD 0) n) })

/-- Add to a partition's counter. -/
def State.countPart (s : State) (part num n : Nat) : State :=
  s.modPart part (fun p => { p with sums := putT p.sums num (countTo ((lookT p.sums num).getD 0) n) })

/-- Hardware sets a bit of a W1C register of a domain in this cycle: TAGS (0 to 63), LOSS (64) or SCOPECLIP (65) (R39). -/
def State.hardSet (s : State) (core asid k : Nat) : State := s.modDom core asid (fun d => { d with set := putT d.set k s.time })

/-- Count a loss of race metadata, which also sets LOSS (R308). -/
def State.countLoss (s : State) (core asid num n : Nat) : State :=
  if n = 0 then s else ((s.count core asid num n).modDom core asid (fun d => { d with loss := true })).hardSet core asid 64

/-! ### Flat addresses of the levels (R34, R35) -/

/-- The local store of a core. -/
def lsBase (core : Nat) : Nat := core * 2 ^ 18
/-- The tile store of a core. -/
def tsBase (core : Nat) : Nat := 2 ^ 31 + core * 2 ^ 18
/-- The cluster store of a cluster. -/
def csBase (cluster : Nat) : Nat := 2 ^ 32 + cluster * 2 ^ 23
/-- HBM, by translated address. -/
def hbmBase : Nat := 2 ^ 52
/-- Host memory, by translated address. -/
def hostBase : Nat := 2 ^ 53

/-- The core at which an object of a core or a cluster lies: its pool's, or its own for pools and sync objects
(R220, R221). -/
def State.homeCore (s : State) (e : Obj) : Nat := if e.entKind = 1 then (s.objAt e.poolId).ownCore else e.ownCore

/-- The flat address of a location of an object of LS, TS or cluster store. -/
def State.localAddr (s : State) (e : Obj) (loc : Nat) : Nat :=
  let h := s.homeCore e
  if e.level = 0 then lsBase h + e.base + loc
  else if e.level = 1 then tsBase h + e.base + loc
  else csBase (clusterOf h) + e.base + loc

/-- The line of a flat address. -/
def lineOf (a : Nat) : Nat := a / 64

/-! ### Tags of granules (R36) -/

/-- The tag of the granule that holds an address. -/
def State.tagAt (s : State) (a : Nat) : Bool := s.tags.contains (a / 16)

/-- Set or clear the tag of the granule that holds an address. -/
def State.setTag (s : State) (a : Nat) (t : Bool) : State :=
  { s with tags := if t then putN s.tags (a / 16) else dropN s.tags (a / 16) }

/-- Clear the tags of the granules that n bytes from an address touch. -/
def State.clearTags (s : State) (a n : Nat) : State :=
  if n = 0 then s
  else { s with tags := s.tags.filter (fun g => decide (g < a / 16) || decide ((a + n - 1) / 16 < g)) }

/-- Write bytes to a level itself; the tags of the granules touched are cleared (R36). -/
def State.writeLevel (s : State) (a : Nat) (bs : List Byte) : State :=
  ({ s with mem := Memory.write s.mem a bs }).clearTags a bs.length

/-- Write those bytes that are enabled; the granules of bytes written lose their tags (R36, R179). -/
def State.writeLevelSome (s : State) : Nat → List (Option Byte) → State
  | _, [] => s
  | a, none :: bs => s.writeLevelSome (a + 1) bs
  | a, some b :: bs => (s.writeLevel a [b]).writeLevelSome (a + 1) bs

/-- Write a granule with its tag (R36). -/
def State.writeGranule (s : State) (a : Nat) (c : CReg) : State :=
  ({ s with mem := Memory.write s.mem a (leBytes 16 c.val.toNat) }).setTag a c.tag

/-- Blank n bytes and clear their tags. -/
def State.clearRange (s : State) (a n : Nat) : State :=
  ({ s with mem := Memory.clear s.mem a n }).clearTags a n

/-- Copy n bytes with their granules' tags: a carrying transfer (R36). -/
def State.carryRange (s : State) (a d n : Nat) : State :=
  let ts := (s.tags.filter (fun g => decide (a / 16 ≤ g) && decide (g * 16 < a + n))).map (fun g => g - a / 16 + d / 16)
  let s1 := ({ s with mem := Memory.copy s.mem a d n }).clearTags d n
  { s1 with tags := ts.foldl putN s1.tags }

/-! ### Mordant fields (R301, R302) -/

/-- The effective epoch of an object (R302). -/
def State.epochOf (s : State) (o : Nat) : Nat :=
  let e := s.objAt o
  (e.rebase + (s.domAt e.ownCore e.ownCtx).epoch) % 4

/-- The field of a line of LS, TS or cluster store (R301: SCOPE 3 at reset). -/
def State.fieldAt (s : State) (line : Nat) : Mordant := (lookT s.mordant line).getD (Mordant.inherited 0)

/-- Set the field of a line. -/
def State.setField (s : State) (line : Nat) (m : Mordant) : State := { s with mordant := putT s.mordant line m }

/-- Set the fields of the lines that n bytes from an address touch to "inherited by transfer" (R301). -/
def State.inheritLines (s : State) (a n rb : Nat) : State :=
  let keep := s.mordant.filter (fun p => decide (p.1 < lineOf a) || decide (lineOf (a + n - 1) < p.1))
  if n = 0 then s
  else if rb = 0 then { s with mordant := keep }
  else
    let ks := List.range (lineOf (a + n - 1) + 1 - lineOf a)
    { s with mordant := ks.foldl (fun t k => putT t (lineOf a + k) (Mordant.inherited rb)) keep }

/-! ### The L1 (R236) -/

/-- A line of a core's L1, by the flat address it holds. -/
def Core.l1Line (k : Core) (a : Nat) : Option L1Line := k.l1.find? (fun l => l.addr == a / 64 * 64)

/-- A line that an access through object o hits. -/
def Core.l1Hit (k : Core) (o a : Nat) : Option L1Line := (k.l1Line a).filter (fun l => l.obj == o)

/-- The bytes of a line's dirty granules go to the level: the dirty bytes, and the tags of those granules (R236). -/
def State.writeBackLine (s : State) (l : L1Line) : State :=
  (List.range 4).foldl (fun s g =>
    let ds := (l.dirty.drop (16 * g)).take 16
    if ds.any (fun d => d) then
      let bs := (List.range 16).map (fun i => if ds.getD i false then l.bytes[16 * g + i]? else none)
      ({ s with mem := Memory.writeSome s.mem (l.addr + 16 * g) bs }).setTag (l.addr + 16 * g) (l.tags.getD g false)
    else s) s

/-- The line with its dirty mask clear. -/
def L1Line.clean (l : L1Line) : L1Line := { l with dirty := [] }

/-- Replace an L1 line. -/
def Core.setLine (k : Core) (l : L1Line) : Core :=
  { k with l1 := k.l1.map (fun x => if x.addr == l.addr then l else x) }

/-- Take the L1 line at an address out. -/
def Core.dropLine (k : Core) (a : Nat) : Core := { k with l1 := k.l1.filter (fun x => x.addr != a) }

/-- Lines leave an L1 or lose their fields: each attributed HBM field counts one loss for its object's owner (R305, R308). -/
def State.countLost (s : State) (ls : List L1Line) : State :=
  ls.foldl (fun s l =>
    let e := s.objAt l.obj
    if e.level = 3 ∧ (l.field.scope = 1 ∨ l.field.scope = 2) then s.countLoss e.ownCore e.ownCtx 0x081 1 else s) s

/-- A line leaves a core's L1: written back, and its attribution lost (R305). -/
def State.loseLine (s : State) (c : Nat) (l : L1Line) : State :=
  ((s.writeBackLine l).modCore c (fun k => k.dropLine l.addr)).countLost [l]

/-- A line of the level as it arrives in an L1: an HBM line with SCOPE 0 (R301). -/
def State.lineOfLevel (s : State) (o a loc : Nat) : L1Line :=
  { obj := o, line := loc / 64, addr := a / 64 * 64, bytes := Memory.read s.mem (a / 64 * 64) 64, dirty := [],
    tags := (List.range 4).map (fun g => s.tagAt (a / 64 * 64 + 16 * g)), field := ⟨0, 0, s.epochOf o, 0⟩ }

/-- Fill the L1 line that holds an address through object o, for a domain: a line of another object is written back and
refilled; a full L1 gives up a free line (log 3), charged to the domain whose fill caused it (R387). -/
def State.fillLine (s : State) (c asid o a loc : Nat) : State :=
  match (s.coreAt c).l1Line a with
  | some l =>
    if l.obj = o then s
    else
      let s := (s.loseLine c l).count c asid 0x100 1
      s.modCore c (fun k => { k with l1 := k.l1 ++ [s.lineOfLevel o a loc] })
  | none =>
    let ls := (s.coreAt c).l1
    let s := if ls.length < 1024 then s
      else match ls[Config.victim s.fresh % ls.length]? with
        | some l => ((s.loseLine c l).count c asid 0x100 1).drawn
        | none => s
    s.modCore c (fun k => { k with l1 := k.l1 ++ [s.lineOfLevel o a loc] })

/-- Write bytes into an L1 line that is held; the granules touched get the tag (R36). -/
def L1Line.put (l : L1Line) (a : Nat) (bs : List (Option Byte)) (tag : Bool) : L1Line :=
  let at_ (i : Nat) : Option Byte := if a ≤ l.addr + i then (bs[l.addr + i - a]?).join else none
  { l with
    bytes := (List.range 64).map (fun i => (at_ i).getD (l.bytes.getD i 0))
    dirty := (List.range 64).map (fun i => (at_ i).isSome || l.dirty.getD i false)
    tags := (List.range 4).map (fun g =>
      if (List.range 16).any (fun i => (at_ (16 * g + i)).isSome) then tag else l.tags.getD g false) }

/-- Whether lines of a level are held in L1 (R236). -/
def cached (level : Nat) : Bool := level = 2 || level = 3

/-- The byte at a flat address as a core sees it through object o: its L1 line when it hits, else the level. -/
def State.byteAt (s : State) (c o level a : Nat) : Byte :=
  if cached level then
    match (s.coreAt c).l1Hit o a with
    | some l => l.bytes.getD (a % 64) 0
    | none => Memory.get s.mem a
  else Memory.get s.mem a

/-- The tag of a granule as a core sees it. -/
def State.tagSeen (s : State) (c o level a : Nat) : Bool :=
  if cached level then
    match (s.coreAt c).l1Hit o a with
    | some l => l.tags.getD (a % 64 / 16) false
    | none => s.tagAt a
  else s.tagAt a

/-- Write back the dirty bytes of every line of an object in a core's L1, and keep the lines (R236). -/
def State.writeBackObj (s : State) (c o : Nat) : State :=
  let ls := (s.coreAt c).l1.filter (fun l => l.obj == o)
  (ls.foldl State.writeBackLine s).modCore c (fun k =>
    { k with l1 := k.l1.map (fun l => if l.obj == o then l.clean else l) })

/-- Discard lines of an object from a core's L1 without write-back: all of them, or the clean ones (R139, R237, R305). -/
def State.discardLines (s : State) (c o : Nat) (cleanOnly : Bool) : State :=
  let goes (l : L1Line) : Bool := l.obj == o && !(cleanOnly && l.dirty.any (fun b => b))
  (s.modCore c (fun k => { k with l1 := k.l1.filter (fun l => !goes l) })).countLost ((s.coreAt c).l1.filter goes)

/-- Discard the lines of an object from a core's L1 without write-back (R139, R237). -/
def State.dropLines (s : State) (c o : Nat) : State := s.discardLines c o false

/-- An L1 line after an engine or the host has written n bytes at a to the level: those bytes and their granules' tags
are the level's, and the field drops to SCOPE 0 (R305). DEDUCED (log 10): the line the L1 holds
is the single copy of R250. -/
def State.refreshed (s : State) (l : L1Line) (a n : Nat) : L1Line :=
  let inside (i : Nat) : Bool := decide (a ≤ l.addr + i) && decide (l.addr + i < a + n)
  { l with
    bytes := (List.range 64).map (fun i => if inside i then Memory.get s.mem (l.addr + i) else l.bytes.getD i 0)
    dirty := (List.range 64).map (fun i => !inside i && l.dirty.getD i false)
    tags := (List.range 4).map (fun g =>
      if (List.range 16).any (fun i => inside (16 * g + i)) then s.tagAt (l.addr + 16 * g) else l.tags.getD g false)
    field := { l.field with scope := 0 } }

/-- Whether n bytes at a touch a line. -/
def L1Line.meets (l : L1Line) (a n : Nat) : Bool := decide (l.addr < a + n) && decide (a < l.addr + 64)

/-- Bring the lines of a core's L1 up to a write of n bytes at a to the level; attributed HBM fields that drop are
counted for the object's owner (R305, R308). -/
def State.syncLines (s : State) (c a n : Nat) : State :=
  (s.modCore c (fun k => { k with l1 := k.l1.map (fun l => if l.meets a n then s.refreshed l a n else l) })).countLost
    ((s.coreAt c).l1.filter (fun l => l.meets a n))

/-- The lines of a core's L1 that n bytes at a touch lose their attribution, which counts for the object's owner (R305, R308). -/
def State.unattribute (s : State) (c a n : Nat) : State :=
  let bare (l : L1Line) : L1Line := { l with field := { l.field with scope := 0 } }
  (s.modCore c (fun k => { k with l1 := k.l1.map (fun l => if l.meets a n then bare l else l) })).countLost
    ((s.coreAt c).l1.filter (fun l => l.meets a n))

/-- An L1 line whose bytes, but for those that its core has written and not written back, are the level's; so are the tags of
granules with no such byte. -/
def State.reread (s : State) (l : L1Line) : L1Line :=
  { l with
    bytes := (List.range 64).map (fun i => if l.dirty.getD i false then l.bytes.getD i 0 else Memory.get s.mem (l.addr + i))
    tags := (List.range 4).map (fun g =>
      if (List.range 16).any (fun i => l.dirty.getD (16 * g + i) false) then l.tags.getD g false else s.tagAt (l.addr + 16 * g)) }

/-- What an acquire does to a core's L1: from then on it reads no value older than what was released (R247). DEDUCED (log 11): the
spec gives the outcome, not the means. -/
def State.rereadLines (s : State) (c : Nat) : State := s.modCore c (fun k => { k with l1 := k.l1.map s.reread })

end Sys2Proof.Machine
end

