-- ==== Sys2Proof/Machine/Translate.lean ====
section
/-! DEFINITION. Translation of HBM and host objects (R35, R238 to R241). -/

namespace Sys2Proof.Machine

/-- A page: its virtual address, size, TGT and target address (R239). -/
structure Page where
  va : Nat
  size : Nat
  tgt : Nat
  pa : Nat
deriving DecidableEq, Repr

/-- The index of a level of the walk (R238). -/
def walkIndex (level va : Nat) : Nat :=
  if level = 0 then bitsAt va 39 9 else if level = 1 then bitsAt va 30 9
  else if level = 2 then bitsAt va 21 9 else bitsAt va 16 5

/-- Whether the target of an entry suits an object's level (R239). -/
def tgtSuits (tgt level : Nat) : Bool := if tgt = 0 then level = 3 else (tgt = 1 || tgt = 2) && level = 4

/-- The flat address of the entry of a table that a level of the walk reads. -/
def entryPlace (table level va : Nat) : Nat := hbmBase + table + 8 * walkIndex level va

/-- One level of the walk, and those below it: the page, or the ARG of XLATE (R239, R322). `entry` reads the entry at a flat
address, and `olevel` is the object's level, which the TGT of every entry is to match. -/
def walkFrom (entry : Nat → Nat) (olevel va : Nat) : Nat → Nat → Nat → Except Nat Page
  | 0, _, level => .error level
  | fuel + 1, table, level =>
    let e := entry (entryPlace table level va)
    let leaf := bit e 62
    let tgt := bitsAt e 60 2
    let addr := bitsAt e 8 44 * 256
    if !bit e 63 then .error level
    else if bitsAt e 52 8 ≠ 0 ∨ bitsAt e 0 8 ≠ 0 then .error level
    else if (leaf && level < 2) || (!leaf && level = 3) then .error level
    else if tgt = 3 ∨ !tgtSuits tgt olevel then .error (4 + level)
    else if leaf then
      let size := if level = 2 then 2 ^ 21 else 2 ^ 16
      if addr % size ≠ 0 then .error level else .ok ⟨va / size * size, size, tgt, addr⟩
    else if level < 2 ∧ addr % 4096 ≠ 0 then .error level
    else walkFrom entry olevel va fuel addr (level + 1)

/-- The non-leaf entries that a walk passes, as (flat address, entry). -/
def walkTrail (entry : Nat → Nat) (va : Nat) : Nat → Nat → Nat → List (Nat × Nat)
  | 0, _, _ => []
  | fuel + 1, table, level =>
    let a := entryPlace table level va
    let e := entry a
    if bit e 63 && !bit e 62 && decide (level < 3) then (a, e) :: walkTrail entry va fuel (bitsAt e 8 44 * 256) (level + 1) else []

/-- A page table entry in memory. -/
def State.entryAt (s : State) (a : Nat) : Nat := leNat (Memory.read s.mem a 8)

/-- A page table entry as a die's walker reads it: from its cache of non-leaf entries, else from memory (R238). -/
def State.entryBy (s : State) (die asid a : Nat) : Nat :=
  match (s.dieAt die).entries.find? (fun e => e.1 == asid && e.2.1 == a) with
  | some e => e.2.2
  | none => s.entryAt a

/-- The walk of a context's tables for a virtual address (R238). -/
def State.walkPage (s : State) (asid olevel va : Nat) : Except Nat Page :=
  match lookT s.ctxs asid with
  | some x => walkFrom s.entryAt olevel va 4 x.root 0
  | none => .error 0

/-- The walk of a context's tables by a die's walker (R238). -/
def State.walkBy (s : State) (die asid olevel va : Nat) : Except Nat Page :=
  match lookT s.ctxs asid with
  | some x => walkFrom (s.entryBy die asid) olevel va 4 x.root 0
  | none => .error 0

/-- Put a non-leaf entry into a die's cache of 256; a full one gives up a free entry (log 3). -/
def State.keepEntry (s : State) (die asid : Nat) (x : Nat × Nat) : State :=
  let t := (s.dieAt die).entries
  if t.any (fun e => e.1 == asid && e.2.1 == x.1) then s
  else
    let t' := if t.length < 256 then t else t.eraseIdx (Config.victim s.fresh % 256)
    let s' := s.modDie die (fun k => { k with entries := t' ++ [(asid, x)] })
    if t.length < 256 then s' else s'.drawn

/-- The walker of a die keeps the non-leaf entries that a walk passes (R238). -/
def State.keepTrail (s : State) (die asid va : Nat) : State :=
  match lookT s.ctxs asid with
  | some x => (walkTrail (s.entryBy die asid) va 4 x.root 0).foldl (fun s e => s.keepEntry die asid e) s
  | none => s

/-- The flat address of a virtual address in a page. -/
def Page.flat (p : Page) (va : Nat) : Nat := (if p.tgt = 0 then hbmBase else hostBase) + p.pa + (va - p.va)

/-- A TLB entry that covers a virtual address (R238). -/
def tlbFind (t : List Tlb) (asid va : Nat) : Option Tlb :=
  t.find? (fun e => e.asid == asid && decide (e.va ≤ va) && decide (va < e.va + e.size))

/-- The page of a TLB entry. -/
def Tlb.page (e : Tlb) : Page := ⟨e.va, e.size, e.tgt, e.pa⟩

/-- Put an entry into a TLB of n entries; a full one gives up a free entry (log 3). -/
def tlbPut (t : List Tlb) (e : Tlb) (n pick : Nat) : List Tlb :=
  if t.length < n then t ++ [e] else t.eraseIdx (Config.victim pick % n) ++ [e]

/-- Fill the core TLB, counting an eviction for the domain (R387). -/
def State.fillCoreTlb (s : State) (c asid : Nat) (p : Page) : State :=
  let t := (s.coreAt c).tlb
  let s' := s.modCore c (fun k => { k with tlb := tlbPut t ⟨asid, p.va, p.size, p.tgt, p.pa⟩ 32 s.fresh })
  if t.length < 32 then s' else (s'.count c asid 0x102 1).drawn

/-- Fill the cluster TLB, counting an eviction for the domain (R387). -/
def State.fillClusterTlb (s : State) (c asid : Nat) (p : Page) : State :=
  let t := (s.clusterAt (clusterOf c)).tlb
  let s' := s.modCluster (clusterOf c) (fun k =>
    { k with tlb := tlbPut t ⟨asid, p.va, p.size, p.tgt, p.pa⟩ 2048 s.fresh })
  if t.length < 2048 then s' else (s'.count c asid 0x102 1).drawn

/-- The translation that a core's TLB holds (R238). -/
def State.coreTlb (s : State) (c asid va : Nat) : Option Tlb := tlbFind (s.coreAt c).tlb asid va

/-- The translation that the TLB of a core's cluster holds (R238). -/
def State.clusterTlb (s : State) (c asid va : Nat) : Option Tlb := tlbFind (s.clusterAt (clusterOf c)).tlb asid va

/-- A translation that the cluster's TLB holds comes into a core's TLB (R238). -/
def State.tlbComes (s : State) (c asid va : Nat) : State :=
  match s.clusterTlb c asid va with
  | some e => s.fillCoreTlb c asid e.page
  | none => s

/-- The page number that a walk is named by: the 64 KiB page of the address (R240). -/
def pageOf (va : Nat) : Nat := va / 2 ^ 16

/-- Remove every cached translation of the contexts rooted in a PTAB object from every TLB and walker cache (R241). -/
def State.purgeTlbs (s : State) (ptab : Nat) : State :=
  let rooted (a : Nat) : Bool := match lookT s.ctxs a with
    | some x => x.ptab == ptab
    | none => false
  let keep (t : List Tlb) : List Tlb := t.filter (fun e => !rooted e.asid)
  { s with
    cores := s.cores.map (fun p => (p.1, { p.2 with tlb := keep p.2.tlb }))
    clusters := s.clusters.map (fun p => (p.1, { p.2.stir with tlb := keep p.2.tlb }))
    dies := s.dies.map (fun p => (p.1, { p.2 with entries := p.2.entries.filter (fun e => !rooted e.1) })) }

/-- The flat address of a location of an object, by its entry, for a context, walking at once: the path of engines and of the hardware's own
accesses, whose waits cost time only (R240, R192). -/
def State.flatOf (s : State) (asid : Nat) (e : Obj) (loc : Nat) : Except Nat Nat :=
  if e.level < 3 then .ok (s.localAddr e loc)
  else if e.level = 3 ∨ e.level = 4 then
    match s.walkPage asid e.level (e.base + loc) with
    | .ok p => .ok (p.flat (e.base + loc))
    | .error x => .error x
  else .error 0

/-- The flat address of a location of an object for a context, walking at once. -/
def State.flatNow (s : State) (asid o loc : Nat) : Except Nat Nat := s.flatOf asid (s.objAt o) loc

end Sys2Proof.Machine
end

