-- ==== Sys2Proof/Machine/Race.lean ====
section
/-! DEFINITION. Race detection (R295 to R316): clocks, the release table, the check, records and the report object. -/

namespace Sys2Proof.Machine

/-! ### Clocks (R296 to R298) -/

/-- Entry i of a clock. -/
def clkAt (c : List Nat) (i : Nat) : Nat := c.getD i 0

/-- The largest clock value (R307). -/
def clkMax : Nat := 2 ^ 32 - 1

/-- A clock as it is carried from a domain (R297). -/
def State.carry (s : State) (core asid : Nat) (clk : List Nat) : Carried := ⟨(s.domAt core asid).epoch, clk⟩

/-- A clock after it has acquired a carried one: nothing from another epoch (R296, R297). -/
def State.merge (s : State) (core asid : Nat) (clk : List Nat) (x : Carried) : List Nat :=
  if x.epoch = (s.domAt core asid).epoch then maxL clk x.clk else clk

/-- Two carried clocks joined: the later epoch's, or their maximum (R299). -/
def joinCarried (epoch : Nat) (a b : Carried) : Carried :=
  if a.epoch ≠ epoch then b else if b.epoch ≠ epoch then a else ⟨epoch, maxL a.clk b.clk⟩

/-- Change a strand's clock; the trailing member's follows the leading member's, edge for edge (R299). -/
def State.modClock (s : State) (c i : Nat) (f : Nat → Slot → List Nat) : State :=
  let t := s.slotAt c i
  let s' := s.modSlot c i (fun t => { t with clock := f i t })
  if t.pair = 2 then s
  else if t.pair = 1 then s'.modSlot c t.partner (fun u => { u with clock := f t.partner u }) else s'

/-- `acquire` of a carried clock by a slot (R132, R247, R297); a trailing member's own turn acquires nothing (R299). -/
def State.acquireAt (s : State) (c i : Nat) (x : Carried) : State :=
  if (s.slotAt c i).pair = 2 then s else (s.modClock c i (fun _ t => s.merge c t.asid t.clock x)).rereadLines c

/-- `acquire` by the strand whose turn it is. -/
def State.acquire (s : State) (x : Carried) : State := s.acquireAt s.core s.slot x

/-- The clock of an engine identity of a domain (16 to 19, R295). -/
def Domain.engineClk (d : Domain) (i : Nat) : List Nat := (lookT d.engines i).getD []

/-- The numbers of the lines that n bytes from an address touch. -/
def lineSpan (a n : Nat) : List Nat := if n = 0 then [] else (List.range (lineOf (a + n - 1) + 1 - lineOf a)).map (fun k => lineOf a + k)

/-- The lines of an object that carry the effective epoch to come are retired: they take the present one (R302, R306, R307). -/
def State.retireLines (s : State) (o epoch : Nat) : State :=
  let e := s.objAt o
  let gone : Mordant := ⟨0, 0, s.epochOf o, 0⟩
  if e.level < 3 then
    (lineSpan (s.localAddr e 0) e.length).foldl (fun s l => if (s.fieldAt l).rb = epoch then s.setField l gone else s) s
  else
    let mark (l : L1Line) : L1Line := if l.obj == o && l.field.rb == epoch then { l with field := gone } else l
    { s with cores := s.cores.map (fun p => (p.1, { p.2 with l1 := p.2.l1.map mark })) }

/-- The objects that a domain owns. -/
def State.objectsOf (s : State) (core asid : Nat) : List Nat :=
  (s.objs.filter (fun p => p.2.entKind == 1 && !p.2.retired && p.2.ownCore == core && p.2.ownCtx == asid)).map (fun p => p.1)

/-- Set all clocks of a domain to zero and advance EPOCH (R307 steps 2 and 3), with the lines that carry an effective epoch to come
retired first (R302); strands that wait for it issue again. -/
def State.rebase (s : State) (core asid : Nat) : State :=
  let s := (s.objectsOf core asid).foldl (fun s o => s.retireLines o ((s.epochOf o + 1) % 4)) s
  let wake (x : SlotState) : SlotState := if x == .wait .rebase then .ready else x
  let zero (t : Slot) : Slot := if t.asid == asid then { t with clock := [], state := wake t.state } else t
  let s := s.modCore core (fun k =>
    { k with
      slots := k.slots.map (fun p => (p.1, zero p.2))
      tcc := k.tcc.map (fun v => { v with images := v.images.map zero })
      rtable := k.rtable.filter (fun r => r.asid != asid) })
  let s := s.modDom core asid (fun d =>
    { d with epoch := (d.epoch + 1) % 4, floor := [], engines := [], starts := [], swept := 0 })
  s.countLoss core asid 0x084 1

/-- Whether a tick of a slot would carry its entry past the largest value, or that of the trailing member, which ticks with it
(R299, R307). -/
def State.mustRebase (s : State) (c i : Nat) : Bool :=
  let t := s.slotAt c i
  clkMax ≤ clkAt t.clock i || (t.pair == 1 && clkMax ≤ clkAt (s.slotAt c t.partner).clock t.partner)

/-- Whether a tick of an engine identity waits for a sweep pass before its domain can rebase (R307 step 1). -/
def State.engineWaits (s : State) (core asid i : Nat) : Bool :=
  clkMax ≤ clkAt ((s.domAt core asid).engineClk i) i && (s.domAt core asid).swept != 2

/-- `tick` of a slot whose entry is below the largest value (R297). -/
def State.tickAt (s : State) (c i : Nat) : State :=
  s.modClock c i (fun j t => setL t.clock j (clkAt t.clock j + 1))

/-- `tick` of an engine identity, which rebases first when its entry is at the largest value (R297, R307). -/
def State.tickEngine (s : State) (core asid i : Nat) : State :=
  let s := if clkMax ≤ clkAt ((s.domAt core asid).engineClk i) i then s.rebase core asid else s
  s.modDom core asid (fun d =>
    { d with engines := putT d.engines i (setL (d.engineClk i) i (clkAt (d.engineClk i) i + 1)) })

/-- An engine acquires a carried clock (R299). -/
def State.engineAcquire (s : State) (core asid i : Nat) (x : Carried) : State :=
  s.modDom core asid (fun d => { d with engines := putT d.engines i (s.merge core asid (d.engineClk i) x) })

/-- The clock an engine identity carries. -/
def State.engineCarry (s : State) (core asid i : Nat) : Carried :=
  s.carry core asid ((s.domAt core asid).engineClk i)

/-- The clock a strand starts with in a slot, from the clock of its edge (R298); a start below L[k] is counted. -/
def State.startClock (s : State) (core asid i : Nat) (x : Option Carried) : List Nat × Bool :=
  let inherited := match x with
    | some x => s.merge core asid [] x
    | none => []
  let l := (lookT (s.domAt core asid).starts i).getD 0
  (setL inherited i (max (clkAt inherited i) l), decide (clkAt inherited i < l))

/-- A strand of a domain leaves a slot: L[k] becomes its own entry + 1 (R298). -/
def State.noteEnd (s : State) (core i : Nat) : State :=
  let t := s.slotAt core i
  s.modDom core t.asid (fun d => { d with starts := putT d.starts i (clkAt t.clock i + 1) })

/-! ### The release table (R300) -/

/-- Whether an entry has a key. -/
def Release.has (r : Release) (asid : Nat) (word : Bool) (key : Nat) : Bool :=
  r.asid == asid && r.word == word && r.key == key

/-- Fold an evicted entry into its domain's FLOOR and count the loss (R300); the release's domain is charged (R387). -/
def State.foldRelease (s : State) (core by_ : Nat) (r : Release) : State :=
  let s := s.modDom core r.asid (fun d => { d with floor := s.merge core r.asid d.floor r.clk })
  (s.countLoss core r.asid 0x082 1).count core by_ 0x103 1

/-- A release places its clock in the table: the newest entries stand last (R300). -/
def State.tableRelease (s : State) (core asid : Nat) (word : Bool) (key : Nat) (x : Carried) : State :=
  let t := (s.coreAt core).rtable
  let rest := t.filter (fun r => !r.has asid word key)
  let new : Release := ⟨asid, word, key, x⟩
  if rest.length < 64 then s.modCore core (fun k => { k with rtable := rest ++ [new] })
  else match rest with
    | old :: rest => (s.foldRelease core asid old).modCore core (fun k => { k with rtable := rest ++ [new] })
    | [] => s

/-- What an acquire of a key merges: the entry's clock on a hit, FLOOR on a miss (R300). -/
def State.tableLook (s : State) (core asid : Nat) (word : Bool) (key : Nat) : Carried :=
  match (s.coreAt core).rtable.find? (fun r => r.has asid word key) with
  | some r => r.clk
  | none => s.carry core asid (s.domAt core asid).floor

/-- The entry is used: it becomes the most recent (R300). -/
def State.tableTouch (s : State) (core asid : Nat) (word : Bool) (key : Nat) : State :=
  let move (t : List Release) : List Release :=
    t.filter (fun r => !r.has asid word key) ++ t.filter (fun r => r.has asid word key)
  s.modCore core (fun k => { k with rtable := move k.rtable })

/-- A strand acquires a word or an object through the release table; a trailing member follows its leading one (R299). -/
def State.tableAcquire (s : State) (c i : Nat) (word : Bool) (key : Nat) : State :=
  let a := (s.slotAt c i).asid
  if (s.slotAt c i).pair = 2 then s else (s.acquireAt c i (s.tableLook c a word key)).tableTouch c a word key

/-! ### The check (R303) -/

/-- Who makes an access: core, context, identity, clock; whether it is an engine, its port and SEQ; the slot, pc and code
capability to report (R313). -/
structure Party where
  core : Nat
  asid : Nat
  ident : Nat
  clk : List Nat
  engine : Bool
  port : Nat
  seq : Nat
  slot : Nat
  pc : Nat
  code : CReg
deriving DecidableEq, Repr

/-- The strand of a slot as a party. -/
def State.party (s : State) (c i : Nat) : Party :=
  let t := s.slotAt c i
  ⟨c, t.asid, i, t.clock, false, 0, 0, i, bitsAt t.code.val.toNat 0 48, t.code⟩

/-- The field of the line at a flat address of an object: HBM lines carry one only in the L1 of the owner's core
(R301). -/
def State.mordantAt (s : State) (o a : Nat) : Option Mordant :=
  let e := s.objAt o
  if e.level < 3 then some (s.fieldAt (lineOf a))
  else if e.level = 3 then ((s.coreAt e.ownCore).l1Hit o a).map (fun l => l.field)
  else none

/-- Whether accesses of a party to an object are checked (R303). -/
def State.checks (s : State) (p : Party) (o : Nat) : Bool :=
  let e := s.objAt o
  e.entKind == 1 && e.ownCore == p.core && e.ownCtx == p.asid && decide (e.level < 4)
    && e.ownDev == s.jobDev (s.domAt p.core p.asid).part

/-- Whether an access is ordered after what a field records (R303). -/
def covered (p : Party) (epoch : Nat) (m : Mordant) : Bool :=
  m.scope == 0 || m.scope == 3 || m.rb != epoch || m.writer == p.ident || decide (m.wclk < clkAt p.clk m.writer)

/-- A race trap record of one line (R313). -/
def State.raceRecord (s : State) (p : Party) (o loc : Nat) (write : Bool) (m : Mordant) : List Word :=
  let kc := p.code.val.toNat
  [.ofNat 64 s.time,
   .ofNat 64 (field 1 32 16 + field m.writer 24 5 + field p.ident 19 5 + field write.toNat 17 2 + field p.engine.toNat 16 1
     + field p.port 14 2 + field m.scope 12 2 + field p.asid 0 12),
   .ofNat 64 (field m.wclk 32 32 + field (clkAt p.clk m.writer) 0 32),
   .ofNat 64 (field o 36 28 + field (s.objAt o).gen 20 16 + field p.core 0 13),
   .ofNat 64 (field p.seq 48 16 + field (loc / 64 * 64) 0 48),
   .ofNat 64 (field p.slot 48 4 + field p.pc 0 48),
   .ofNat 64 (field (bitsAt kc 60 28) 36 28 + field (bitsAt kc 88 16) 20 16),
   0]

/-- The race that an access to one line makes: its record, or none (R303). -/
def State.raceAt (s : State) (p : Party) (o loc a : Nat) (write : Bool) : Option (List Word) :=
  if s.checks p o then
    match s.mordantAt o a with
    | some m => if covered p (s.epochOf o) m then none else some (s.raceRecord p o loc write m)
    | none => none
  else none

/-- The lines that n bytes from a location touch, as (location, flat address) of a byte in each. -/
def linesOf (loc a n : Nat) : List (Nat × Nat) :=
  if n = 0 then []
  else (List.range (lineOf (loc + n - 1) + 1 - lineOf loc)).map (fun k =>
    if k = 0 then (loc, a) else ((lineOf loc + k) * 64, a + ((lineOf loc + k) * 64 - loc)))

/-- The first race of an access of n bytes. -/
def State.raceIn (s : State) (p : Party) (o loc a n : Nat) (write : Bool) : Option (List Word) :=
  (linesOf loc a n).findSome? (fun x => s.raceAt p o x.1 x.2 write)

/-- The number of racing lines of an access of n bytes. -/
def State.racesIn (s : State) (p : Party) (o loc a n : Nat) (write : Bool) : List (List Word) :=
  (linesOf loc a n).filterMap (fun x => s.raceAt p o x.1 x.2 write)

/-- Record a write in the fields of the lines it touches (R303); an engine's write to an HBM line records none
(R305). -/
def State.recordWrite (s : State) (p : Party) (o loc a n wclk : Nat) : State :=
  let m : Mordant := ⟨p.ident, wclk, s.epochOf o, if p.engine then 2 else 1⟩
  if !s.checks p o then s
  else if (s.objAt o).level < 3 then (linesOf loc a n).foldl (fun s x => s.setField (lineOf x.2) m) s
  else if (s.objAt o).level = 3 && !p.engine then
    let mark (l : L1Line) : L1Line := if l.obj == o && l.meets a n then { l with field := m } else l
    s.modCore p.core (fun k => { k with l1 := k.l1.map mark })
  else s

/-! ### Records (R314, R315) -/

/-- A doubleword of an object's bytes at its level. -/
def State.levelWord (s : State) (a : Nat) : Nat := leNat (Memory.read s.mem a 8)

/-- Bytes that the hardware writes for a report: the level and the L1 that holds the lines, which take SCOPE 0 (R314,
R396). -/
def State.reportWrite (s : State) (o : Nat) (a : Nat) (bs : List Byte) : State :=
  let s := (s.writeLevel a bs).syncLines (s.objAt o).ownCore a bs.length
  if (s.objAt o).level < 3 then
    (linesOf a a bs.length).foldl (fun s x => s.setField (lineOf x.2) ⟨0, 0, s.epochOf o, 0⟩) s
  else s

/-- Whether a capability names a report object that stands (R315). -/
def State.reports (s : State) (cap : CReg) : Bool :=
  let e := s.objAt (bitsAt cap.val.toNat 60 28)
  cap.tag && e.gen == bitsAt cap.val.toNat 88 16 && e.entKind == 1

/-- Append a record of n bytes to a report object with the header of R315; false when it was not appended. DESIGN CHOICE (log 66): the
header's RO fields are bytes of the object, which a program's store changes as it does any others. -/
def State.appendReport (s : State) (cap : CReg) (rec : List Word) : State × Bool :=
  let o := bitsAt cap.val.toNat 60 28
  let n := 8 * rec.length
  let e := s.objAt o
  if !s.reports cap then (s, false)
  else match s.flatNow e.ownCtx o 0 with
    | .error _ => (s, false)
    | .ok a =>
      let head := s.levelWord a
      let size := s.levelWord (a + 8)
      let tail := s.levelWord (a + 24)
      if size = 0 ∨ size ≤ (head - tail) ∨ e.length < 64 + n * size then
        (s.reportWrite o (a + 16) (leBytes 8 (s.levelWord (a + 16) + 1)), false)
      else match s.flatNow e.ownCtx o (64 + n * (head % size)) with
        | .error _ => (s, false)
        | .ok d =>
          let s := s.reportWrite o d (rec.flatMap (fun w => leBytes 8 w.toNat))
          (s.reportWrite o a (leBytes 8 (head + 1)), true)

/-- Append a core's open record, counting one that is dropped for the domain that it names; while no report object is installed it is
counted beside (R314, R315; log 66). -/
def State.closeRecord (s : State) (core : Nat) : State :=
  match (s.coreAt core).openRec with
  | none => s
  | some r =>
    let asid := bitsAt ((r.dw.getD 1 0).toNat) 0 12
    let cap := (s.partAt r.part).raceRep
    let s := if s.reports cap then s else s.modPart r.part (fun p => { p with raceDropped := p.raceDropped + 1 })
    let (s, ok) := s.appendReport cap r.dw
    let s := s.modCore core (fun k => { k with openRec := none })
    if ok then s else s.count core asid 0x085 1

/-- LINES and OFFSET of a record (R313). -/
def recLines (dw : List Word) : Nat := bitsAt ((dw.getD 1 0).toNat) 32 16
/-- OFFSET of a record (R313). -/
def recOffset (dw : List Word) : Nat := bitsAt ((dw.getD 4 0).toNat) 0 48

/-- A record without TIME, LINES and OFFSET. -/
def recRest (dw : List Word) : List Nat :=
  let w (k : Nat) : Nat := (dw.getD k 0).toNat
  [w 1 - field (recLines dw) 32 16, w 2, w 3, w 4 - recOffset dw, w 5, w 6, w 7]

/-- A racing line in reporting mode: it extends the open record, or opens a new one (R314). -/
def State.reportRace (s : State) (core : Nat) (dw : List Word) : State :=
  let part := (s.domAt core (bitsAt ((dw.getD 1 0).toNat) 0 12)).part
  let opened (s : State) : State := s.modCore core (fun k => { k with openRec := some ⟨dw, s.time, part⟩ })
  match (s.coreAt core).openRec with
  | none => opened s
  | some r =>
    if recRest r.dw = recRest dw ∧ recOffset dw = recOffset r.dw + 64 * recLines r.dw then
      let dw' := r.dw.set 1 ((r.dw.getD 1 0) + .ofNat 64 (2 ^ 32))
      let s := s.modCore core (fun k => { k with openRec := some ⟨dw', s.time, r.part⟩ })
      if recLines dw' = 65535 then s.closeRecord core else s
    else opened (s.closeRecord core)

/-- What a race does by the domain's MODE (R312): the state after counting and reporting, and the record of a freeze in
precise mode. Every racing line is counted (R308). -/
def State.judge (s : State) (p : Party) (races : List (List Word)) : State × Option (List Word) :=
  match races with
  | [] => (s, none)
  | r :: _ =>
    let mode := (s.domAt p.core p.asid).mode
    let s := s.count p.core p.asid 0x080 races.length
    if mode = 1 then (s, some r)
    else if mode = 2 then (races.foldl (fun s dw => s.reportRace p.core dw) s, none)
    else (s, none)

end Sys2Proof.Machine
end

