-- ==== Sys2Proof/Machine/Ops.lean ====
section
/-! DEFINITION. The named operations over memory and strands: draining and releasing, trace and policy, fault packets,
taking an exception and returning from one, killing and starting strands, and the wrapper that issues an
instruction. -/

namespace Sys2Proof.Machine

/-! ### The host write buffer (R255) -/

/-- The oldest line of the host write buffer leaves as a posted write. -/
def State.hostDrain (s : State) : State :=
  match s.hostBuf with
  | [] => s
  | l :: ls =>
    { s with
      hostBuf := ls
      mem := Memory.writeSome s.mem (hostBase + l.addr) l.bytes
      out := s.out ++ [.hostWrite l.addr l.bytes] }

/-- Bytes at a bus address laid into 64 bytes from a line's address. -/
def layLine (line addr : Nat) (bs : List (Option Byte)) (old : List (Option Byte)) : List (Option Byte) :=
  (List.range 64).map (fun i =>
    if addr ≤ line + i then ((bs[line + i - addr]?).join).or (old.getD i none) else old.getD i none)

/-- A store enters the host write buffer: it merges into the newest line, or opens a line if there is room (R255). -/
def State.hostEnter (s : State) (addr obj : Nat) (bs : List (Option Byte)) (who : Nat × Nat) : Option State :=
  let line := addr / 64 * 64
  match s.hostBuf.getLast? with
  | some l =>
    if l.addr = line ∧ addr + bs.length ≤ line + 64 then
      let l' := { l with bytes := layLine line addr bs l.bytes,
                         writers := if l.writers.contains who then l.writers else l.writers ++ [who] }
      some { s with hostBuf := s.hostBuf.dropLast ++ [l'] }
    else if 64 ≤ s.hostBuf.length then none
    else some { s with hostBuf := s.hostBuf ++ [⟨line, layLine line addr bs [], [who], obj, s.time, false⟩] }
  | none => some { s with hostBuf := [⟨line, layLine line addr bs [], [who], obj, s.time, false⟩] }

/-- Drain lines of the host write buffer, oldest first, until none holds a byte of the writer (R255). -/
def State.hostFlush (s : State) (who : Nat × Nat) : Nat → State
  | 0 => s
  | n + 1 => if s.hostBuf.any (fun l => l.writers.contains who) then (s.hostDrain).hostFlush who n else s

/-- Every line of the host write buffer drains, oldest first: ahead of an access of an engine to the host (R255). -/
def State.hostClear (s : State) : State := s.hostBuf.foldl (fun s _ => s.hostDrain) s

/-! ### The store buffer (R131, R250) -/

/-- A store that leaves the buffer is performed: at the host write buffer, at the LS, or in the L1 (R131, R236), which a release of ALL is
to write back (R247); its line is recorded (R303); before a write into a PTAB object its translations are removed everywhere (R241). None when the host write buffer has no room. -/
def State.performStore (s : State) (c i : Nat) (e : StoreEntry) : Option State :=
  let o := s.objAt e.obj
  let t := s.slotAt c i
  let n := e.bytes.length
  let s := if o.ptab then s.purgeTlbs e.obj else s
  if o.level = 4 ∨ hostBase ≤ e.addr then
    (s.hostEnter (e.addr - hostBase) e.obj e.bytes (c, t.born)).map (fun s => s.modSlot c i (fun t =>
      { t with windows := t.windows.filter (fun w => w != e.obj) ++ [e.obj] }))
  else if n = 0 then some s
  else
    let s := if cached o.level then
        let s := s.fillLine c t.asid e.obj e.addr e.loc
        match (s.coreAt c).l1Line e.addr with
        | some l => (s.modCore c (fun k => k.setLine (l.put e.addr e.bytes (e.cap.getD false)))).modSlot c i (fun t =>
            { t with wrote := putN t.wrote e.obj })
        | none => s
      else match e.cap with
        | some tag => ({ s with mem := Memory.writeSome s.mem e.addr e.bytes }).setTag e.addr tag
        | none => s.writeLevelSome e.addr e.bytes
    some (if e.checked then s.recordWrite { s.party c i with clk := [] } e.obj e.loc e.addr n e.wclk else s)

/-- Whether a slot's strand runs in a context whose page tables lie in a PTAB object (R241). -/
def State.rootedIn (s : State) (ptab : Nat) (t : Slot) : Bool :=
  match lookT s.ctxs t.asid with
  | some x => x.ptab == ptab
  | none => false

/-- What a translation store waits for before it is performed: accesses that were translated before it, which are loads that await their
replies and stores in buffers, other translation stores apart (R241). -/
def State.translated (s : State) (ptab : Nat) : Bool :=
  s.cores.any (fun k => k.2.slots.any (fun t => s.rootedIn ptab t.2
    && ((match t.2.state with
        | .wait (.reply _ _) => true
        | _ => false)
      || (match t.2.sbuf with
        | [] => false
        | e :: _ => !(s.objAt e.obj).ptab))))

/-- The oldest store of a slot leaves its buffer, if it can (R250); a translation store only after the accesses that were translated before
it (R241). -/
def State.drainOne (s : State) (c i : Nat) : Option State :=
  match (s.slotAt c i).sbuf with
  | [] => none
  | e :: es =>
    if (s.objAt e.obj).ptab && s.translated e.obj then none
    else match (s.modSlot c i (fun t => { t with sbuf := es })).performStore c i e with
    | some s' => some s'
    | none => none

/-- Drain a slot's store buffer, draining host lines where it waits for their room. -/
def State.drainSteps (s : State) (c i : Nat) : Nat → State
  | 0 => s
  | n + 1 =>
    match s.drainOne c i with
    | some s' => s'.drainSteps c i n
    | none => match s.hostDrain.drainOne c i with
      | some s' => s'.drainSteps c i n
      | none => s

/-- Drain a slot's store buffer (R131). -/
def State.drain (s : State) (c i : Nat) : State := s.drainSteps c i (s.slotAt c i).sbuf.length

/-! ### Releases (R246, R247) -/

/-- Scopes of a release (R246), in their order. -/
inductive Scope where
  | strand | domain | cluster | die | device | fabric | tenant | system
deriving DecidableEq, Repr

/-- The smallest scope that holds two domains of this device (R132). -/
def scopeTo (c asid c' asid' : Nat) : Scope :=
  if c = c' ∧ asid = asid' then .domain
  else if clusterOf c = clusterOf c' then .cluster
  else if dieOf c = dieOf c' then .die
  else .device

/-- The release scope of a group, from its table entry (R272). -/
def groupRelease (n : Nat) : Scope := if n = 0 then .cluster else if n = 1 then .die else if n = 2 then .device else .fabric

/-- release_to of one object for a slot (R247): its stores drain, and the object's dirty bytes are written back. -/
def State.releaseObj (s : State) (c i o : Nat) : State := (s.drain c i).writeBackObj c o

/-- Whether a slot has stored to a window that is not a tenant window (R256, R379). -/
def State.wroteForeignHost (s : State) (c i : Nat) : Bool :=
  s.hostBuf.any (fun l => l.writers.contains (c, (s.slotAt c i).born)
    && !((s.partAt (s.domAt c (s.slotAt c i).asid).part).windows.any (fun w => w.2.obj == l.obj && w.2.tenant)))

/-- The stores of every strand of the contexts rooted in a PTAB object, translation stores apart, are performed (R241). -/
def State.drainRooted (s : State) (ptab : Nat) : State :=
  s.cores.foldl (fun s k => k.2.slots.foldl (fun s t =>
    if s.rootedIn ptab t.2 && t.2.sbuf.any (fun e => !(s.objAt e.obj).ptab) then s.drain k.1 t.1 else s) s) s

/-- The zero-length read of the last window of some that a slot's strand has written, at a release of system scope (R255, R256). -/
def State.zeroReads (s : State) (c i : Nat) (ok : Nat → Bool) : State :=
  let ws := (s.slotAt c i).windows
  match ws.reverse.find? ok with
  | some o =>
    { s.modSlot c i (fun t => { t with windows := (ws.dropWhile (fun w => w != o)).drop 1 }) with out := s.out ++ [.zeroRead o] }
  | none => s

/-- release_to(ALL, scope) for a slot (R247, R255, R256). At system scope the host lines it wrote drain, and the last window that it wrote
is read; a partition limited to tenant scope narrows it: SCOPECLIP is set, and only lines up to its last tenant line drain. At a lower
scope its lines are ordered ahead of every later access to the host. -/
def State.releaseAll (s : State) (c i : Nat) (sc : Scope) : State :=
  let s := s.drain c i
  let s := (s.slotAt c i).wrote.foldl (fun s o => s.writeBackObj c o) s
  let s := s.modSlot c i (fun t => { t with wrote := [] })
  let d := s.domAt c (s.slotAt c i).asid
  let p := s.partAt d.part
  if sc = .system then
    if p.tenantOnly then
      let tenant (l : HostLine) : Bool := l.writers.contains (c, (s.slotAt c i).born) && p.windows.any (fun w => w.2.obj == l.obj && w.2.tenant)
      let n := (s.hostBuf.reverse.dropWhile (fun l => !tenant l)).length
      let s := (List.range n).foldl (fun s _ => s.hostDrain) s
      ((s.modDom c (s.slotAt c i).asid (fun d => { d with scopeClip := true })).hardSet c (s.slotAt c i).asid 65).zeroReads c i
        (fun o => p.windows.any (fun w => w.2.obj == o && w.2.tenant))
    else (s.hostFlush (c, (s.slotAt c i).born) s.hostBuf.length).zeroReads c i (fun _ => true)
  else
    { s with hostBuf := s.hostBuf.map (fun l => if l.writers.contains (c, (s.slotAt c i).born) then { l with ordered := true } else l) }

/-! ### Disclosure policy (R389 to R393) -/

/-- The transform word at an offset of the policy that governs a partition: its own, or the operator default record of
the configuration; EXACT for partition 0 (R391, R409). -/
def State.policyWord (s : State) (part off : Nat) : Nat :=
  if part = 0 then 0x01000000
  else match (s.partAt part).policy with
    | some r => leNat ((r.drop off).take 4)
    | none => leNat ((s.conf.drop (0x1A0 + off)).take 4)

/-- The CODE of a transform (R389). -/
def trCode (w : Nat) : Nat := bitsAt w 24 8
/-- The PARAM of a transform (R389). -/
def trParam (w : Nat) : Nat := bitsAt w 0 24

/-- COARSE(k): the low k bits cleared (R393, R398, R399). -/
def coarse (x k : Nat) : Nat := x / 2 ^ k * 2 ^ k

/-! ### Trace records (R396 to R398) -/

/-- A trace record (R397). -/
def traceRec (time ty part core slot asid pc detail : Nat) : TraceRec :=
  [.ofNat 64 time,
   .ofNat 64 (field ty 56 8 + field part 50 6 + field core 37 13 + field slot 33 4 + field asid 21 12),
   .ofNat 64 (field pc 0 48), .ofNat 64 detail]

/-- A record enters the operator ring, which keeps the newest 65,536 (R398). -/
def State.ringPut (s : State) (r : TraceRec) : State :=
  let n := s.ring ++ [r]
  { s with ring := n.drop (n.length - 65536) }

/-- A record under a transform: what enters the ring (R398). -/
def traceTransform (w : Nat) (r : TraceRec) : Option TraceRec :=
  let x (k : Nat) : Nat := (r.getD k 0).toNat
  if trCode w = 1 then some r
  else if trCode w = 2 then
    some [.ofNat 64 (coarse (x 0) (trParam w)), r.getD 1 0, .ofNat 64 (coarse (x 2) (trParam w)),
      .ofNat 64 (coarse (x 3) (trParam w))]
  else if trCode w = 4 then some [r.getD 0 0, .ofNat 64 (bitsAt (x 1) 50 14 * 2 ^ 50), 0, 0]
  else none

/-- A trace record of a class enters the partition's TRACEBUF; one that finds it absent is counted (R396, R397; log 66). -/
def State.traceOwn (s : State) (cls part core : Nat) (r : TraceRec) : State :=
  match lookT (s.clusterAt (clusterOf core)).traces part with
  | some t =>
    if !bit t.en cls then s
    else if s.reports t.buf then (s.appendReport t.buf r).1
    else s.modCluster (clusterOf core) (fun k => { k with traces := putT k.traces part { t with dropped := t.dropped + 1 } })
  | none => s

/-- A trace record of a class enters the operator ring under its transform, or is counted for an interval (R398). -/
def State.traceOp (s : State) (cls part core : Nat) (r : TraceRec) : State :=
  if bit (s.clusterAt (clusterOf core)).optrace cls then
    let w := s.policyWord part (0x70 + 4 * cls)
    if trCode w = 3 then
      s.modPart part (fun p => { p with traceCounts := putT p.traceCounts cls ((lookT p.traceCounts cls).getD 0 + 1) })
    else match traceTransform w r with
      | some r => s.ringPut r
      | none => s
  else s

/-- A trace event of a class: into the partition's TRACEBUF, and into the operator ring (R396 to R398). -/
def State.trace (s : State) (cls part core slot asid pc detail : Nat) : State :=
  let r := traceRec s.time cls part core slot asid pc detail
  (s.traceOwn cls part core r).traceOp cls part core r

/-! ### Fault packets (R319 to R322, R399) -/

/-- What a fault says: code, ARG, ADDR, ELEM and REG of DETAIL, the engine port and SEQ, and a race record. -/
structure FaultInfo where
  code : Nat
  arg : Nat := 0
  addr : Nat := 0
  elem : Nat := 0
  reg : Nat := 0
  engine : Option (Nat × Nat) := none
  record : List Word := []
deriving DecidableEq, Repr

/-- DETAIL (R321). -/
def FaultInfo.detail (f : FaultInfo) : Nat :=
  let (e, p, q) := match f.engine with
    | some (p, q) => (1, p, q)
    | none => (0, 0, 0)
  field f.arg 32 32 + field q 16 16 + field f.elem 8 8 + field f.reg 3 5 + field e 2 1 + field p 0 2

/-- Doubleword 0 of a packet (R320). -/
def packetHead (killed assist info record : Bool) (part core asid kind pair slot code : Nat) : Word :=
  .ofNat 64 (field killed.toNat 50 1 + field assist.toNat 49 1 + field info.toNat 48 1 + field record.toNat 47 1
    + field part 41 6 + field core 28 13 + field asid 16 12 + field kind 14 2 + field pair 12 2 + field slot 8 4
    + field code 0 8)

/-- The registers that carry doublewords (R319). -/
def packRegs : List Word → List CReg
  | a :: b :: ws => ⟨b ++ a, false⟩ :: packRegs ws
  | [a] => [⟨a.setWidth 128, false⟩]
  | [] => []

/-- The fields of the doublewords of a race trap record, as (lowest bit, width) (R313). -/
def recFields : List (List (Nat × Nat)) :=
  [[(0, 64)], [(32, 16), (24, 5), (19, 5), (17, 2), (16, 1), (14, 2), (12, 2), (0, 12)], [(32, 32), (0, 32)],
   [(36, 28), (20, 16), (0, 13)], [(48, 16), (0, 48)], [(48, 4), (0, 48)], [(36, 28), (20, 16)], []]

/-- The race trap record of an operator copy, under the transform of class 3 (R399): nothing when it is withheld; TIME alone, as the start
of its interval, under INTERVAL. -/
def copyRecord (w : Nat) (rec : List Word) : List Word :=
  let unit := trParam w * 10 ^ 6
  let word (x : Nat) (fs : List (Nat × Nat)) : Nat :=
    fs.foldl (fun n f => n + field (coarse (bitsAt x f.1 f.2) (trParam w)) f.1 f.2) 0
  if rec.isEmpty then []
  else if trCode w = 1 then rec
  else if trCode w = 2 then (rec.zip recFields).map (fun p => .ofNat 64 (word p.1.toNat p.2))
  else if trCode w = 3 then .ofNat 64 ((rec.getD 0 0).toNat / unit * unit) :: List.replicate 7 0
  else []

/-- The operator's copy of a packet under the partition's policy (R399). -/
def State.operatorCopy (s : State) (part : Nat) (dw rec : List Word) : List Word :=
  let w (k : Nat) : Nat := (dw.getD k 0).toNat
  let tr (f : Nat) : Nat := s.policyWord part (0x80 + 4 * f)
  let apply (f x : Nat) : Nat :=
    if trCode (tr f) = 1 then x else if trCode (tr f) = 2 then coarse x (trParam (tr f)) else 0
  let time :=
    if trCode (tr 2) = 3 then w 4 / (trParam (tr 2) * 10 ^ 6) * (trParam (tr 2) * 10 ^ 6) else apply 2 (w 4)
  let head := w 0 - field (bitsAt (w 0) 28 13) 28 13 - field (bitsAt (w 0) 8 8) 8 8 - field (bitsAt (w 0) 16 12) 16 12
    + field (apply 0 (bitsAt (w 0) 28 13)) 28 13 + field (apply 0 (bitsAt (w 0) 16 12)) 16 12
    + field (apply 0 (bitsAt (w 0) 14 2)) 14 2 + field (apply 0 (bitsAt (w 0) 12 2)) 12 2
    + field (apply 0 (bitsAt (w 0) 8 4)) 8 4
  let codes := trCode (tr 0) + 2 ^ 8 * trCode (tr 1) + 2 ^ 16 * trCode (tr 2) + 2 ^ 24 * trCode (tr 3)
  [.ofNat 64 head, .ofNat 64 (apply 1 (w 1)), .ofNat 64 (apply 1 (w 2)), .ofNat 64 (apply 2 (w 3)), .ofNat 64 time,
   .ofNat 64 (apply 1 (w 5)), .ofNat 64 (apply 2 (w 6)), .ofNat 64 codes]
    ++ copyRecord (tr 3) rec

/-- The supervisor core of a partition on this device: the lowest in service (R319, R335). -/
def State.supervisor (s : State) (part : Nat) : Option Nat :=
  (s.partAt part).supvCores.find? (fun c => !(s.coreAt c).outOfService && s.hasDom c (s.partAt part).supvCtx)

/-- Whether a message is for a destination. -/
def Msg.goesTo (m : Msg) (dev core ctx : Nat) : Bool := m.dstDev == dev && m.dstCore == core && m.dstCtx == ctx

/-- Whether messages for a destination wait at this device's fabric interface (R279). -/
def State.held_ (s : State) (dev core ctx : Nat) : Bool :=
  s.notices.contains (dev, core, ctx) || s.outbox.any (fun m => m.goesTo dev core ctx)

/-- A message that the hardware makes goes on its way, or waits at the fabric interface for a stopped context (R279). -/
def State.send_ (s : State) (m : Msg) : State :=
  if s.held_ m.dstDev m.dstCore m.dstCtx then { s with outbox := s.outbox ++ [m] } else { s with net := s.net ++ [m] }

/-- A class 63 message to the supervisor domain of a partition, or to the management controller when there is none
(R319). -/
def State.toSupervisor (s : State) (part core : Nat) (dw rec : List Word) : State :=
  match s.supervisor part with
  | none => { s with out := s.out ++ [.faultToManagement (dw ++ rec)] }
  | some d =>
    let n := if rec.isEmpty then 4 else 8
    let dev := s.jobDev part
    let m : Msg :=
      { srcDev := dev, srcCore := core, srcCtx := 0, dstDev := dev, dstCore := d, dstCtx := (s.partAt part).supvCtx,
        hdr := .ofNat 64 (field dev 24 16 + field core 11 13 + field n 6 4 + 63),
        pay := packRegs dw ++ packRegs rec, clk := none, form := 4 }
    s.send_ m

/-- Send a fault packet: to the supervisor `to_` of a partition, and the operator's copy of the partition concerned. -/
def State.sendPacket (s : State) (part to_ core : Nat) (dw rec : List Word) : State :=
  let copy := s.operatorCopy part dw rec
  let s := s.modPart part (fun p => { p with faults := (p.faults ++ [copy]).drop (p.faults.length + 1 - 64) })
  if to_ = 64 then { s with out := s.out ++ [.faultToManagement (dw ++ rec)] } else s.toSupervisor to_ core dw rec

/-- An informational packet (R320: INFO 1) about a domain of a core. -/
def State.informPacket (s : State) (part core asid kind slot : Nat) (f : FaultInfo) : State :=
  let dw := [packetHead false false true (!f.record.isEmpty) part core asid kind 0 slot f.code, 0, 0, .ofNat 64 f.detail,
    .ofNat 64 s.time, .ofNat 64 (field f.addr 0 48), 0, 0]
  s.sendPacket part part core dw f.record

/-- The pc of a strand: the CURSOR of its code capability (R46). -/
def Slot.pc (t : Slot) : Nat := bitsAt t.code.val.toNat 0 48

/-- The code capability with its CURSOR at a pc. -/
def withPc (c : CReg) (pc : Nat) : CReg := { c with val := c.val.extractLsb' 48 80 ++ BitVec.ofNat 48 pc }

/-- Set a strand's pc. -/
def Slot.setPc (t : Slot) (pc : Nat) : Slot := { t with code := withPc t.code pc }

/-- PAIRINFO of a packet for a pair (R320): LAG, the queue entries left, the trailing member's slot. -/
def pairInfoOf (l t : Slot) : Nat :=
  if l.pair = 0 then 0 else field (l.retired - t.retired) 16 48 + field l.lvq.length 8 7 + field l.partner 0 4

/-- PAIRINFO of a pair by its leading member's slot. -/
def State.pairInfo (s : State) (c lead : Nat) : Nat := pairInfoOf (s.slotAt c lead) (s.slotAt c (s.slotAt c lead).partner)

/-- The doublewords of a strand's packet (R320). INSN is what the strand has fetched at its pc: 0 between two instructions. -/
def State.strandPacket (s : State) (c i : Nat) (killed : Bool) (f : FaultInfo) : List Word :=
  let t := s.slotAt c i
  let lead := if t.pair = 2 then t.partner else i
  let part := (s.domAt c t.asid).part
  [packetHead killed t.frame.isSome false (!f.record.isEmpty) part c t.asid t.kind (if t.pair = 0 then 0 else 1) lead f.code,
   .ofNat 64 (field t.pc 0 48), .ofNat 64 (field t.insn 0 32), .ofNat 64 f.detail, .ofNat 64 s.time,
   .ofNat 64 (field f.addr 0 48), .ofNat 64 (s.pairInfo c lead), 0]

/-- Where a strand's packet goes (R319): its partition's supervisor; for a class 63 strand of a supervisor domain,
partition 0's; for one of partition 0, the management controller (64). -/
def State.packetTarget (s : State) (c : Nat) (t : Slot) : Nat :=
  let d := s.domAt c t.asid
  if d.supv ∧ t.kind = 2 ∧ t.cls = 63 then if d.part = 0 then 64 else 0 else d.part

/-- The packet of a strand is sent (R320). -/
def State.sendStrandPacket (s : State) (c i : Nat) (f : FaultInfo) (dw : List Word) : State :=
  let t := s.slotAt c i
  s.sendPacket (s.domAt c t.asid).part (s.packetTarget c t) c dw f.record

/-- A FREEZE record of a strand in a slot: a fault code, with 0x100 for a resume and 0x200 for a kill (R397). -/
def State.traceFreeze (s : State) (c i detail : Nat) : State :=
  let t := s.slotAt c i
  s.trace 3 (s.domAt c t.asid).part c i t.asid t.pc detail

/-- A FREEZE record of a saved strand, which has no slot: SLOTNO 0 (R397; log 79). -/
def State.traceSaved (s : State) (c : Nat) (t : Slot) (detail : Nat) : State :=
  s.trace 3 (s.domAt c t.asid).part c 0 t.asid t.pc detail

/-! ### Killing a strand (R119, R157, R228, R298) -/

/-- KIND of a capability (R29). -/
def kindOf (c : CReg) : Nat := bitsAt c.val.toNat 124 4
/-- GEN of a capability. -/
def genOf (c : CReg) : Nat := bitsAt c.val.toNat 88 16
/-- OBJID of a capability. -/
def objOf (c : CReg) : Nat := bitsAt c.val.toNat 60 28
/-- CURSOR of a capability. -/
def cursorOf (c : CReg) : Nat := bitsAt c.val.toNat 0 48
/-- FRACTION of a SHADE in units: 0 stands for 65,536 (R29). -/
def fracOf (c : CReg) : Nat := if bitsAt c.val.toNat 104 16 = 0 then 65536 else bitsAt c.val.toNat 104 16

/-- Whether a register holds a tagged SHADE. -/
def isShade (c : CReg) : Bool := c.tag && kindOf c == 1
/-- Whether a register holds a tagged OWN. -/
def isOwn (c : CReg) : Bool := c.tag && kindOf c == 0

/-- The fractions of the tagged SHADEs that a scrub destroys leave HELD (R228). -/
def State.dropShades (s : State) (t : Slot) : State :=
  t.c.foldl (fun s p =>
    if isShade p.2 ∧ (s.objAt (objOf p.2)).gen = genOf p.2 then
      s.modObj (objOf p.2) (fun e => { e with held := e.held - fracOf p.2 })
    else s) s

/-- A helper's or a pair's handle learns that it has ended (R156). -/
def State.endHandle (s : State) (core asid serial : Nat) (r : CReg) (x : Carried) : State :=
  s.modDom core asid (fun d =>
    { d with handles := d.handles.map (fun h => if h.serial == serial then { h with ended := some (r, x) } else h) })

/-- The result of a killed helper (R156). -/
def killedResult : CReg := ⟨.ofNat 128 (2 ^ 64 - 1), false⟩

/-- A slot scrubbed and vacant (R119); the slot window's own registers stay (R324), and so do the cycle of the last issue and the
class in which the slot began this cycle (R19, R274, R386). -/
def Slot.emptied (t : Slot) : Slot :=
  { Slot.vacant with asid := t.asid, image := t.image, accSel := t.accSel, lastIssue := t.lastIssue, opening := t.opening }

/-- A strand's registers enter a slot, whose window keeps its own registers; the slot has been vacant in this cycle (R274). -/
def Slot.enter (old new : Slot) : Slot :=
  { new with image := old.image, accSel := old.accSel, lastIssue := old.lastIssue, opening := 0x040, again := false }

/-- The capability of an assist frame is revoked, and its object table entry free again (R328). Entries of ENTKIND 4 are the
model's own: they give frames their OBJIDs (log 8). -/
def State.dropFrame (s : State) (t : Slot) : State :=
  match t.frame with
  | none => s
  | some f =>
    let e := s.objAt f.obj
    if e.entKind = 4 then
      { s.setObj f.obj { Obj.free with gen := (e.gen + 1) % 65536, retired := decide (e.gen = 65535) } with
        cores := s.cores.map (fun p => (p.1, { p.2 with checkCache := dropN p.2.checkCache f.obj })) }
    else s

/-- A slot's strand is gone: requests in deferred lists withdrawn, the loop buffer given up, L noted, and the slot
vacated and scrubbed. Its domain stays the holder of the matrix unit (R184). -/
def State.vacate (s : State) (c i : Nat) : State :=
  let s := (s.noteEnd c i).dropFrame (s.slotAt c i)
  let s := { s with waiters := s.waiters.filter (fun w => !(w.core == c && w.slot == i && w.dev == s.jobDev (s.domAt c (s.slotAt c i).asid).part)) }
  let s := s.modCore c (fun k =>
    { k with
      loopSlot := if k.loopSlot = some i then none else k.loopSlot
      starts := k.starts.filter (fun j => j != i) })
  s.modSlot c i Slot.emptied

/-- COUNT of a command that ends now, for what it has done so far (R192): for a DRAIN in TS rows. -/
def Cmd.soFar (k : Cmd) : Nat := if bitsAt k.h.val.toNat 0 8 = 4 then k.wrote / 128 else k.wrote

/-- EVENTS of a command that ends now: an MMA that has made no pass says whether its unit checks (R197, R216). -/
def Core.eventsOf (k : Core) (x : Cmd) : Nat :=
  if bitsAt x.h.val.toNat 0 8 = 1 ∧ x.wrote = 0 ∧ !k.retiredCols.isEmpty then 16 else x.events

/-- Commands that stand at a racing access of a strand that is killed end CANCELLED (R316). -/
def Core.cancelStopped (k : Core) (born : Nat) : Core :=
  let go (x : Cmd) : Cmd := if x.stopped && x.born == born then { x with stopped := false, done := some (0x0C, x.soFar, k.eventsOf x, none) } else x
  { k with ports := k.ports.map (fun p => (p.1, p.2.map go)) }

/-- A strand is killed: its retired stores are performed, no release is made, its shades are lost, its region is
discarded, and its slot is scrubbed and vacated (R157); traced, with the fault code of a killing fault (R397). -/
def State.killSlot (s : State) (c i code : Nat) : State :=
  let s := s.drain c i
  let t := s.slotAt c i
  let s := (if t.pair = 2 then s else s.dropShades t).modCore c (fun k => k.cancelStopped t.born)
  let s := if t.kind = 1 ∧ t.pair ≠ 2 then s.endHandle c t.asid t.serial killedResult (s.carry c t.asid t.clock) else s
  (s.traceFreeze c i (0x200 + code)).vacate c i

/-- A strand is killed while an OUT of it is under way: the request ends, as an OUT of a vacant slot does (R288, R289; log 60). -/
def State.endOut (s : State) (c i : Nat) : State :=
  if (s.slotAt c i).pend.out.isSome then s.modCore c (fun k => { k with schedResult := 2, schedBusy := false, schedSaved := false }) else s

/-- A strand, or both members of a pair, are killed (R157, R333). A pair's members hold copies of one strand's shades, which are lost
once (R228). -/
def State.killStrand (s : State) (c i : Nat) (code : Nat := 0) : State :=
  let t := s.slotAt c i
  let s := s.endOut c i
  if t.state = .vacant then s
  else if t.pair = 0 then s.killSlot c i code
  else (s.killSlot c t.partner code).killSlot c i code

/-- Whether a strand has an outstanding access that must be replied to before its boundary (R157, R290). -/
def SlotState.outstanding : SlotState → Bool
  | .wait (.reply _ _) => true
  | .wait (.walk _ _ _) => true
  | .wait .commit => true
  | .wait (.translation _) => true
  | .wait (.scatter _ _) => true
  | .wait (.line _ _ _) => true
  | _ => false

/-- A kill is asked for: at once at a boundary, or noted until the outstanding access has been replied to (R157). -/
def State.requestKill (s : State) (c i : Nat) : State :=
  let t := s.slotAt c i
  if t.state = .vacant then s
  else if t.state.outstanding ∨ (s.slotAt c t.partner).state.outstanding ∧ t.pair ≠ 0 then
    s.modSlot c i (fun t => { t with pend := { t.pend with kill := true } })
  else s.killStrand c i

/-! ### Taking an exception, and returning (R317, R325, R328, R333) -/

/-- A difference at the comparator: one packet with KILLED names the leading member, and both members are killed; no
held effect is performed (R332). -/
def State.pairMismatch (s : State) (c lead what loc : Nat) : State :=
  let l := s.slotAt c lead
  let f : FaultInfo := { code := 0x0B, arg := what, addr := loc }
  let s := s.sendStrandPacket c lead f (s.strandPacket c lead true f)
  let clear (s : State) (i : Nat) : State := s.modSlot c i (fun t => { t with held := [] })
  (clear (clear s lead) l.partner).killStrand c lead f.code

/-- A strand that the cross-trigger halts: at its boundary it freezes without a packet (R338). -/
def haltStrand (t : Slot) : Slot :=
  match t.state with
  | .ready => { t with state := .frozen, trig := true, lastCode := 0, again := false }
  | .wait w =>
    if (SlotState.wait w).outstanding then { t with pend := { t.pend with trig := true } }
    else { t with state := .frozen, trig := true, lastCode := 0, again := false }
  | .vacant => t
  | .frozen => t
  | .swap => t

/-- Fire a cluster's cross-trigger: every strand of the cluster halts, and what it asked for is withdrawn (R338). -/
def State.fireTrigger (s : State) (cl : Nat) : State :=
  let inCl (c : Nat) : Bool := clusterOf c == cl
  let s := s.modCluster cl (fun k => { k with halted := true })
  let hit := (s.cores.filter (fun p => inCl p.1)).flatMap (fun p =>
    (p.2.slots.filter (fun q => q.2.state != .frozen && (haltStrand q.2).state == .frozen)).map (fun q => (p.1, q.1)))
  let s := hit.foldl (fun s x => s.traceFreeze x.1 x.2 0) s
  { s with
    waiters := s.waiters.filter (fun w => !(inCl w.core && w.dev == s.jobDev (s.domAt w.core (s.slotAt w.core w.slot).asid).part && w.slot < 16))
    cores := s.cores.map (fun p => (p.1,
      if inCl p.1 then { p.2 with starts := [], slots := p.2.slots.map (fun q => (q.1, haltStrand q.2)) } else p.2)) }

/-- A BREAK in a strand of a cluster that is armed and set to break fires its cross-trigger (R337). -/
def State.afterFreeze (s : State) (c code : Nat) : State :=
  let k := s.clusterAt (clusterOf c)
  if code = 0x18 ∧ k.arm ∧ k.onBreak then s.fireTrigger (clusterOf c) else s

/-- A slot's strand freezes at a fault, and is traced (R317, R397). -/
def State.stopAt (s : State) (c i code : Nat) : State :=
  (s.modSlot c i (fun t => { t with state := .frozen, lastCode := code % 256, again := false })).traceFreeze c i (code % 256)

/-- TAKING AN EXCEPTION: a strand freezes at its instruction, and its packet is sent (R317, R319). The leading member of
a pair leaves the packet to its partner's stop, which comes at once when the partner has retired as many instructions or finds its
queue empty (R333); a fault of the trailing member alone is a difference (R332). -/
def State.freezeAt (s : State) (c i : Nat) (f : FaultInfo) : State :=
  let t := s.slotAt c i
  if t.pair = 2 then s.pairMismatch c t.partner 0 0 else
  let dw := s.strandPacket c i false f
  let s := s.stopAt c i f.code
  let s :=
    if t.pair = 1 then
      if (s.slotAt c t.partner).retired = t.retired ∨ t.lvq.isEmpty then
        (s.stopAt c t.partner f.code).sendStrandPacket c i f (dw.set 6 (.ofNat 64 (s.pairInfo c i)))
      else s.modSlot c t.partner (fun u => { u with pend := { u.pend with stop := some ⟨t.retired, dw, f.record⟩ } })
    else s.sendStrandPacket c i f dw
  s.afterFreeze c f.code

/-- TAKING AN EXCEPTION in the strand whose turn it is. -/
def State.freeze (s : State) (f : FaultInfo) : State := s.freezeAt s.core s.slot f

/-- Both members of a pair stop where the trailing one has reached, and the leading member's packet is sent (R333). -/
def State.stopPair (s : State) (c trail : Nat) (dw rec : List Word) : State :=
  let lead := (s.slotAt c trail).partner
  let code := bitsAt ((dw.getD 0 0).toNat) 0 8
  let s := (s.modSlot c trail (fun u => { u with pend := { u.pend with stop := none } })).stopAt c trail code
  s.sendStrandPacket c lead { code := code, record := rec } (dw.set 6 (.ofNat 64 (s.pairInfo c lead)))

/-- Engine commands that stand at a racing access of a strand go on when the strand resumes: the access is checked again (R191,
R316). -/
def Core.goOn (k : Core) (born : Nat) : Core :=
  let go (x : Cmd) : Cmd := if x.stopped && x.born == born then { x with stopped := false } else x
  { k with ports := k.ports.map (fun p => (p.1, p.2.map go)) }

/-- A resumed strand does not stop again for a race of its command, which is checked again (R316), nor for a step asked for earlier
(R325). -/
def Pending.resumed (p : Pending) : Pending := { p with race := Option.none, step := Option.none }

/-- THE RETURN FROM AN EXCEPTION: a frozen strand becomes READY and issues from its pc (R325); traced (R397). -/
def State.resumeAt (s : State) (c i : Nat) : State :=
  let t := s.slotAt c i
  if t.state = .frozen then
    ((s.modSlot c i (fun t => { t with state := .ready, trig := false, pend := t.pend.resumed })).modCore c (fun k => k.goOn t.born)).traceFreeze
      c i 0x100
  else s

end Sys2Proof.Machine
end

