-- ==== Sys2Proof/Machine/Act.lean ====
section
/-! DEFINITION. How an instruction is issued: actions that read and change the state, the ways they stop, and the wrapper
that retires the instruction, freezes the strand, or leaves the rotation (R20, R69, R74, R112, R317). -/

namespace Sys2Proof.Machine

/-- The result of a step. -/
abbrev Out := Host.Outcome State Fault Refusal

/-- How an action stops before its end: a fault (with no effect, or on a state that counts it), a wait (with no effect,
or keeping a state), or a failure of the open remote region with CODE and DEV (R126). -/
inductive Stop where
  | freeze (f : FaultInfo)
  | freezeIn (s : State) (f : FaultInfo)
  | wait (w : Wait)
  | park (s : State) (w : Wait)
  | region (code dev : Nat)

/-- What an instruction under way sees: the state at its issue, the state now, and the stream elements it has popped
(R26). -/
structure Ctx where
  st0 : State
  st : State
  pops : Tab CReg

/-- An action of an instruction. -/
abbrev Act (α : Type) := StateT Ctx (Except Stop) α

/-- How an instruction ends: at the next one, at a pc, in another code capability, waiting with its effects kept, or with
the slot already settled. -/
inductive Flow where
  | next
  | jump (pc : Nat)
  | code (c : CReg)
  | park (w : Wait)
  | settled

/-! ### Codes of faults (R322) -/

def fILLEGAL : Nat := 0x01
def fCAP_TAG : Nat := 0x02
def fCAP_KIND : Nat := 0x03
def fCAP_BOUNDS : Nat := 0x04
def fCAP_GEN : Nat := 0x05
def fCAP_PERM : Nat := 0x06
def fSHADE_WRITE : Nat := 0x07
def fALIGN : Nat := 0x08
def fXLATE : Nat := 0x09
def fECC_UNCORR : Nat := 0x0A
def fPAIR_MISMATCH : Nat := 0x0B
def fMATRIX_CHECK : Nat := 0x0C
def fRACE : Nat := 0x0D
def fWORK_OVERFLOW : Nat := 0x0F
def fHEAP_EXHAUSTED : Nat := 0x10
def fREMOTE_FAIL : Nat := 0x11
def fHOST_ATOMIC_UR : Nat := 0x12
def fHOST_ATOMIC_CA : Nat := 0x13
def fSCOPE_CLIP : Nat := 0x14
def fSIDE_BLOCK_LOST : Nat := 0x15
def fBARRIER_OVERFLOW : Nat := 0x16
def fTRAP : Nat := 0x17
def fBREAK : Nat := 0x18
def fPOISON : Nat := 0x1A
def fKEY_REVOKED : Nat := 0x1B
def fTIMEOUT : Nat := 0x1C
def fPRIV : Nat := 0x1D
def fGCM_TAG_FAIL : Nat := 0x1E

/-! ### Actions -/

/-- The state. -/
def getS : Act State := do return (← get).st

/-- Change the state. -/
def modS (f : State → State) : Act Unit := modify (fun c => { c with st := f c.st })

/-- Put a state. -/
def putS (s : State) : Act Unit := modify (fun c => { c with st := s })

/-- `fault(code)` (R74). -/
def stopWith {α : Type} (f : FaultInfo) : Act α := throw (.freeze f)

/-- `fault(code)` with nothing more to say. -/
def fault {α : Type} (code : Nat) : Act α := stopWith { code := code }

/-- `fault(ILLEGAL)`. -/
def illegal {α : Type} : Act α := fault fILLEGAL

/-- `wait until`: the instruction has had no effect and issues again (R20, R73). -/
def waitFor {α : Type} (w : Wait) : Act α := throw (.wait w)

/-- Leave the rotation with one change to the state at issue. -/
def parkWith {α : Type} (f : State → State) (w : Wait) : Act α := do throw (.park (f (← get).st0) w)

/-- Leave the rotation and keep what has been done. -/
def parkNow {α : Type} (w : Wait) : Act α := do throw (.park (← getS) w)

/-- Fault unless a condition holds. -/
def need_ (b : Bool) (code : Nat) : Act Unit := if b then pure () else fault code

/-- Wait until a condition holds. -/
def until_ (b : Bool) (w : Wait) : Act Unit := if b then pure () else waitFor w

/-- The slot whose turn it is. -/
def me : Act Slot := do return (← getS).cur

/-- The domain of the strand whose turn it is. -/
def myDom : Act Domain := do return (← getS).dom

/-! ### Retiring, stopping, and boundaries -/

/-- The mark that stands in the leading member's queue for a region failure that another device brought about: it is no
value, and the trailing member fails alike (R125, R330). -/
def markOf (code dev : Nat) : CReg := ⟨.ofNat 128 (field 15 124 4 + field 1 120 1 + field dev 16 16 + code), true⟩

/-- The failure that a mark stands for. -/
def failMark (v : CReg) : Option (Nat × Nat) :=
  let x := v.val.toNat
  if v.tag && bitsAt x 120 8 == 0xF1 then some (bitsAt x 0 8, bitsAt x 16 16) else none

/-- Roll a strand back to the start of its region (R126): buffer discarded, checkpoint and code capability restored, region closed, the
error word written to E, and the failure branch taken, or CAP_BOUNDS at the `rmt.begin` when its target lies outside its code
object (R124). NO_REPLY counts and informs the supervisor, once per domain in 100 µs. DESIGN CHOICE (log 70): the error word enters the register
that E names though E is bound to an output stream. -/
def State.failRegionAt (s : State) (c i : Nat) (code dev : Nat) : State :=
  let t := s.slotAt c i
  match t.region with
  | none => s
  | some r =>
    let err := plain (field dev 16 16 + field code 0 8)
    let regs := if r.e = 0 then r.c else putT r.c r.e err
    let t' : Slot :=
      { t with c := regs, p := r.p, code := r.code, fpmode := r.fpmode, fpflags := r.fpflags, seed := r.seed, region := none,
               again := false }
    let s := s.setSlot c i t'
    let asid := t.asid
    let d := s.domAt c asid
    let s := if t.pair = 1 ∧ code ≤ 4 then s.modSlot c i (fun t => { t with lvq := t.lvq ++ [markOf code dev] }) else s
    let s := if t.pair = 2 ∧ code ≤ 4 then s.modSlot c t.partner (fun l => { l with lvq := l.lvq.drop 1 }) else s
    let s := if code = 1 ∧ t.pair ≠ 2 then
        let s := s.count c asid 0x0C5 1
        let due := match d.remoteFail with
          | none => true
          | some x => decide (x + 100000 ≤ s.time)
        if due then
          (s.modDom c asid (fun d => { d with remoteFail := some s.time })).informPacket d.part c asid t.kind i
            { code := fREMOTE_FAIL, arg := dev }
        else s
      else s
    let len := (s.objAt (objOf r.code)).length
    if 0 ≤ r.target ∧ r.target + 2 ≤ (len : Int) then
      s.modSlot c i (fun t => { t.setPc r.target.toNat with state := .ready, retired := t.retired + 1, insn := 0 })
    else (s.modSlot c i (fun t => { t with insn := r.insn })).freezeAt c i { code := fCAP_BOUNDS, arg := 5, addr := bitsN r.target 48 }

/-- What waits at a strand's boundary takes effect (R157, R290, R316, R325, R333, R338), the first of these: a kill; the pair's stop, once
the trailing member has retired as many instructions or its queue is empty; a race of its engine command; a halt; and BREAK once a stepped
strand has retired an instruction, which a pair's leading member takes for both. A pending OUT waits for SWAP_BOUNDARY. -/
def State.boundary (s : State) (c i : Nat) : State :=
  let t := s.slotAt c i
  let p := t.pend
  let set (f : Pending → Pending) : State := s.modSlot c i (fun t => { t with pend := f t.pend })
  if p = .none then s
  else if p.kill then s.killStrand c i
  else match p.stop with
    | some x =>
      if t.state = .frozen ∨ x.count ≤ t.retired ∨ (s.slotAt c t.partner).lvq.isEmpty then s.stopPair c i x.packet x.record else s
    | none =>
      if t.state = .frozen then set (fun p => { p with halt := false, step := none })
      else match p.race with
        | some r =>
          (set (fun p => { p with race := none })).freezeAt c i
            { code := r.code, addr := r.addr, engine := some (r.port, r.seq), record := r.record }
        | none =>
          if p.halt ∨ p.trig then
            (s.modSlot c i (fun t =>
              { t with state := .frozen, trig := !t.pend.halt, lastCode := 0, again := false,
                       pend := { t.pend with halt := false, trig := false } })).traceFreeze c i 0
          else match p.step with
            | some n =>
              if t.state = .ready ∧ n ≠ t.retired then
                (set (fun p => { p with step := none })).freezeAt c i { code := fBREAK, arg := 2 ^ 12 }
              else s
            | none => s

/-- A replayed instruction retires: the loop's position moves on, and the strand's pc is its run-ahead pc again (R180,
R183); its own next instruction waits on if it waited for the last iteration (R182). -/
def Slot.advanceLoop (t : Slot) : Slot :=
  match t.loop with
  | none => t
  | some l =>
    let l' := if l.j + 1 < l.words.length then { l with j := l.j + 1 } else { l with j := 0, k := l.k + 1 }
    let t' := { t.setPc l.ahead with loop := if l'.k < l'.count then some { l' with stopped := false, parked := none } else none }
    match l.parked with
    | some w => { t' with state := .wait .loop, insn := w, again := true }
    | none => t'

/-- A core's loop buffer is free again when the slot that held it has no loop, nor one that its assist has paused (R180, R183). -/
def State.freeLoop (s : State) (c : Nat) : State :=
  match (s.coreAt c).loopSlot with
  | some i =>
    let t := s.slotAt c i
    if t.loop.isNone && t.frame.all (fun f => f.loop.isNone) then s.modCore c (fun k => { k with loopSlot := none }) else s
  | none => s

/-- The instruction of the strand whose turn it is retires (R46, R112): at its replay the loop's position moves, not the
pc (R180). A strand that the instruction has killed is gone. -/
def State.retire (s : State) (len : Nat) (f : Flow) : State :=
  if s.cur.state = .vacant then s else
  let done (t : Slot) : Slot := { t with retired := t.retired + 1, insn := 0, again := false }
  let s' := match f with
    | .next =>
      if s.replaying then (s.modCur (fun t => (done t).advanceLoop)).freeLoop s.core
      else s.modCur (fun t => done (t.setPc (t.pc + len)))
    | .jump pc => s.modCur (fun t => done (t.setPc pc))
    | .code c => s.modCur (fun t => done { t with code := c })
    | .park w => s.modCur (fun t => { t with state := .wait w })
    | .settled => s.modCur (fun t => { t with again := false })
  s'.boundary s'.core s'.slot

/-- The die's walker is asked for a walk: one for each context and page, in the order in which they were asked for (R240). -/
def State.askWalk (s : State) (c : Nat) (w : Wait) : State :=
  match w with
  | .walk asid va _ =>
    s.modDie (dieOf c) (fun d =>
      if d.walks.contains (asid, pageOf va) then d else { d with walks := d.walks ++ [(asid, pageOf va)] })
  | _ => s

/-- The strand whose turn it is leaves the rotation at its instruction, which is taken up again, without another issue, when the wait
has ended (R20, R261). -/
def State.parked (s : State) (w : Wait) : State :=
  let s := (s.modCur (fun t => { t with state := .wait w, again := true })).askWalk s.core w
  s.boundary s.core s.slot

/-- Issue an instruction of `len` bytes in the strand whose turn it is. -/
def issue (len : Nat) (act : Act Flow) (s : State) : Out :=
  if s.cur.state = .ready then
    match act.run ⟨s, s, []⟩ with
    | .ok (f, c) => .next (c.st.retire len f)
    | .error (.freeze f) => .next ((s.freeze f).boundary s.core s.slot)
    | .error (.freezeIn s' f) => .next ((s'.freeze f).boundary s.core s.slot)
    | .error (.wait w) => .next (s.parked w)
    | .error (.park s' w) => .next (s'.parked w)
    | .error (.region code dev) => .next ((s.failRegionAt s.core s.slot code dev).boundary s.core s.slot)
  else .fault .noStrand

/-- Issue an instruction that always goes on to the next one. -/
def issue_ (len : Nat) (act : Act Unit) (s : State) : Out := issue len (do act; return .next) s

end Sys2Proof.Machine
end

