-- ==== Sys2Proof/Machine/Caps.lean ====
section
/-! DEFINITION. Capabilities (R29 to R33): form, permission, the checks of a dereference in their order, and translation. -/

namespace Sys2Proof.Machine

/-! ### Fields and form -/

/-- Restriction bits: NOSEND, NOSPLIT and ENGONLY are bits 2, 1 and 0 (capability bits 123:121; R29, R145). -/
def rbitsOf (c : CReg) : Nat := bitsAt c.val.toNat 121 3
/-- NOSEND, bit 123. -/
def noSend (c : CReg) : Bool := bit c.val.toNat 123
/-- NOSPLIT, bit 122. -/
def noSplit (c : CReg) : Bool := bit c.val.toNat 122
/-- ENGONLY, bit 121. -/
def engOnly (c : CReg) : Bool := bit c.val.toNat 121

/-- A capability of an object (R29). -/
def mkCap (kind rbits frac gen obj cursor : Nat) : CReg :=
  ⟨.ofNat 128 (field kind 124 4 + field rbits 121 3 + field frac 104 16 + field gen 88 16 + field obj 60 28
    + field cursor 0 48), true⟩

/-- An OWN of an object at its current generation. -/
def State.ownCap (s : State) (o rbits cursor : Nat) : CReg := mkCap 0 rbits 0 (s.objAt o).gen o cursor

/-- The CURSOR changed. -/
def setCursor (c : CReg) (x : Nat) : CReg := withPc c x

/-- PORT fields (R32). -/
def portDev (c : CReg) : Nat := bitsAt c.val.toNat 104 16
def portGrp (c : CReg) : Bool := bit c.val.toNat 87
def portTarget (c : CReg) : Nat := bitsAt c.val.toNat 74 13
def portCtx (c : CReg) : Nat := bitsAt c.val.toNat 62 12
def portLo (c : CReg) : Nat := bitsAt c.val.toNat 42 6
def portHi (c : CReg) : Nat := bitsAt c.val.toNat 36 6

/-- Whether the kind is assigned and the capability well formed (R30 to R32). -/
def wellFormed (c : CReg) : Bool :=
  let x := c.val.toNat
  if kindOf c = 7 then
    !bit x 120 && bitsAt x 88 16 == 0 && bitsAt x 48 14 == 0 && bitsAt x 0 36 == 0 && decide (portLo c ≤ portHi c)
      && (if portGrp c then bitsAt x 82 5 == 0 else coreOk (portTarget c))
  else decide (kindOf c < 7) && !bit x 120 && bitsAt x 48 12 == 0 && (kindOf c == 1 || bitsAt x 104 16 == 0)

/-! ### Permission (R30, R31) -/

/-- What a dereference is for. -/
inductive Op where
  | load | store | capLoad | capStore | vload | vstore | fetch | sync | atomic
  | tileIn | tileOut | engIn | engOut | codeIn | streamIn | streamOut
deriving DecidableEq, Repr

/-- Whether an operation is an engine operand. -/
def Op.engine : Op → Bool
  | .engIn => true | .engOut => true | .codeIn => true
  | .load => false | .store => false | .capLoad => false | .capStore => false | .vload => false | .vstore => false
  | .fetch => false | .sync => false | .atomic => false | .tileIn => false | .tileOut => false | .streamIn => false
  | .streamOut => false

/-- Whether an operation writes. -/
def Op.writes : Op → Bool
  | .store => true | .capStore => true | .vstore => true | .tileOut => true | .engOut => true | .streamOut => true
  | .load => false | .capLoad => false | .vload => false | .fetch => false | .sync => false | .atomic => false
  | .tileIn => false | .engIn => false | .codeIn => false | .streamIn => false

/-- Step 3 of R33: the code of a refused operation, by kind, restriction bits, privilege and level (R30, R31, R133,
R134, R136, R176). `supv`: the domain is a supervisor, or the capability is the strand's own assist frame (R327). A
REMOTE object is refused here outside a region (R123). A store through a SHADE of a TS object is refused as one through a capability of
a TS object (R30, R133). DESIGN CHOICE (log 46): ldc and stc reach no REMOTE object, inside a region or outside. DESIGN CHOICE (log 69): `br` through
a DEBUG capability faults PRIV in a domain that is no supervisor (R30), where R116 has CAP_PERM for a kind other than CODE. -/
def permit (op : Op) (c : CReg) (level : Nat) (supv remoteOk : Bool) : Option Nat :=
  let ok (b : Bool) : Option Nat := if b then none else some fCAP_PERM
  if engOnly c && !op.engine then
    if kindOf c = 6 && !supv then some fPRIV else some fCAP_PERM
  else if kindOf c = 0 then
    match op with
    | .load | .store | .vload | .vstore => ok (level != 1 && (level != 5 || remoteOk))
    | .capLoad | .capStore => ok (decide (level < 4) && level != 1)
    | .streamIn | .streamOut => ok (level == 0 || level == 2 || level == 3)
    | .tileIn | .tileOut | .engIn | .engOut | .codeIn => none
    | .fetch | .sync | .atomic => some fCAP_PERM
  else if kindOf c = 1 then
    match op with
    | .load | .vload => ok (level != 1 && (level != 5 || remoteOk))
    | .capLoad => ok (decide (level < 4) && level != 1)
    | .streamIn => ok (level == 0 || level == 2 || level == 3)
    | .tileIn | .engIn | .codeIn => none
    | .store | .vstore => some (if level = 1 || (level = 5 && !remoteOk) then fCAP_PERM else fSHADE_WRITE)
    | .capStore => some (if level = 1 || decide (4 ≤ level) then fCAP_PERM else fSHADE_WRITE)
    | .streamOut => some (if level = 1 then fCAP_PERM else fSHADE_WRITE)
    | .tileOut | .engOut => some fSHADE_WRITE
    | .fetch | .sync | .atomic => some fCAP_PERM
  else if kindOf c = 2 then
    match op with
    | .sync | .atomic => none
    | .load | .store | .vload | .vstore | .capLoad | .capStore | .streamIn | .streamOut | .tileIn | .tileOut
    | .engIn | .engOut | .codeIn | .fetch => some fCAP_PERM
  else if kindOf c = 3 then
    match op with
    | .fetch | .load | .vload | .tileIn | .codeIn => none
    | .store | .vstore | .capLoad | .capStore | .streamIn | .streamOut | .tileOut | .engIn | .engOut
    | .sync | .atomic => some fCAP_PERM
  else if kindOf c = 5 then
    match op with
    | .load | .store | .atomic | .engIn | .engOut | .codeIn | .vload | .vstore | .tileIn | .tileOut => none
    | .capLoad | .capStore | .streamIn | .streamOut | .fetch | .sync => some fCAP_PERM
  else if kindOf c = 6 then
    if !supv then some fPRIV
    else match op with
      | .load | .store | .capLoad | .capStore => none
      | .vload | .vstore | .fetch | .sync | .atomic | .tileIn | .tileOut | .engIn | .engOut | .codeIn | .streamIn
      | .streamOut => some fCAP_PERM
  else some fCAP_PERM

/-! ### The check (R33) -/

/-- ARG of a capability fault: STEP and OPND (R322). -/
def capArg (step opnd : Nat) : Nat := step + 16 * opnd

/-- A capability fault; PRIV says no step (R322). -/
def capFault (code step opnd reg : Nat) (addr : Nat := 0) : FaultInfo :=
  { code := code, arg := if code = fPRIV then 0 else capArg step opnd, addr := addr, reg := reg }

/-- Whether an entry is one that a capability of this generation names (R33 step 4, R145, R227). -/
def genCurrent (e : Obj) (gen : Nat) : Bool := e.entKind != 0 && !e.retired && e.gen == gen

/-- Where an access lies: the object, its entry, and the checked location. -/
structure Spot where
  obj : Nat
  ent : Obj
  loc : Nat
deriving DecidableEq, Repr

/-- Whether the strand is the trailing member of a pair at an effect that the comparator has matched: the leading member may
have performed it, and the checks that were made before are not made again (R331). -/
def State.confirmed (s : State) : Bool :=
  s.cur.pair == 2 && (match s.cur.held.getLast? with
    | some h => h.matched
    | none => false)

/-- Steps 1 to 4 of R33. -/
def checkHead (s : State) (op : Op) (c : CReg) (supv remoteOk : Bool) (opnd reg : Nat) : Except FaultInfo Obj :=
  let e := s.objAt (objOf c)
  if s.confirmed then .ok e
  else if !c.tag then .error (capFault fCAP_TAG 1 opnd reg)
  else if !wellFormed c then .error (capFault fCAP_KIND 2 opnd reg)
  else match permit op c e.level supv remoteOk with
    | some code => .error (capFault code 3 opnd reg)
    | none => if genCurrent e (genOf c) then .ok e else .error (capFault fCAP_GEN 4 opnd reg)

/-- Steps 5 and 6 of R33: bounds and alignment; the checked location. -/
def checkSpan (c : CReg) (e : Obj) (off : Int) (n align opnd reg : Nat) : Except FaultInfo Nat :=
  let loc : Int := cursorOf c + off
  let addr := bitsN loc 48
  if loc < 0 ∨ (e.length : Int) < loc + n then .error (capFault fCAP_BOUNDS 5 opnd reg addr)
  else if loc.toNat % align ≠ 0 then .error (capFault fALIGN 6 opnd reg addr)
  else .ok loc.toNat

/-- Step 7 of R33. -/
def checkPoison (e : Obj) (loc opnd reg : Nat) : Except FaultInfo Unit :=
  if e.poisoned then .error (capFault fPOISON 7 opnd reg (loc % 2 ^ 48)) else .ok ()

/-- Fault as a check says, or go on. -/
def checked {α : Type} (r : Except FaultInfo α) : Act α :=
  match r with
  | .ok x => pure x
  | .error f => stopWith f

/-- Whether a capability names the strand's own assist frame (R327). -/
def State.ownFrame (s : State) (c : CReg) : Bool :=
  match s.cur.frame with
  | some f => f.obj == objOf c
  | none => false

/-- Whether the strand may use a DEBUG capability (R30, R327): its own frame's, or a supervisor domain's of the debug object. A frame's
capability is valid for its own strand only: any other meets the rule of R30, PRIV (log 8). -/
def State.mayDebug (s : State) (c : CReg) : Bool := s.ownFrame c || (s.dom.supv && (s.objAt (objOf c)).entKind != 4)

/-- The entry comes into the check cache of a core; a full cache gives up a free entry, charged to the domain (R33, R387). -/
def State.fillCheck (s : State) (c asid o : Nat) : State :=
  let t := (s.coreAt c).checkCache
  if t.contains o then s
  else if t.length < 64 then s.modCore c (fun k => { k with checkCache := t ++ [o] })
  else ((s.modCore c (fun k => { k with checkCache := t.eraseIdx (Config.victim s.fresh % 64) ++ [o] })).count c asid
    0x101 1).drawn

/-- Whether the entry of an object is in the core's check cache; a check that is not made again needs none (R33, R331). -/
def State.entryHere (s : State) (o : Nat) : Bool := s.confirmed || (s.coreAt s.core).checkCache.contains o

/-- Leave the rotation while the entry of an object comes into the check cache (R20, R33). -/
def awaitEntry (o : Nat) : Act Unit := do until_ ((← getS).entryHere o) (.check o)

/-- Steps 1 to 4 of R33 as the strand makes them: the entry is fetched once the steps that need none have passed. -/
def headed (c : CReg) (r : Except FaultInfo Obj) : Act Obj := do
  match r with
  | .ok e =>
    awaitEntry (objOf c)
    return e
  | .error f =>
    if f.code = fCAP_GEN then awaitEntry (objOf c)
    stopWith f

/-- `check_cap` on a value up to step 8 (R33): the location. -/
def checkCapV (op : Op) (c : CReg) (reg opnd : Nat) (off : Int) (n align : Nat) : Act Spot := do
  let s ← getS
  let e ← headed c (checkHead s op c (s.mayDebug c) false opnd reg)
  let loc ← checked (checkSpan c e off n align opnd reg)
  if !s.confirmed then
    checked (checkPoison e loc opnd reg)
    until_ (!e.transit) (.transit (objOf c))
  return ⟨objOf c, e, loc⟩

/-- Step 9 of R33: the flat address of a location for the strand whose turn it is. A miss of the core's TLB
parks it, for a fill from the cluster's TLB (R20), or for a walk when that misses as well (R240). -/
def flatAct (o : Nat) (loc : Nat) : Act Nat := do
  let s ← getS
  let e := s.objAt o
  if e.level < 3 then return s.localAddr e loc
  else
    match s.coreTlb s.core s.cur.asid (e.base + loc) with
    | some p =>
      if tgtSuits p.tgt e.level then return p.page.flat (e.base + loc)
      else stopWith { code := fXLATE, arg := 4 + (if p.size = 2 ^ 16 then 3 else 2), addr := bitsN (e.base + loc : Nat) 48 }
    | none =>
      if (s.clusterTlb s.core s.cur.asid (e.base + loc)).isSome then waitFor (.tlb s.cur.asid (e.base + loc))
      else waitFor (.walk s.cur.asid (e.base + loc) e.level)

end Sys2Proof.Machine
end

