-- ==== Sys2Proof/Machine/Operands.lean ====
section
/-! DEFINITION. Operands (R23 to R26, R48): registers, immediates, streams, loads and stores, and the values and effects
of redundant pairs (R330, R331). -/

namespace Sys2Proof.Machine

/-! ### Registers -/

/-- A c register; c0 reads plain zero (R23). -/
def Slot.reg (t : Slot) (k : Nat) : CReg := if k = 0 then CReg.zero else (lookT t.c k).getD CReg.zero

/-- Write a c register; writes to c0 are discarded (R23). -/
def Slot.setReg (t : Slot) (k : Nat) (v : CReg) : Slot := if k = 0 then t else { t with c := putT t.c k v }

/-- A v register. -/
def Slot.vreg (t : Slot) (k : Nat) : VReg := (lookT t.v k).getD 0

/-- Write a v register. -/
def Slot.setV (t : Slot) (k : Nat) (v : VReg) : Slot := { t with v := putT t.v k v }

/-- A p register; p0 reads all ones (R23). -/
def Slot.preg (t : Slot) (k : Nat) : PReg := if k = 0 then BitVec.allOnes 32 else (lookT t.p k).getD 0

/-- Write a p register; writes to p0 are discarded (R23). -/
def Slot.setP (t : Slot) (k : Nat) (v : PReg) : Slot := if k = 0 then t else { t with p := putT t.p k v }

/-- A c register of the strand, with no regard to streams. -/
def regRaw (k : CR) : Act CReg := do return (← me).reg k.val

/-- Write a c register of the strand, with no regard to streams. -/
def setRaw (k : CR) (v : CReg) : Act Unit := modS (fun s => s.modCur (fun t => t.setReg k.val v))

/-! ### Reading and writing memory levels -/

/-- A strand's own buffered stores laid over bytes that it loads, oldest first (R131, R179, R331). -/
def Slot.forward (t : Slot) (a : Nat) (bs : List Byte) : List Byte :=
  let stores := t.held.filterMap (fun h => h.store)
  let lay (bs : List Byte) (e : StoreEntry) : List Byte :=
    (List.range bs.length).map (fun i =>
      let x := a + i
      (if e.addr ≤ x then (e.bytes[x - e.addr]?).join else none).getD (bs.getD i 0))
  (t.sbuf ++ stores).foldl lay bs

/-- The n bytes at a flat address as a slot sees them: the level or the L1, and its own buffered stores (R250). -/
def State.seen (s : State) (c i o a n : Nat) : List Byte :=
  let level := (s.objAt o).level
  (s.slotAt c i).forward a ((List.range n).map (fun k => s.byteAt c o level (a + k)))

/-- Whether data is delivered without leaving the rotation: own LS, or lines the L1 holds (R131). -/
def State.atHand (s : State) (c o a n : Nat) : Bool :=
  let e := s.objAt o
  if e.level = 0 then s.homeCore e == c
  else if cached e.level then (linesOf a a n).all (fun x => ((s.coreAt c).l1Hit o x.2).isSome)
  else false

/-- Extend a loaded value (R24, R55): 0 zero, 1 sign, 2 whole. -/
def extendBytes (ext : Nat) (bs : List Byte) : CReg :=
  let x := leNat bs
  if ext = 2 then plainQ x
  else if ext = 1 then plain (bitsN (sintN x (8 * bs.length)) 64)
  else plain x

/-- What races of a strand's access do (R308, R312): a freeze leaves the strand as it was when its instruction issued (R26, R316). -/
def raced (p : Party) (races : List (List Word)) : Act Unit := do
  let c ← get
  match c.st.judge p races with
  | (_, some r) => throw (.freezeIn (c.st0.judge p races).1 { code := fRACE, record := r })
  | (s', none) => putS s'

/-- The race check of the strand's access to lines (R131, R303): through an OWN only. -/
def raceCheck (own : Bool) (o loc a n : Nat) (write : Bool) : Act Unit := do
  let s ← getS
  if own && s.cur.pair != 2 then
    let p := s.party s.core s.slot
    raced p (s.racesIn p o loc a n write)
  else pure ()

/-- Whether a load is checked for races where it stands: one whose bytes are at hand; another when its bytes are read, and in precise mode
here as well, since a racing access is not performed (R131, R250). -/
def State.checksNow (s : State) (hand : Bool) : Bool := hand || s.dom.mode == 1

/-- In precise mode, a line of a store through an OWN whose mordant field is still to come to the L1, as (location, flat address) (R131
step 5). -/
def State.lineDue (s : State) (own : Bool) (o loc a n : Nat) : Option (Nat × Nat) :=
  if own && s.dom.mode == 1 && cached (s.objAt o).level then
    (linesOf loc a n).find? (fun x => ((s.coreAt s.core).l1Hit o x.2).isNone)
  else none

/-- Wait for the lines of a store in precise mode (R131 step 5). -/
def awaitLines (own : Bool) (o loc a n : Nat) : Act Unit := do
  match (← getS).lineDue own o loc a n with
  | some x => waitFor (.line o x.1 x.2)
  | none => pure ()

/-- The c register whose value a store instruction writes (R322: its data). -/
def storeData : Instr → List Nat
  | .st d _ _ _ => [d.val]
  | .stc d _ _ => [d.val]
  | .stx d _ _ _ _ => [d.val]
  | .cStD d _ _ => [8 + d.toNat]
  | .cStW d _ _ => [8 + d.toNat]
  | .cStsp d _ => [d.val]
  | _ => []

/-- The c registers that an instruction of majors 0x00 to 0x09, or a compact form of one, names; none for any other. -/
def aheadRegs (i : Instr) : Option (List CR) :=
  let r4 (k : BitVec 4) : CR := ⟨k.toNat, by have := k.isLt; omega⟩
  match i with
  | .add d a b => some [d, a, b]
  | .sub d a b => some [d, a, b]
  | .and d a b => some [d, a, b]
  | .or d a b => some [d, a, b]
  | .xor d a b => some [d, a, b]
  | .shl d a b => some [d, a, b]
  | .shr d a b => some [d, a, b]
  | .sra d a b => some [d, a, b]
  | .min d a b => some [d, a, b]
  | .max d a b => some [d, a, b]
  | .minn d a b => some [d, a, b]
  | .maxn d a b => some [d, a, b]
  | .addQ d a b => some [d, a, b]
  | .subQ d a b => some [d, a, b]
  | .andQ d a b => some [d, a, b]
  | .orQ d a b => some [d, a, b]
  | .xorQ d a b => some [d, a, b]
  | .setCc d a b _ => some [d, a, b]
  | .addi d a _ => some [d, a]
  | .andi d a _ => some [d, a]
  | .ori d a _ => some [d, a]
  | .xori d a _ => some [d, a]
  | .shli d a _ => some [d, a]
  | .shri d a _ => some [d, a]
  | .srai d a _ => some [d, a]
  | .roli d a _ => some [d, a]
  | .setiCc d a _ _ => some [d, a]
  | .lkZ d _ _ => some [d]
  | .lkK d _ _ => some [d]
  | .lkS d _ _ => some [d]
  | .mul d a b => some [d, a, b]
  | .mulh d a b => some [d, a, b]
  | .mulhn d a b => some [d, a, b]
  | .div d a b => some [d, a, b]
  | .divn d a b => some [d, a, b]
  | .remS d a b => some [d, a, b]
  | .remn d a b => some [d, a, b]
  | .mulx d a b => some [d, a, b]
  | .mulxn d a b => some [d, a, b]
  | .clz d a => some [d, a]
  | .ctz d a => some [d, a]
  | .popc d a => some [d, a]
  | .brev d a => some [d, a]
  | .bswap d a => some [d, a]
  | .bext d a b => some [d, a, b]
  | .bins d a b => some [d, a, b]
  | .andn d a b => some [d, a, b]
  | .cAddi d _ => some [r4 d]
  | .cMov d a => some [r4 d, r4 a, 0]
  | .cAdd d a => some [r4 d, r4 a]
  | .cSub d a => some [r4 d, r4 a]
  | .cLi d _ => some [r4 d]
  | _ => none

/-- The c registers that an instruction reads whose result an output stream takes, and those that name where a store goes (R331). -/
def operandRegs (i : Instr) : List CR :=
  let r3 (k : BitVec 3) : CR := ⟨8 + k.toNat, by have := k.isLt; omega⟩
  match aheadRegs i with
  | some rs => rs.tail
  | none => match i with
    | .ld _ a _ _ | .ldc _ a _ | .st _ a _ _ | .stc _ a _ | .vst _ a _ _ => [a]
    | .ldx _ a b _ _ | .stx _ a b _ _ => [a, b]
    | .cLdD _ a _ | .cLdW _ a _ | .cStD _ a _ | .cStW _ a _ => [r3 a]
    | .cLdsp _ _ | .cStsp _ _ => [29]
    | .alloc _ a b | .split _ a b | .join _ a b | .cview _ a b | .cset _ a b _ | .cinc _ a b | .hstart _ a b | .pair _ a b => [a, b]
    | .cget _ a _ | .ctest _ a | .creclaim _ a | .hwait _ a | .ffr _ a | .aget _ a _ _ | .shufStat _ a | .take _ a _ | .peek _ a _ => [a]
    | .amoAdd _ a b _ _ | .amoAnd _ a b _ _ | .amoOr _ a b _ _ | .amoXor _ a b _ _ | .amoMin _ a b _ _ | .amoMax _ a b _ _
    | .amoMinn _ a b _ _ | .amoMaxn _ a b _ _ | .amoSwap _ a b _ _ | .amoCas _ a b _ _ | .amoFadd _ a b _ _ _ | .amoFmin _ a b _ _ _
    | .amoFmax _ a b _ _ _ | .amoCas2 _ a b _ => [a, b]
    | .vext _ _ b _ => [b]
    | _ => []

/-- The two halves of a vector, as they pass through a pair's queue and comparator. -/
def halves (v : VReg) : List CReg := [⟨v.setWidth 128, false⟩, ⟨(v >>> 128).setWidth 128, false⟩]

/-- A p register as the comparator compares it. -/
def predValue (p : PReg) : CReg := ⟨p.setWidth 128, false⟩

/-- The v and p operands of an instruction that makes one store and reads vectors (R331): operands, and the data of a `vst`. -/
def Slot.vecValues (t : Slot) : Instr → List CReg × List CReg
  | .vst d _ p _ => ([predValue (t.preg p.val)], halves (t.vreg d.val))
  | .vext _ a _ _ => (halves (t.vreg a.val), [])
  | .vredadd _ a p _ => (halves (t.vreg a.val) ++ [predValue (t.preg p.val)], [])
  | .vredmin _ a p _ => (halves (t.vreg a.val) ++ [predValue (t.preg p.val)], [])
  | .vredmax _ a p _ => (halves (t.vreg a.val) ++ [predValue (t.preg p.val)], [])
  | .vfredadd _ a p _ => (halves (t.vreg a.val) ++ [predValue (t.preg p.val)], [])
  | .vfredmin _ a p _ => (halves (t.vreg a.val) ++ [predValue (t.preg p.val)], [])
  | .vfredmax _ a p _ => (halves (t.vreg a.val) ++ [predValue (t.preg p.val)], [])
  | _ => ([], [])

/-- The operand values of the store, or the append, that the instruction under way makes: beside its data, and its data (R331). The elements
of a stream come to both members through the pair's queue (R330). -/
def State.storeValues (s : State) : List CReg × List CReg :=
  let t := s.cur
  let vals (ks : List Nat) : List CReg := (ks.filter (fun k => (lookT t.streams k).isNone)).map (fun k => t.reg k)
  match decodePattern (if s.ir < 2 ^ 15 then 2 else 4) s.ir with
  | .ok i =>
    let v := t.vecValues i
    (vals ((operandRegs i).map (fun k => k.val)) ++ v.1, vals (storeData i) ++ v.2)
  | .error _ => ([], [])

/-- Put a store into the strand's store buffer; a full buffer leaves the rotation (R131). A member of a pair holds it in
the comparator instead (R331). The object is noted for release_to(ALL). -/
def pushStore (e : StoreEntry) : Act Unit := do
  let t ← me
  if t.pair = 0 then
    until_ (t.sbuf.length < 8) .stores
    modS (fun s => s.modCur (fun t => { t with sbuf := t.sbuf ++ [e], wrote := putN t.wrote e.obj }))
  else
    let s ← getS
    let new : Held := ⟨.ofNat 32 s.ir, s.storeValues.1, e.loc, some e, false, s.storeValues.2⟩
    match t.held.getLast? with
    | some h =>
      if t.pair = 2 ∧ h.matched then modS (fun s => s.modCur (fun t => { t with held := t.held.dropLast }))
      else if t.pair = 2 then waitFor .pairing
      else
        until_ (t.held.length < 32) .pairing
        modS (fun s => s.modCur (fun t => { t with held := t.held ++ [new], wrote := putN t.wrote e.obj }))
    | none =>
      let put (s' : State) : State := s'.modCur (fun t => { t with held := t.held ++ [new], wrote := putN t.wrote e.obj })
      if t.pair = 2 then parkWith put .pairing else modS put

/-- The strand's store of bytes at a checked location (R131): its lines in precise mode, race check, then the store buffer. -/
def storeBytes (own : Bool) (o loc a : Nat) (bs : List (Option Byte)) (cap : Option Bool) : Act Unit := do
  awaitLines own o loc a bs.length
  raceCheck own o loc a bs.length true
  let t ← me
  let s ← getS
  pushStore ⟨o, loc, a, bs, cap, clkAt t.clock s.slot, own⟩

/-! ### Values from outside a pair (R330) -/

/-- Take the next value of the leading member's queue (R330). -/
def takeLvq : Act CReg := do
  let s ← getS
  let t ← me
  match (s.slotAt s.core t.partner).lvq with
  | v :: vs =>
    match failMark v with
    | some (code, dev) => throw (.region code dev)
    | none =>
      modS (fun s => s.modSlot s.core t.partner (fun l => { l with lvq := vs }))
      return v
  | [] => waitFor .pairing

/-- The leading member's value enters the queue (R330). -/
def State.pushLvq (s : State) (c i : Nat) (v : CReg) : State :=
  s.modSlot c i (fun t => if t.pair = 1 then { t with lvq := t.lvq ++ [v] } else t)

/-- A value that a strand receives from outside its own registers: the trailing member takes the leading member's
(R330). -/
def outside (act : Act CReg) : Act CReg := do
  let t ← me
  if t.pair = 2 then takeLvq
  else
    if t.pair = 1 then until_ (t.lvq.length < 64) .pairing
    let v ← act
    modS (fun s => s.pushLvq s.core s.slot v)
    return v

/-! ### Streams (R26, R136, R137) -/

/-- The binding of a register. -/
def Slot.stream (t : Slot) (k : Nat) : Option Stream := lookT t.streams k

/-- Stream elements popped at issue are back when the instruction faults at its reply (R26). -/
def State.putBack (s : State) (c i : Nat) (a : Access) : State :=
  let back (k : Nat) (t : Slot) : Slot := match t.stream k with
    | some b => { t with streams := putT t.streams k { b with pos := b.pos - 1 } }
    | none => t
  a.pops.foldl (fun s k => s.modSlot c i (back k)) s

/-- Wrong-direction uses fault ILLEGAL, before every other check (R26, R69). -/
def dirs (reads writes : List CR) : Act Unit := do
  let t ← me
  let outBound (k : CR) : Bool := match t.stream k.val with
    | some b => b.out
    | none => false
  let inBound (k : CR) : Bool := match t.stream k.val with
    | some b => !b.out
    | none => false
  if reads.any outBound || writes.any (fun k => inBound k && !reads.contains k) then illegal else pure ()

/-- The element of a stream as it is popped: zero-extended, or 16 bytes whole; untagged (R136). -/
def elementValue (bs : List Byte) : CReg := plainQ (leNat bs)

/-- Pop the next element of an input stream (R26, R136). An element that raced when it was read ahead is raised here (R137); in precise
mode it is read, and checked, again after a resumption (R316). -/
def popStream (k : CR) (b : Stream) : Act CReg := do
  if b.count ≤ b.pos then stopWith (capFault fCAP_BOUNDS 5 0 k.val)
  let spot ← checkCapV .streamIn b.cap k.val 0 (b.pos * b.stride) b.esize b.esize
  let own := isOwn b.cap
  let next (b : Stream) : Stream := { b with pos := b.pos + 1, ahead := dropT b.ahead b.pos }
  match lookT b.ahead b.pos with
  | some (v, rec) =>
    if !rec.isEmpty then
      let c ← get
      let p := c.st.party c.st.core c.st.slot
      let drop (s : State) : State := s.modCur (fun t => { t with streams := putT t.streams k.val { b with ahead := dropT b.ahead b.pos } })
      match c.st.judge p [rec] with
      | (_, some r) => throw (.freezeIn (drop (c.st0.judge p [rec]).1) { code := fRACE, record := r })
      | (s', none) => putS s'
    modS (fun s => s.modCur (fun t => { t with streams := putT t.streams k.val (next b) }))
    return v
  | none =>
    let a ← flatAct spot.obj spot.loc
    let s ← getS
    if s.atHand s.core spot.obj a b.esize then
      raceCheck own spot.obj spot.loc a b.esize false
      modS (fun s => s.modCur (fun t => { t with streams := putT t.streams k.val (next b) }))
      return elementValue (s.seen s.core s.slot spot.obj a b.esize)
    else
      let acc : Access :=
        { cap := false, kind := 2, dst := k.val, ext := b.pos, size := b.esize,
          pieces := (List.range b.esize).map (fun j => (j, spot.loc + j, a + j)), obj := spot.obj, pops := [], own := own }
      waitFor (.reply acc 0)

/-- Read a c register as a source: an input stream pops once an instruction, and both fields see the element (R26). -/
def src (k : CR) : Act CReg := do
  let c ← get
  match lookT c.pops k.val with
  | some v => return v
  | none =>
    let t := c.st.cur
    match t.stream k.val with
    | some b =>
      let v ← outside (popStream k b)
      modify (fun c => { c with pops := putT c.pops k.val v })
      return v
    | none => return t.reg k.val

/-- Append a result to an output stream (R26, R136, R137): the low E bytes, as a store by the strand. -/
def appendStream (k : CR) (b : Stream) (v : CReg) : Act Unit := do
  if b.count ≤ b.pos then stopWith (capFault fCAP_BOUNDS 5 0 k.val)
  let spot ← checkCapV .streamOut b.cap k.val 0 (b.pos * b.stride) b.esize b.esize
  let a ← flatAct spot.obj spot.loc
  storeBytes true spot.obj spot.loc a ((leBytes b.esize v.val.toNat).map some) none
  modS (fun s => s.modCur (fun t => { t with streams := putT t.streams k.val { b with pos := b.pos + 1 } }))

/-- Write a c register as a destination: an output stream appends; an input stream that the instruction has popped keeps
its bound state (R26). -/
def dst (k : CR) (v : CReg) : Act Unit := do
  let t ← me
  match t.stream k.val with
  | some b => if b.out then appendStream k b v else pure ()
  | none => setRaw k v

/-- Two register sources and one destination, 64-bit (R24). -/
def op3 (d a b : CR) (f : Nat → Nat → Nat) : Act Unit := do
  dirs [a, b] [d]
  let x ← src a
  let y ← src b
  dst d (plain (f x.lo y.lo))

/-- Two register sources and one destination, 128-bit (R24). -/
def op3q (d a b : CR) (f : Nat → Nat → Nat) : Act Unit := do
  dirs [a, b] [d]
  let x ← src a
  let y ← src b
  dst d (plainQ (f x.val.toNat y.val.toNat))

/-- One register source and one destination, 64-bit. -/
def op2 (d a : CR) (f : Nat → Nat) : Act Unit := do
  dirs [a] [d]
  let x ← src a
  dst d (plain (f x.lo))

/-! ### Effects of a pair (R331) -/

/-- An effect other than a store, with its operand values, its data and its checked location: each member waits at it until the
comparator has matched them; the leading member then performs it once (R331). -/
def effect (ops : List CReg) (loc : Nat) (act : Act Unit) (data : List CReg := []) : Act Unit := do
  let t ← me
  let s ← getS
  if t.pair = 0 then act
  else
    match t.held.getLast? with
    | some h =>
      if h.matched then
        modS (fun s => s.modCur (fun t => { t with held := t.held.dropLast }))
        if t.pair = 1 then act else pure ()
      else if h.store.isNone ∨ t.pair = 2 ∨ 32 ≤ t.held.length then waitFor .pairing
      else
        parkWith (fun s' => s'.modCur (fun t => { t with held := t.held ++ [⟨.ofNat 32 s.ir, ops, loc, none, false, data⟩] }))
          .pairing
    | none =>
      parkWith (fun s' => s'.modCur (fun t => { t with held := [⟨.ofNat 32 s.ir, ops, loc, none, false, data⟩] })) .pairing

/-- An effect that also delivers a value to a register (R330, R331). DESIGN CHOICE (log 68): the flags and the generator step of a
floating atomic of a pair are the leading member's alone (R88, R150). -/
def effectV (ops : List CReg) (loc : Nat) (act : Act CReg) (put : CReg → Act Unit) : Act Unit := do
  let t ← me
  effect ops loc (do put (← outside act))
  if t.pair = 2 then put (← takeLvq) else pure ()

/-! ### Ticks, releases and acquires of the strand (R132, R297) -/

/-- `tick(strand)`: at the largest value the strand waits for a rebase (R307). -/
def tickMe : Act Unit := do
  let s ← getS
  until_ (!s.mustRebase s.core s.slot) .rebase
  modS (fun s => s.tickAt s.core s.slot)

/-- The clock that a release of the strand carries. -/
def myClock : Act Carried := do
  let s ← getS
  return s.carry s.core s.cur.asid s.cur.clock

/-- Whether a scope reaches other devices or the host. -/
def Scope.wide : Scope → Bool
  | .strand | .domain | .cluster | .die | .device => false
  | .fabric | .tenant | .system => true

/-- Whether a strand has accesses to other devices that are not acknowledged: RGET, RPUT and CKPT commands that have not ended (R247). -/
def State.owesRemote (s : State) (c born : Nat) : Bool :=
  (s.coreAt c).ports.any (fun x => x.2.any (fun k =>
    k.born == born && k.done.isNone && [0x14, 0x24, 0x25].contains (bitsAt k.h.val.toNat 0 8)))

/-- A release of fabric or system scope waits until the strand's writes to other devices have been acknowledged (R247 step 4). -/
def awaitRemote (sc : Scope) : Act Unit := do
  let s ← getS
  until_ (!(sc.wide && s.owesRemote s.core s.cur.born)) .remote

/-- release_to(ALL, scope) of the strand. -/
def releaseMe (sc : Scope) : Act Unit := do
  awaitRemote sc
  modS (fun s => s.releaseAll s.core s.slot sc)

/-- Acquire a carried clock. -/
def acquireMe (x : Carried) : Act Unit := modS (fun s => s.acquire x)

end Sys2Proof.Machine
end

