-- ==== Sys2Proof/Machine/Packets.lean ====
section
/-! DEFINITION. Injecting packets (R347 to R354) and messages that leave for the host or another device. -/

namespace Sys2Proof.Machine

/-- The traffic class of a packet's TYPE (R348). -/
def Body.tc : Body → Nat
  | .msg .. => 0 | .msgAck .. => 1 | .rload .. => 0 | .rdata .. => 1 | .rbatch .. => 0 | .rback .. => 1 | .ewrite .. => 2
  | .eread .. => 2 | .eack .. => 1 | .block _ => 2 | .lake _ => 2 | .sack _ => 1 | .snack .. => 1 | .errcomp _ => 1
  | .edata .. => 1 | .piece .. => 0
  | .stopnote .. => 0 | .arrival .. => 0 | .release .. => 0 | .mgmt => 3 | .reserved _ => 0

/-- Bytes of payload of a body, at most 4,096 (R347). -/
def Body.payload : Body → Nat
  | .msg m mv => 16 * m.pay.length + (mv.map (fun x => match x.copy with
      | some (_, b, _) => b.length
      | none => 0)).foldl (fun a b => a + b) 0
  | .rdata _ _ (.bytes b) => b.length
  | .rbatch _ _ st => 32 * st.length
  | .ewrite _ _ _ _ _ _ b => b.length
  | .eack _ _ _ _ b => b.length
  | .block b => b.payload.length
  | .lake b => b.payload.length
  | .piece _ _ _ b _ => b.length
  | .msgAck .. | .rload .. | .rdata .. | .rback .. | .eread .. | .sack _ | .snack .. | .errcomp _ | .edata .. | .stopnote .. | .mgmt
  | .arrival .. | .release .. | .reserved _ => 0

/-- The remap entry of a job-visible device for a partition (R352). Without a table, an identifier is not mapped. -/
def State.remapOf (s : State) (part job : Nat) : Option Remap := (lookT (s.partAt part).remap job).filter (fun r => r.valid)

/-- The next end-to-end sequence number to a device in a class (R347). -/
def State.nextSeq (s : State) (phys tc : Nat) : Nat := (lookT s.sent (phys * 4 + tc)).getD 0

/-- Inject a packet for a partition's domain toward a job-visible device; none when it is not mapped (R352). -/
def State.inject (s : State) (part dstJob : Nat) (priv : Bool) (dstCore srcCore ctx : Nat) (b : Body) : Option State :=
  match s.remapOf part dstJob with
  | none => none
  | some r =>
    let tc := if priv then 3 else b.tc
    let n := s.nextSeq r.phys tc
    let p : Packet :=
      { tc := tc, dl := 0, det := false, nocode := false, viac := false, pkey := (s.partAt part).pkey, dst := r.phys,
        src := s.phys, dstJob := dstJob, srcJob := s.jobDev part, remapEp := r.epoch, seq := n, dstCore := dstCore,
        srcCore := srcCore, ctx := ctx, body := b }
    some { s with sent := putT s.sent (r.phys * 4 + tc) ((n + 1) % 65536), out := s.out ++ [.packet 8 p] }

/-- Inject packets in their order; none when their destination is not mapped. -/
def State.injectAll (s : State) (part dstJob : Nat) (priv : Bool) (dstCore srcCore ctx : Nat) (bs : List Body) : Option State :=
  bs.foldl (fun s b => s.bind (fun s => s.inject part dstJob priv dstCore srcCore ctx b)) (some s)

/-- Whether a key is one of a partition's: this device's own, or that of another membership, and never 0 (R354; log 64). -/
def State.keyIn (s : State) (part key : Nat) : Bool := key != 0 && (key == (s.partAt part).pkey || Config.peerKey part key)

/-- The partition of this device that a key belongs to. -/
def State.keyOwner (s : State) (key : Nat) : Option Nat := (s.parts.find? (fun p => s.keyIn p.1 key)).map (fun p => p.1)

/-- Where the answer to a packet goes (R352): what the remap table of the key's partition says of the requester, or, where it says nothing,
the packet's source (DESIGN CHOICE, log 77), with the epoch. -/
def State.backTo (s : State) (p : Packet) : Nat × Nat :=
  match (s.keyOwner p.pkey).bind (fun part => s.remapOf part p.srcJob) with
  | some r => (r.phys, r.epoch)
  | none => (p.src, 0)

/-- Answer a packet at a device, from the destination it was addressed to (R348), under this device's own key where it has a membership in
the packet's partition (R354). -/
def State.answerTo (s : State) (p : Packet) (b : Body) (to_ : Nat × Nat) : State :=
  let tc := if p.tc = 3 then 3 else b.tc
  let n := s.nextSeq to_.1 tc
  let q : Packet :=
    { p with tc := tc, dl := 0, det := false, nocode := false, viac := false, dst := to_.1, src := s.phys, dstJob := p.srcJob,
             srcJob := p.dstJob, seq := n, remapEp := to_.2, dstCore := p.srcCore, srcCore := p.dstCore, body := b,
             pkey := ((s.keyOwner p.pkey).map (fun part => (s.partAt part).pkey)).getD p.pkey }
  { s with sent := putT s.sent (to_.1 * 4 + tc) ((n + 1) % 65536), out := s.out ++ [.packet 8 q] }

/-- Answer a packet's sender. -/
def State.answer (s : State) (p : Packet) (b : Body) : State := s.answerTo p b (s.backTo p)

end Sys2Proof.Machine
end

