-- ==== Sys2Proof/Machine/Table.lean ====
section
/-! DEFINITION. The object table and pools (R218 to R228): entries, bumps, owners, space, and copies of objects. -/

namespace Sys2Proof.Machine

/-! ### Entries (R218, R219, R226, R227) -/

/-- The partition of a context. -/
def State.partOf (s : State) (asid : Nat) : Nat :=
  match lookT s.ctxs asid with
  | some x => x.part
  | none => 0

/-- Whether an entry may be taken: free, and not retired (R224). -/
def Obj.open_ (e : Obj) : Bool := e.entKind == 0 && !e.retired

/-- The entries that count against a partition, retired ones included (R218, R227). -/
def State.entriesUsed (s : State) (part : Nat) : Nat :=
  (s.objs.filter (fun p => !p.2.open_ && p.2.entKind != 4 && p.2.part == part)).length

/-- The first free entry at or after x whose GEN is at most g, cyclically. -/
def freeFrom (t : Tab Obj) (g : Nat) : Nat → Nat → Option Nat
  | _, 0 => none
  | x, n + 1 =>
    let e := (lookT t x).getD Obj.free
    if e.open_ && decide (e.gen ≤ g) then some x else freeFrom t g ((x + 1) % 2 ^ 28) n

/-- A free entry for a partition: which one is free (log 3); none when its number is used up (R218). -/
def State.pickEntry (s : State) (part g : Nat) : Option Nat :=
  if (s.partAt part).otcap ≤ s.entriesUsed part then none
  else freeFrom s.objs g (Config.freeEntry s.fresh % 2 ^ 28) (s.objs.length + 1)

/-- An entry is written: every check cache of the device gives up its copy (R226). -/
def State.writeEntry (s : State) (o : Nat) (e : Obj) : State :=
  { (s.setObj o e).stirAll with
    cores := s.cores.map (fun p => (p.1, { p.2 with checkCache := dropN p.2.checkCache o })) }

/-- Whether a load of an object awaits its reply: its core holds the acknowledgement back (R226 step 3). -/
def State.loading (s : State) (o : Nat) : Bool :=
  s.cores.any (fun k => k.2.slots.any (fun t => match t.2.state with
    | .wait (.reply a _) => a.obj == o
    | _ => false))

/-- Every store to an object that has passed its check is performed (R131, R226 step 3). -/
def State.drainObj (s : State) (o : Nat) : State :=
  s.cores.foldl (fun s k => k.2.slots.foldl (fun s t =>
    if t.2.sbuf.any (fun e => e.obj == o) then s.drain k.1 t.1 else s) s) s

/-- Whether a command names an object as X, Y or Z. -/
def Cmd.names (k : Cmd) (o : Nat) : Bool :=
  [k.x, k.y, k.z].any (fun c => c.tag && kindOf c != 7 && objOf c == o)

/-- Whether a command borrows a shade of an object (R191). -/
def Cmd.borrows (k : Cmd) (o : Nat) : Bool := [k.x, k.y, k.z].any (fun c => isShade c && objOf c == o)

/-- Whether an outstanding command of a domain satisfies p. -/
def State.anyCmd (s : State) (core asid : Nat) (p : Cmd → Bool) : Bool :=
  (s.coreAt core).ports.any (fun x => x.2.any (fun k => k.asid == asid && p k))

/-- A bump of an object's generation (R224, R227): the state and the object's identifier afterwards; none when GEN is
0xFFFF and the partition has no free entry. -/
def State.bump (s : State) (o : Nat) : Option (State × Nat) :=
  let e := s.objAt o
  if e.gen < 65535 then some (s.writeEntry o { e with gen := e.gen + 1 }, o)
  else match s.pickEntry e.part 65534 with
    | some n =>
      let s' := (s.writeEntry n { e with gen := (s.objAt n).gen + 1 }).writeEntry o { e with retired := true }
      some (s'.drawn, n)
    | none => none

/-- REBASE for a new owner: the effective epoch rises by 1 (R302). -/
def State.rebaseFor (s : State) (o core asid : Nat) : Nat :=
  (s.epochOf o + 1 + 4 - (s.domAt core asid).epoch % 4) % 4

/-- The partition that an object counts against when a domain owns it: that of the domain, or, for a domain of another device, the one
that it counted against (R218). -/
def State.partFor (s : State) (e : Obj) (dev asid : Nat) : Nat :=
  match lookT s.ctxs asid with
  | some x => if s.jobDev x.part = dev then x.part else e.part
  | none => e.part

/-- The owner of an object becomes a domain (R224); its effective epoch advances when that is another domain (R302). -/
def State.setOwner (s : State) (o dev core asid : Nat) : State :=
  let e := s.objAt o
  if e.ownDev = dev ∧ e.ownCore = core ∧ e.ownCtx = asid then s
  else
    let s := s.retireLines o ((s.epochOf o + 1) % 4)
    s.writeEntry o { e with ownDev := dev, ownCore := core, ownCtx := asid, rebase := s.rebaseFor o core asid,
                            part := s.partFor e dev asid }

/-! ### Space (R138, R222) -/

/-- The unit of a level (R138). -/
def unitOf (level : Nat) : Nat := if level = 1 then 128 else if level = 0 ∨ level = 2 then 64 else 65536

/-- The units that n bytes take, in bytes. -/
def spanOf (level n : Nat) : Nat := roundUp n (unitOf level)

/-- The runs of a pool that objects take, and those that are being cleaned. -/
def State.runs (s : State) (pool : Nat) (cleaning : Bool) : List (Nat × Nat) :=
  let live := s.objs.filter (fun p => p.2.entKind == 1 && p.2.poolId == pool && !p.2.retired && !p.2.pinned
    && decide (p.2.level < 4))
  live.map (fun p => (p.2.base, spanOf p.2.level p.2.length))
    ++ (if cleaning then (s.cleaning.filter (fun c => c.pool == pool)).map (fun c => (c.base, c.len)) else [])

/-- The lowest base at which n bytes fit between lo and hi beside the runs (R222). -/
def firstFit (runs : List (Nat × Nat)) (lo hi n : Nat) : Option Nat :=
  let fits (b : Nat) : Bool := decide (lo ≤ b) && decide (b + n ≤ hi)
    && runs.all (fun r => decide (b + n ≤ r.1) || decide (r.1 + r.2 ≤ b))
  ((lo :: runs.map (fun r => r.1 + r.2)).filter fits).foldl (fun m b => match m with
    | none => some b
    | some x => some (min x b)) none

/-- Room for n bytes in a pool, with the space that is being cleaned or without (R222). -/
def State.room (s : State) (pool n : Nat) (cleaning : Bool) : Option Nat :=
  let p := s.objAt pool
  firstFit (s.runs pool cleaning) p.base (p.base + p.length) (spanOf p.level n)

/-- Do something to the flat ranges of n bytes at a location of an object, page by page where it is translated; pages
that are not mapped hold nothing. -/
def State.overSpan (s : State) (asid : Nat) (e : Obj) (loc n : Nat) (f : State → Nat → Nat → State) : State :=
  if n = 0 then s
  else if e.level < 3 then f s (s.localAddr e loc) n
  else
    let v := e.base + loc
    (List.range ((v + n - 1) / 2 ^ 16 + 1 - v / 2 ^ 16)).foldl (fun t k =>
      let lo := max v ((v / 2 ^ 16 + k) * 2 ^ 16)
      let hi := min (v + n) ((v / 2 ^ 16 + k + 1) * 2 ^ 16)
      match t.walkPage asid e.level lo with
      | .ok p => f t (p.flat lo) (hi - lo)
      | .error _ => t) s

/-- n bytes of an object are zeroed and untagged, and their lines take "inherited by transfer" (R138, R301). -/
def State.zeroSpan (s : State) (asid o loc n : Nat) : State :=
  let e := s.objAt o
  s.overSpan asid e loc n (fun t a k =>
    let t := t.clearRange a k
    if e.level < 3 then t.inheritLines a k (t.epochOf o) else t)

/-- A fresh object of a pool in entry o at a base (R138). -/
def State.makeObj (s : State) (o pool base n core asid : Nat) (frac : Nat) : State :=
  let p := s.objAt pool
  let e := s.objAt o
  let new : Obj :=
    { e with ownDev := s.jobDev (s.partOf asid), ownCore := core, ownCtx := asid, held := frac, level := p.level,
             entKind := 1, poisoned := false, pinned := false, transit := false, retired := false, ptab := false,
             key := p.key, base := base, rebase := 0, length := n, poolId := pool, homeDev := 0, homeObj := 0,
             homeGen := 0, inUse := 0, part := s.partOf asid }
  let s := (s.writeEntry o new).modObj pool (fun p => { p with inUse := p.inUse + spanOf p.level n })
  s.zeroSpan asid o 0 n

/-- The space of an object goes to cleaning in its pool (R222). Its bytes are zeroed here; until the cleaning is done no object
may take the space. -/
def State.giveBack (s : State) (e : Obj) : State :=
  if (s.objAt e.poolId).entKind = 2 ∧ !e.pinned ∧ e.level < 4 then
    let s := s.overSpan e.ownCtx e 0 e.length (fun t a k => t.clearRange a k)
    { s with cleaning := s.cleaning ++ [⟨e.poolId, e.base, spanOf e.level e.length, e.part⟩] }
  else s

/-- Space that has been cleaned is free again (R222). -/
def State.cleaned (s : State) (c : Cleaning) : State :=
  let s := if (s.objAt c.pool).entKind = 2 then s.modObj c.pool (fun p => { p with inUse := p.inUse - c.len }) else s
  { s with cleaning := s.cleaning.filter (fun x => !(x.pool == c.pool && x.base == c.base)) }

/-- Every core's lines of an object go without write-back (R139); the attributions that they lose are counted (R305). -/
def State.dropAllLines (s : State) (o : Nat) : State := s.cores.foldl (fun s k => s.dropLines k.1 o) s

/-- An object is freed at its generation: space to cleaning, entry free, GEN kept (R139, R219, R224). -/
def State.freeObj (s : State) (o : Nat) : State :=
  let e := s.objAt o
  let s := (s.dropAllLines o).giveBack e
  s.writeEntry o { Obj.free with gen := e.gen, ownCtx := e.ownCtx }

/-- An object is revoked and freed by the hardware: bumped, or, where no other entry is free at GEN 0xFFFF, its entry retired (R227). -/
def State.revokeFree (s : State) (o : Nat) : State :=
  match s.bump o with
  | some (s', n) => s'.freeObj n
  | none => (s.freeObj o).modObj o (fun e => { e with retired := true, part := (s.objAt o).part })

/-- A sync word is emptied when its object is made or freed (R146). -/
def State.emptyWords (s : State) (a n : Nat) : State :=
  { s with full := s.full.filter (fun w => decide (w < a) || decide (a + n ≤ w)) }

/-! ### Copies (R36, R231) -/

/-- Copy n bytes from one entry's space to another's, with the granules' tags (R36). -/
def State.carryObj (s : State) (srcAsid dstAsid : Nat) (a d : Obj) (n : Nat) : State :=
  (List.range ((n + 15) / 16)).foldl (fun t k =>
    let at_ (asid : Nat) (e : Obj) : Except Nat Nat :=
      if e.level < 3 then .ok (t.localAddr e (16 * k))
      else match t.walkPage asid e.level (e.base + 16 * k) with
        | .ok p => .ok (p.flat (e.base + 16 * k))
        | .error x => .error x
    match at_ srcAsid a, at_ dstAsid d with
    | .ok x, .ok y => t.carryRange x y (min 16 (n - 16 * k))
    | _, _ => t) s

/-- An object moves to another pool at its identifier, with its bytes and tags: its old space goes to cleaning, and the
lines take "inherited by transfer" (R206, R231, R301). -/
def State.rehome (s : State) (o pool base : Nat) (asid : Nat) : State :=
  let e := s.objAt o
  let p := s.objAt pool
  let e' : Obj := { e with level := p.level, key := p.key, base := base, poolId := pool }
  let s := (s.setObj pool { p with inUse := p.inUse + spanOf p.level e.length }).carryObj asid asid e e' e.length
  let s := (s.giveBack e).writeEntry o e'
  if e'.level < 3 then s.inheritLines (s.localAddr e' 0) e'.length (s.epochOf o) else s

/-! ### Actions -/

/-- Steps 1 to 4 of R33 for an instruction whose permission is its own (R30, R31): `perm` gives the refusal of step 3. -/
def headCheck (s : State) (c : CReg) (reg opnd : Nat) (perm : Obj → Option Nat) : Except FaultInfo Obj :=
  let e := s.objAt (objOf c)
  if s.confirmed then .ok e
  else if !c.tag then .error (capFault fCAP_TAG 1 opnd reg)
  else if !wellFormed c then .error (capFault fCAP_KIND 2 opnd reg)
  else match perm e with
    | some code => .error (capFault code 3 opnd reg)
    | none =>
      if kindOf c = 7 ∨ genCurrent e (genOf c) then .ok e else .error (capFault fCAP_GEN 4 opnd reg)

/-- Steps 1 to 4 and 7 of R33 for such an instruction, then step 8. -/
def capCheck (c : CReg) (reg : Nat) (perm : Obj → Option Nat) : Act Obj := do
  let s ← getS
  let r := headCheck s c reg 0 perm
  let e ← if kindOf c = 7 then checked r else headed c r
  if kindOf c ≠ 7 ∧ !s.confirmed then
    checked (checkPoison e 0 0 reg)
    until_ (!e.transit) (.transit (objOf c))
  return e

/-- CAP_PERM unless a condition holds. -/
def permIf (b : Bool) : Option Nat := if b then none else some fCAP_PERM

/-- What a change of an entry waits for: commands of the domain that name the object (R191), and loads of it that await
their replies; stores that have passed their checks are performed (R226). -/
def settle (o : Nat) : Act Unit := do
  let s ← getS
  until_ (!s.anyCmd s.core s.cur.asid (fun k => k.names o)) (.engine o)
  until_ (!s.loading o) (.entry o)
  modS (fun s => s.drainObj o)

/-- A bump, at which an object of a partition without a free entry faults CAP_GEN (R227). -/
def bumpMe (c : CReg) (reg : Nat) : Act Nat := do
  match (← getS).bump (objOf c) with
  | some (s', o) =>
    putS s'
    return o
  | none => stopWith (capFault fCAP_GEN 4 0 reg)

end Sys2Proof.Machine
end

