-- ==== Sys2Proof/Machine/Deliver.lean ====
section
/-! DEFINITION. Starting strands (R18, R89, R298), and messages on their way: sending, placement, refusal and acceptance (R143,
R152, R229 to R234, R277 to R284). -/

namespace Sys2Proof.Machine

/-! ### Starting a strand -/

/-- A strand of a domain starts in a slot with the clock of its edge; a start below L[k] is counted (R298). The matrix unit
has a holder when a control strand enters s0 (R184). -/
def State.startIn (s : State) (c i : Nat) (x : Option Carried) (t : Slot) : State :=
  let (clk, low) := s.startClock c t.asid i x
  let n := (s.coreAt c).births + 1
  let s := (s.modCore c (fun k => { k with births := n })).modSlot c i (fun old =>
    old.enter { t with state := .ready, clock := clk, born := n })
  if low then s.countLoss c t.asid 0x083 1 else s

/-- The matrix state of a holder is written to its domain's save area (R184). -/
def State.saveMatrix (s : State) (c : Nat) : State :=
  match (s.coreAt c).holder with
  | none => s
  | some a => s.modDom c a (fun d => { d with mx := some (s.coreAt c).mx })

/-- A domain becomes the holder of the matrix unit (R184): the old holder's state is saved, and its own restored. -/
def State.takeMatrix (s : State) (c asid : Nat) : State :=
  if (s.coreAt c).holder = some asid then s
  else
    let s := s.saveMatrix c
    let own := ((s.domAt c asid).mx).getD MatrixState.fresh
    let s := s.modCore c (fun k => { k with holder := some asid, mx := own })
    s.modDom c asid (fun d => { d with mx := none })

/-- Vacant slots of s1 to s14, rising (R277, R289). -/
def Core.vacant (k : Core) : List Nat := ((List.range 14).map (fun i => i + 1)).filter (fun i => (k.slotAt i).state == .vacant)

/-- Slots of s1 to s14 that have been vacant since the cycle began, rising: a start or a claim takes them (R277). -/
def Core.open_ (k : Core) : List Nat := k.vacant.filter (fun i => (k.slotAt i).opening == 0x040)

/-- Live helpers of a core, saved ones included (R17, R287). -/
def Core.helpers (k : Core) : Nat :=
  ((List.range 16).filter (fun i => (k.slotAt i).state != .vacant && (k.slotAt i).kind == 1)).length
    + (k.tcc.flatMap (fun v => v.images)).countP (fun t => t.kind == 1)

/-- The device's identifier as a message's domains see it: its partition's JOB (R42). -/
def State.devOf (s : State) (asid : Nat) : Nat := s.jobDev (s.partOf asid)

/-! ### Refusal (R233, R280, R336) -/

/-- Registers of a refused message: a `send`'s status gains POISONED for an object that was poisoned (R233, R336). -/
def bouncePay (m : Msg) (poisoned : Bool) : List CReg :=
  if m.form = 2 ∧ poisoned then
    [m.pay.getD 0 CReg.zero, plain (((m.pay.getD 1 CReg.zero).lo ||| 4) % 2 ^ 64)]
  else m.pay

/-- A refused message as it returns: the same class, the refusing destination as its source, SEND set (R233). -/
def bounceMsg (m : Msg) (poisoned : Bool) : Msg :=
  let h := m.hdr.toNat
  { m with
    srcDev := m.dstDev, srcCore := m.dstCore, srcCtx := m.dstCtx, dstDev := m.srcDev, dstCore := m.srcCore,
    dstCtx := m.srcCtx, form := 6, clk := none, pay := bouncePay m poisoned,
    hdr := .ofNat 64 (field (bitsAt h 40 24) 40 24 + field m.dstDev 24 16 + field m.dstCore 11 13 + field 1 10 1
      + field (bitsAt h 0 10) 0 10) }

/-- Transit ends for the objects that a message carries as OWNs; they stay with their owners (R224, R233). -/
def State.endTransit (s : State) (m : Msg) : State :=
  let os := (m.pay.filter isOwn).map objOf
  let s := os.foldl (fun s o =>
    if (s.objAt o).transit then s.writeEntry o { s.objAt o with transit := false } else s) s
  { s with transfers := s.transfers.filter (fun t => !os.contains t.obj) }

/-- Whether a message is refused because it carries a capability of a poisoned object (R336): its bounce is not (R233). -/
def State.carriesPoison (s : State) (m : Msg) : Bool :=
  m.form != 6 && m.pay.any (fun c => c.tag && kindOf c != 7 && (s.objAt (objOf c)).poisoned && (s.objAt (objOf c)).gen == genOf c)

/-- The landing of a message that awaits acceptance (R229). -/
def State.landingOf (s : State) (m : Msg) : Option Landing := m.ticket.bind (lookT s.landings)

/-- A message from another device is no longer awaited: its sender learns whether it was accepted (R229, R233). -/
def State.closeLanding (s : State) (m : Msg) (l : Landing) (refused : Bool) : State :=
  match l.packet.body with
  | .msg m0 _ => { s with landings := dropT s.landings (m.ticket.getD 0) }.answer l.packet (.msgAck m0 (if refused then [] else l.acks) refused)
  | _ => s

/-- The entries that a landed message made here are given up, as it is refused (R233). -/
def State.unland (s : State) (m : Msg) (l : Landing) : State :=
  l.acks.foldl (fun s x =>
    let o := objOf (m.pay.getD x.1 CReg.zero)
    if x.2 ∨ (s.objAt o).level = 5 then s.revokeFree o else s) s

/-- A message is refused: bounced to the sending domain, or discarded and counted against the destination partition when that
domain is gone, or the message is itself a bounce, a doorbell's or a fault packet (R280). One that has landed from another device goes back
to it by its acknowledgement. -/
def State.refuse (s : State) (m : Msg) : State :=
  let poisoned := s.carriesPoison m
  let lost := m.form = 6 ∨ m.form = 5 ∨ m.form = 4
  match s.landingOf m with
  | some l =>
    let s := (s.unland m l).closeLanding m l (decide ¬ lost)
    if lost then s.countPart (s.partOf m.dstCtx) 0x142 1 else s
  | none =>
    if lost then s.countPart (s.partOf m.dstCtx) 0x142 1
    else if m.srcDev = s.devOf m.srcCtx then
      let s := s.endTransit m
      if s.hasDom m.srcCore m.srcCtx then s.send_ (bounceMsg m poisoned)
      else s.countPart (s.partOf m.dstCtx) 0x142 1
    else s.send_ (bounceMsg m poisoned)

/-! ### Sending (R143, R153, R229, R279, R352) -/

/-- Whether a message's copies are all made. -/
def State.placed (s : State) (m : Msg) : Bool :=
  (m.pay.filter isOwn).all (fun c => !s.transfers.any (fun t => t.obj == objOf c && t.copyTo.isSome && t.sent.isNone))

/-- What a message brings to another device for its registers (R231, R234): homes, and bytes where a copy is to be made. A
REMOTE object is named by its own home. An object with a page that is not mapped is not copied (log 58). -/
def State.movedOf (s : State) (m : Msg) : List Moved :=
  ((List.range m.pay.length).zip m.pay).filterMap (fun (i, c) =>
    if isOwn c || isShade c then
      let e := s.objAt (objOf c)
      let here := s.devOf m.srcCtx
      let home := if e.level = 5 then (e.homeDev, e.homeObj, e.homeGen) else (here, objOf c, genOf c)
      let copy := (s.transfers.find? (fun t => t.obj == objOf c)).bind (fun t => t.copyTo)
      let mapped := e.level < 3 || (List.range ((e.length + 65535) / 65536)).all (fun j => (s.flatNow m.srcCtx (objOf c) (65536 * j)).toBool)
      let bytes := (List.range e.length).map (fun j => match s.flatNow m.srcCtx (objOf c) j with
        | .ok a => Memory.get s.mem a
        | .error _ => 0)
      let tags := (List.range ((e.length + 15) / 16)).map (fun j => match s.flatNow m.srcCtx (objOf c) (16 * j) with
        | .ok a => s.tagAt a
        | .error _ => false)
      some ⟨i, home.1, home.2.1, home.2.2, e.length, (copy.filter (fun _ => mapped)).map (fun l => (l, bytes, tags))⟩
    else none)

/-- The first message to another device that may leave: no earlier one of the same core goes to the same core (R153). -/
def State.nextOut (s : State) : List Msg → List Msg → Option Msg
  | _, [] => none
  | seen, m :: ms =>
    let far := m.dstDev != s.devOf m.dstCtx && m.dstDev != s.devOf m.srcCtx
    let first := !seen.any (fun x => x.srcCore == m.srcCore && x.dstDev == m.dstDev && x.dstCore == m.dstCore)
    if far && first && s.placed m then some m else s.nextOut (seen ++ [m]) ms

/-- Take the first message equal to m out of a list. -/
def dropMsg (l : List Msg) (m : Msg) : List Msg := l.erase m

/-- The packets in which the bytes of a copied object go before its message, 4,096 bytes in each (R347). -/
def Moved.pieces (x : Moved) : List Body :=
  match x.copy with
  | none => []
  | some (_, bs, ts) => (List.range ((bs.length + 4095) / 4096)).map (fun j =>
      .piece x.homeObj x.homeGen (4096 * j) ((bs.drop (4096 * j)).take 4096) ((ts.drop (256 * j)).take 256))

/-- What a message says of a copied object whose bytes go before it. -/
def Moved.bare (x : Moved) : Moved := { x with copy := x.copy.map (fun c => (c.1, [], [])) }

/-- The packets of a message (R347): one, where it carries its copies. DESIGN CHOICE (log 77): the spec does not say how more bytes are cut. -/
def msgBodies (m : Msg) (mv : List Moved) : List Body :=
  if (Body.msg m mv).payload ≤ 4096 then [.msg m mv] else mv.flatMap Moved.pieces ++ [.msg m (mv.map Moved.bare)]

/-- Send a message to another device; an identifier that is not mapped refuses it at once (R352). -/
def State.launchMsg (s : State) (m : Msg) : State :=
  let s0 := { s with net := dropMsg s.net m }
  let d := s0.domAt m.srcCore m.srcCtx
  match s0.injectAll (s0.partOf m.srcCtx) m.dstDev d.supv m.dstCore m.srcCore m.dstCtx (msgBodies m (s.movedOf m)) with
  | none => s0.refuse m
  | some s1 =>
    { s1 with
      transfers := s1.transfers.map (fun t =>
        if m.pay.any (fun c => isOwn c && objOf c == t.obj) then { t with sent := some (s1.time + 100000, m) } else t) }

/-- Every message to another device that may leave does so. -/
def State.launchNet (s : State) : Nat → State
  | 0 => s
  | n + 1 => match s.nextOut [] s.net with
    | some m => (s.launchMsg m).launchNet n
    | none => s

/-- A message leaves a domain: it waits at the fabric interface for a stopped context (R279), or goes on its way. -/
def State.sendMsg (s : State) (m : Msg) : State :=
  if s.held_ m.dstDev m.dstCore m.dstCtx then { s with outbox := s.outbox ++ [m] }
  else
    let s := { s with net := s.net ++ [m] }
    s.launchNet s.net.length

/-- The placement decision (R230): the level of the receive pool to copy to, or none for rights only. -/
def placement (level hint : Nat) (sameCore sameCluster sameDev : Bool) : Option Nat :=
  if sameCore then none
  else if level = 1 ∨ level = 5 then none
  else if !sameDev then
    if hint = 1 then none else if hint = 2 then some 2 else if hint = 3 then some 0 else some 3
  else if level = 0 then
    if sameCluster then (if hint = 2 then some 2 else if hint = 3 then some 0 else none)
    else if hint = 1 then none else if hint = 2 then some 2 else some 0
  else if level = 2 then
    if sameCluster then (if hint = 3 then some 0 else none)
    else if hint = 1 then none else if hint = 3 then some 0 else some 2
  else none

/-- The receive pool of a domain at a level (R223). -/
def Domain.rx (d : Domain) (level : Nat) : Option Nat := if level = 0 then d.rxls else if level = 2 then d.rxcl else d.rxhb

/-- The status word of a `send`'s c2 in a message (R143). -/
def setStatus (m : Msg) (bits : Nat) : Msg :=
  if m.form = 2 then { m with pay := [m.pay.getD 0 CReg.zero, plain ((m.pay.getD 1 CReg.zero).lo ||| bits)] } else m

/-- Change the status of the message that carries an object. -/
def State.markMsg (s : State) (o bits : Nat) : State :=
  { s with net := s.net.map (fun m => if m.pay.any (fun c => isOwn c && objOf c == o) then setStatus m bits else m) }

/-- A transfer to a domain of this device is placed (R230 to R232): the bytes move to the receiver's pool, or rights only
with FALLBACK. A fallback never waits for cleaning space. -/
def State.placeHere (s : State) (t : Transfer) (level core ctx : Nat) : State :=
  let e := s.objAt t.obj
  let s := { s with transfers := s.transfers.filter (fun x => x.obj != t.obj) }
  match (s.domAt core ctx).rx level with
  | none => s.markMsg t.obj 1
  | some pool => match s.room pool e.length true with
    | none => s.markMsg t.obj 1
    | some base => (s.rehome t.obj pool base ctx).markMsg t.obj 2

/-- The grants that a die's budget allows (R407), half of them while it is too hot (R404); at least one, since every wait ends. -/
def State.budget (s : State) (die : Nat) : Nat :=
  let b := Config.grantBudget (leNat ((s.conf.drop 0x18).take 8)) die
  max 1 (if (s.dieAt die).throttled then b / 2 else b)

/-- Whether a die grants now: within its budget, and one request in a cycle (R407). `again`: the asker gives back the grant of its last
chunk. -/
def State.grantOpen (s : State) (die : Nat) (again : Bool) : Bool :=
  let d := s.dieAt die
  decide (d.granted < s.budget die + again.toNat) && d.grantAt != some s.time

/-- A die grants leave for a unit of work; the grant of the unit before it is returned (R407). -/
def State.giveLeave (s : State) (die : Nat) (again : Bool) : State :=
  s.modDie die (fun d => { d with granted := d.granted + 1 - again.toNat, grantAt := some s.time })

/-- Grants that the copy of a transfer needs: one for each 65,536 bytes, when it is of more (R231, R407). -/
def State.copyLeave (s : State) (t : Transfer) : Nat :=
  let n := (s.objAt t.obj).length
  if t.copyTo.isSome ∧ 65536 < n then (n + 65535) / 65536 else 0

/-- TRANSFER_PLACEMENT's work: a copy gets the next grant that it needs (log 58); or it is made within the device, or the message with the
bytes leaves for another device, and the grants are returned. -/
def State.placeTransfer (s : State) (o : Nat) : State :=
  match s.transfers.find? (fun t => t.obj == o && t.sent.isNone) with
  | none => s
  | some t =>
    let die := dieOf (s.objAt o).ownCore
    if (s.clusterAt (clusterOf (s.objAt o).ownCore)).halted then s
    else if t.leave < s.copyLeave t then
      if !s.grantOpen die (decide (0 < t.leave)) then s
      else { s.giveLeave die (decide (0 < t.leave)) with
        transfers := s.transfers.map (fun x => if x.obj = o then { x with leave := x.leave + 1 } else x) }
    else
    let s := s.modDie die (fun d => { d with granted := d.granted - min 1 t.leave })
    match t.copyTo, s.net.find? (fun m => m.pay.any (fun c => isOwn c && objOf c == o)) with
    | some level, some m =>
      if m.dstDev = s.devOf m.srcCtx then s.placeHere t level m.dstCore m.dstCtx
      else
        let ts := s.transfers.map (fun (x : Transfer) => if x.obj = o then { x with sent := some (s.time, m) } else x)
        let ready := { s with transfers := ts }
        ready.launchNet ready.net.length
    | _, _ => s

/-! ### Capabilities that leave a domain (R143, R153, R231, R237) -/

/-- Whether an object holds a tagged capability with NOSEND, which a copy would take along (R231). -/
def State.holdsNoSend (s : State) (asid o : Nat) : Bool :=
  (List.range ((s.objAt o).length / 16)).any (fun j => match s.flatNow asid o (16 * j) with
    | .ok a => s.tagAt a && noSend ⟨.ofNat 128 (leNat (Memory.read s.mem a 16)), true⟩
    | .error _ => false)

/-- The sending core gives up its lines of an object: all of them for an OWN, the clean ones for a SHADE (R237); the attributions that
they lose are counted (R305). -/
def State.invalidate (s : State) (c o : Nat) (cleanOnly : Bool) : State := s.discardLines c o cleanOnly

/-- A capability leaves for a destination (R143): what the receiver gets, and what stays in the register. `reg` is the
register to report. An OWN for another domain is released, bumped and put in transit; a SHADE moves. DESIGN CHOICE (log 51): of two
copies of one OWN in a payload the second finds the generation bumped, and faults. -/
def departs (c : CReg) (reg hint dev core ctx : Nat) : Act (CReg × CReg) := do
  let s ← getS
  let me_ := s.cur.asid
  let o := objOf c
  let own := core == s.core && ctx == me_ && dev == s.devOf me_
  if !c.tag then return (c, c)
  else if kindOf c = 0 then
    if own then
      modS (fun s => s.releaseObj s.core s.slot o)
      return (c, c)
    else
      if !s.confirmed && !genCurrent (s.objAt o) (genOf c) then stopWith (capFault fCAP_GEN 4 0 reg)
      settle o
      let sameDev := dev == s.devOf me_
      awaitRemote (if sameDev then .device else .fabric)
      modS (fun s => s.releaseObj s.core s.slot o)
      let level := (s.objAt o).level
      let copy := placement level hint (sameDev && core == s.core) (sameDev && clusterOf core == clusterOf s.core) sameDev
      if copy.isSome && (← getS).holdsNoSend me_ o then stopWith (capFault fCAP_PERM 3 0 reg)
      modS (fun s => s.invalidate s.core o false)
      let n ← bumpMe c reg
      modS (fun s => s.writeEntry n { s.objAt n with transit := true })
      if copy.isSome || !sameDev then
        modS (fun s => { s with transfers := s.transfers ++ [{ obj := n, copyTo := copy, sent := none }] })
      let s ← getS
      return (s.ownCap n (rbitsOf c) (cursorOf c), c)
  else if kindOf c = 1 then
    until_ (!s.anyCmd s.core me_ (fun k => k.borrows o)) (.engine o)
    if !own then modS (fun s => s.invalidate s.core o true)
    return (c, CReg.zero)
  else return (c, c)

/-! ### Acceptance (R224, R234, R277 to R283) -/

/-- The rights of a REMOTE OWN pass to a domain of this device from one of another that is not the home: the home's owner becomes the new
one (R234; log 62). -/
def State.passOn (s : State) (mv : Moved) (c : CReg) (m : Msg) : State :=
  if isOwn c && m.srcDev != mv.homeDev then
    (s.inject (s.partOf m.dstCtx) mv.homeDev (s.domAt m.dstCore m.dstCtx).supv 0 m.dstCore m.dstCtx
      (.release m.srcDev m.srcCore m.srcCtx mv.homeObj mv.homeGen (some (s.devOf m.dstCtx, m.dstCore, m.dstCtx)))).getD s
  else s

/-- One object of a landed message is its receiver's (R234): the owner of an object that comes home, or of one whose home learns of it. -/
def State.claimMoved (s : State) (m : Msg) (acks : List (Nat × Bool)) (mv : Moved) : State :=
  let c := m.pay.getD mv.index CReg.zero
  if mv.homeDev = s.devOf m.dstCtx then
    if isOwn c && genCurrent (s.objAt mv.homeObj) mv.homeGen && !acks.contains (mv.index, true) then
      s.setOwner mv.homeObj (s.devOf m.dstCtx) m.dstCore m.dstCtx
    else s
  else if acks.contains (mv.index, true) then s else s.passOn mv c m

/-- A message that has landed from another device is accepted, and its sender learns of it (R229, R234). -/
def State.accepted (s : State) (m : Msg) : State :=
  match s.landingOf m with
  | none => s
  | some l =>
    let s := match l.packet.body with
      | .msg _ mv => mv.foldl (fun (s : State) x => s.claimMoved m l.acks x) s
      | _ => s
    s.closeLanding m l false

/-- Deliver the OWNs of a message to its receiver: owner set, transit cleared (R224). A bounce changes no owner. -/
def State.deliver (s : State) (m : Msg) : State :=
  let s := s.accepted m
  let os := (m.pay.filter isOwn).map objOf
  let inDom := m.srcDev == m.dstDev && m.srcCore == m.dstCore && m.srcCtx == m.dstCtx
  if m.form = 6 ∨ m.form = 4 ∨ m.form = 5 ∨ inDom then s
  else
    let s := os.foldl (fun s o =>
      if (s.objAt o).transit then
        (s.setOwner o m.dstDev m.dstCore m.dstCtx).modObj o (fun e => { e with transit := false })
      else s) s
    { s with transfers := s.transfers.filter (fun t => !os.contains t.obj) }

/-- Records of messages in a domain's heap. -/
def Domain.msgRecs (d : Domain) : Bool :=
  d.heap.any (fun r => match r with
    | .message .. => true
    | .work _ => false)

/-- CLASS of a message. -/
def Msg.cls (m : Msg) : Nat := bitsAt m.hdr.toNat 0 6

/-- Whether a domain has a binding for a class. -/
def Domain.bound (d : Domain) (cls : Nat) : Bool := (lookT d.bindings cls).isSome

/-- The nine granules of a heap record (R281). -/
def HeapRec.granules : HeapRec → List CReg
  | .message m held _ => plainQ (m.hdr.toNat + 2 ^ 64 * held.toNat) :: (List.range 8).map (fun i => m.pay.getD i CReg.zero)
  | .work w => plainQ (2 * 2 ^ 64) :: plain w.word.toNat :: w.reg :: List.replicate 6 CReg.zero

/-- A domain's records as they lie in its heap's object, behind its 64 bytes of indices (R281). DESIGN CHOICE (log 41): the oldest record
comes first, and the indices are the number of records, in the first doubleword. -/
def State.layHeap (s : State) (core asid : Nat) : State :=
  let d := s.domAt core asid
  let o := objOf d.heapCap
  let one (s : State) (k : Nat) (r : HeapRec) : State :=
    ((List.range 9).zip r.granules).foldl (fun s g => match s.flatNow asid o (64 + 144 * k + 16 * g.1) with
      | .ok a => s.writeGranule a g.2
      | .error _ => s) s
  let index (s : State) (g : Nat) : State := match s.flatNow asid o (16 * g) with
    | .ok a => s.writeGranule a (plain (if g = 0 then d.heap.length else 0))
    | .error _ => s
  if d.heapCap.tag then ((List.range d.heap.length).zip d.heap).foldl (fun s x => one s x.1 x.2) ((List.range 4).foldl index s) else s

/-- Change the records of a domain's heap. -/
def State.setHeap (s : State) (core asid : Nat) (f : List HeapRec → List HeapRec) : State :=
  (s.modDom core asid (fun d => { d with heap := f d.heap })).layHeap core asid

/-- A message record takes its place in arrival order (R278, R283). -/
def insertRec (r : HeapRec) (order : Nat) : List HeapRec → List HeapRec
  | [] => [r]
  | x :: xs => match x with
    | .message _ _ n => if order < n then r :: x :: xs else x :: insertRec r order xs
    | .work _ => x :: insertRec r order xs

/-- A message record goes to its domain's heap, which has room (R282, R283); it counts for a domain (R387). -/
def State.toHeap (s : State) (m : Msg) (held : Bool) (order by_ : Nat) : State :=
  (s.setHeap m.dstCore m.dstCtx (insertRec (.message m held order) order)).count m.dstCore by_ 0x105 1

/-- Whether a domain's heap has room for a record. -/
def Domain.heapRoom (d : Domain) : Bool := decide (d.heap.length < d.heapSize)

/-- The packet to the supervisor when a heap is full (R284). -/
def State.heapFull (s : State) (m : Msg) : State :=
  s.informPacket (s.domAt m.dstCore m.dstCtx).part m.dstCore m.dstCtx 3 15 { code := fHEAP_EXHAUSTED, arg := m.cls }

/-- Held entries of a core's inbox (R278). -/
def Core.heldCount (k : Core) : Nat := k.inbox.countP (fun e => e.held)

/-- A continuation meets its strand (R161): it is written and the strand made ready, it must wait, or it is discarded. DESIGN CHOICE
(log 53): one that names s0 or s15 is discarded too. -/
def State.continueAt (s : State) (m : Msg) : Option State :=
  let u := m.hdr.toNat
  let i := bitsAt u 48 4
  let r := bitsAt u 40 5
  let t := s.slotAt m.dstCore i
  if r = 0 ∨ i = 0 ∨ i = 15 ∨ t.state = .vacant ∨ t.asid ≠ m.dstCtx then some (s.countPart (s.partOf m.dstCtx) 0x142 1)
  else if t.state = .wait .continuation then
    let s := s.modSlot m.dstCore i (fun t =>
      { t with state := .ready, c := putT t.c r (m.pay.getD 0 CReg.zero), given := some (m.pay.getD 0 CReg.zero) })
    some (match m.clk with
      | some x => s.acquireAt m.dstCore i x
      | none => s.rereadLines m.dstCore)
  else none

/-- The first message on its way to a core from each source core, in order. -/
def State.arrivals (s : State) (c : Nat) : List Msg :=
  let mine := s.net.filter (fun m => m.dstCore == c && m.dstDev == s.devOf m.dstCtx)
  mine.foldl (fun l m => if l.any (fun x => x.srcCore == m.srcCore && x.srcDev == m.srcDev) then l else l ++ [m]) []

/-- A message that arrives takes the next place in its core's arrival order. -/
def State.numbered (s : State) (c : Nat) : State := s.modCore c (fun k => { k with arrived := k.arrived + 1 })

/-- A message at the network port is accepted into its domain's heap; a full heap bounces it (R229, R283, R284). -/
def State.acceptHeap (s : State) (m : Msg) (held : Bool) : State :=
  if (s.domAt m.dstCore m.dstCtx).heapRoom then
    ((s.deliver m).toHeap m held (s.coreAt m.dstCore).arrived m.dstCtx).numbered m.dstCore
  else (s.refuse m).heapFull m

/-- The entry of a list that arrived first (R277, R282). -/
def oldest (l : List InboxEntry) : Option InboxEntry :=
  l.foldl (fun b e => match b with
    | none => some e
    | some x => if e.order < x.order then some e else some x) none

/-- A message arrives at its core (R277, R278, R280, R283, R336): refused, written behind its domain's heap records, put
into the inbox (held when its class has no binding), or left in the network port when the inbox is full or the held area
overflows, which begins a spill-out episode (R282). -/
def State.arrive (s : State) (m : Msg) : State :=
  let k := s.coreAt m.dstCore
  let s0 := { s with net := dropMsg s.net m }
  if !s.hasDom m.dstCore m.dstCtx ∨ k.outOfService then s0.refuse m
  else if s.carriesPoison m then s0.refuse m
  else
    let d := s.domAt m.dstCore m.dstCtx
    let held := if m.form = 3 then true else !d.bound m.cls
    match (if m.form = 3 ∧ !d.msgRecs then (s0.accepted m).continueAt m else none) with
    | some s' => s'
    | none =>
      if d.msgRecs then s0.acceptHeap m held
      else if 64 ≤ k.inbox.length ∨ (held ∧ 16 ≤ k.heldCount) then
        s.modCore m.dstCore (fun k => { k with episode := true, episodeBy := if k.episode then k.episodeBy else m.dstCtx })
      else
        let s1 := ((s0.deliver m).modCore m.dstCore (fun k => { k with inbox := k.inbox ++ [⟨m, held, k.arrived⟩] })).numbered m.dstCore
        s1.modCore m.dstCore (fun k =>
          if k.inbox.length < 64 then k else { k with episode := true, episodeBy := if k.episode then k.episodeBy else m.dstCtx })

/-- The registers of a message strand (R18, R152). -/
def msgSlot (m : Msg) (code : CReg) : Slot :=
  let regs := ((List.range 8).zip m.pay).foldl (fun t (i, v) => putT t (i + 1) v) ([] : Tab CReg)
  { Slot.vacant with kind := 2, asid := m.dstCtx, c := putT regs 9 (plain m.hdr.toNat), code := code, seed := m.hdr,
                     cls := m.cls }

/-- A message claims a slot: its strand starts with the handler in force (R277, R298, R299). -/
def State.claimSlot (s : State) (c i : Nat) (m : Msg) : State :=
  let code := (lookT (s.domAt c m.dstCtx).bindings m.cls).getD CReg.zero
  let s := (s.startIn c i m.clk (msgSlot m code)).rereadLines c
  s.trace 1 (s.domAt c m.dstCtx).part c i m.dstCtx (bitsAt code.val.toNat 0 48) m.hdr.toNat

end Sys2Proof.Machine
end

