-- ==== Sys2Proof/Machine/Fp.lean ====
section
/-! DEFINITION. The strand's floating-point state: controls from FPMODE (R87), flags (R88) and the generator (R92). -/

namespace Sys2Proof.Machine

/-- RM of a strand (R87). -/
def Slot.rm (t : Slot) : Nat := bitsAt t.fpmode.toNat 0 3

/-- Whether RM is stochastic (R87, R92). -/
def Slot.stochastic (t : Slot) : Bool := t.rm == 4

/-- The controls of a strand with a way to handle subnormals and a random value. -/
def Slot.ctl (t : Slot) (subn u : Nat) : Ctl := ⟨t.rm, bit t.fpmode.toNat 5, bit t.fpmode.toNat 6, subn, u⟩

/-- One step of the strand's generator: its random value, and the strand with its new state (R92). -/
def Slot.roll (t : Slot) : Nat × Slot :=
  let x := xorStep t.seed.toNat
  (randOf x, { t with seed := .ofNat 64 x })

/-- Flags raised are kept in FPFLAGS (R88). -/
def Slot.raise (t : Slot) (fl : Nat) : Slot := { t with fpflags := t.fpflags ||| .ofNat 64 fl }

end Sys2Proof.Machine
end

