-- ==== Sys2Proof/Machine/Integer.lean ====
section
/-! DEFINITION. Integer instructions (R103 to R111). -/

namespace Sys2Proof.Machine

/-! ### Functions on 64-bit values -/

/-- The condition of R49 on two 64-bit values. -/
def condHolds (c : Cond) (a b : Nat) : Bool :=
  match c with
  | .eq => a == b
  | .ne => a != b
  | .lt => decide (sintN a 64 < sintN b 64)
  | .ge => decide (sintN b 64 ≤ sintN a 64)
  | .lo => decide (a < b)
  | .hs => decide (b ≤ a)

/-- Shift right with the sign, rounding toward −∞ (R104). -/
def sraN (a sh : Nat) : Nat := bitsN (sintN a 64 / (2 ^ sh : Nat)) 64

/-- The lesser or the greater as signed values (R104). -/
def minS (a b : Nat) : Nat := if sintN a 64 ≤ sintN b 64 then a else b
/-- The greater as signed values (R104). -/
def maxS (a b : Nat) : Nat := if sintN a 64 ≤ sintN b 64 then b else a

/-- A sign-extended immediate as 64 bits (R105). -/
def immN {n : Nat} (imm : BitVec n) : Nat := bitsN imm.toInt 64

/-- Rotate left (R106). -/
def rolN (a sh : Nat) : Nat := (a * 2 ^ sh + a / 2 ^ (64 - sh)) % 2 ^ 64

/-- Chunk POS of a value replaced (R52). -/
def chunkPut (x pos imm : Nat) : Nat := x - field (bitsAt x (16 * pos) 16) (16 * pos) 16 + field imm (16 * pos) 16

/-- `div` (R109). -/
def divS (a b : Nat) : Nat := if b = 0 then 2 ^ 64 - 1 else bitsN (Int.tdiv (sintN a 64) (sintN b 64)) 64
/-- `divn` (R109). -/
def divU (a b : Nat) : Nat := if b = 0 then 2 ^ 64 - 1 else a / b
/-- `rem` (R109). -/
def remS64 (a b : Nat) : Nat := if b = 0 then a else bitsN (Int.tmod (sintN a 64) (sintN b 64)) 64
/-- `remn` (R109). -/
def remU (a b : Nat) : Nat := if b = 0 then a else a % b

/-- Leading zeros of a value below 2^n (R110). -/
def clzN (a : Nat) : Nat → Nat
  | 0 => 0
  | n + 1 => if bit a n then 0 else 1 + clzN a n

/-- Trailing zeros, from bit k upward, of n bits (R110). -/
def ctzN (a k : Nat) : Nat → Nat
  | 0 => 0
  | n + 1 => if bit a k then 0 else 1 + ctzN a (k + 1) n

/-- One bits (R110). -/
def popcN (a : Nat) : Nat := ((List.range 64).filter (fun i => bit a i)).length

/-- Bits reversed (R110). -/
def brevN (a : Nat) : Nat := (List.range 64).foldl (fun x i => x + (bit a i).toNat * 2 ^ (63 - i)) 0

/-- Bytes reversed (R110). -/
def bswapN (a : Nat) : Nat := leNat (leBytes 8 a).reverse

/-- The length of the field that `bext` and `bins` act on (R110). -/
def bfLen (b : Nat) : Nat := min (bitsAt b 8 7) (64 - bitsAt b 0 6)

/-- `bext` (R110). -/
def bextN (a b : Nat) : Nat := a / 2 ^ bitsAt b 0 6 % 2 ^ bfLen b

/-- `bins` (R110). -/
def binsN (d a b : Nat) : Nat :=
  let pos := bitsAt b 0 6
  d - bitsAt d pos (bfLen b) * 2 ^ pos + field a pos (bfLen b)

/-- `add` (R104). -/
def execAdd (d a b : CR) (s : State) : Out :=
  issue_ 4 (op3 d a b (fun x y => (x + y) % 2 ^ 64)) s

/-- `sub` (R104). -/
def execSub (d a b : CR) (s : State) : Out :=
  issue_ 4 (op3 d a b (fun x y => bitsN ((x : Int) - y) 64)) s

/-- `and` (R104). -/
def execAnd (d a b : CR) (s : State) : Out :=
  issue_ 4 (op3 d a b (fun x y => x &&& y)) s

/-- `or` (R104). -/
def execOr (d a b : CR) (s : State) : Out :=
  issue_ 4 (op3 d a b (fun x y => x ||| y)) s

/-- `xor` (R104). -/
def execXor (d a b : CR) (s : State) : Out :=
  issue_ 4 (op3 d a b (fun x y => x ^^^ y)) s

/-- `shl` (R104). -/
def execShl (d a b : CR) (s : State) : Out :=
  issue_ 4 (op3 d a b (fun x y => x * 2 ^ (y % 64) % 2 ^ 64)) s

/-- `shr` (R104). -/
def execShr (d a b : CR) (s : State) : Out :=
  issue_ 4 (op3 d a b (fun x y => x / 2 ^ (y % 64))) s

/-- `sra` (R104). -/
def execSra (d a b : CR) (s : State) : Out :=
  issue_ 4 (op3 d a b (fun x y => sraN x (y % 64))) s

/-- `min` (R104). -/
def execMin (d a b : CR) (s : State) : Out :=
  issue_ 4 (op3 d a b (fun x y => minS x y)) s

/-- `max` (R104). -/
def execMax (d a b : CR) (s : State) : Out :=
  issue_ 4 (op3 d a b (fun x y => maxS x y)) s

/-- `minn` (R104). -/
def execMinn (d a b : CR) (s : State) : Out :=
  issue_ 4 (op3 d a b (fun x y => min x y)) s

/-- `maxn` (R104). -/
def execMaxn (d a b : CR) (s : State) : Out :=
  issue_ 4 (op3 d a b (fun x y => max x y)) s

/-- `add.q` (R104). -/
def execAddQ (d a b : CR) (s : State) : Out :=
  issue_ 4 (op3q d a b (fun x y => (x + y) % 2 ^ 128)) s

/-- `sub.q` (R104). -/
def execSubQ (d a b : CR) (s : State) : Out :=
  issue_ 4 (op3q d a b (fun x y => bitsN ((x : Int) - y) 128)) s

/-- `and.q` (R104). -/
def execAndQ (d a b : CR) (s : State) : Out :=
  issue_ 4 (op3q d a b (fun x y => x &&& y)) s

/-- `or.q` (R104). -/
def execOrQ (d a b : CR) (s : State) : Out :=
  issue_ 4 (op3q d a b (fun x y => x ||| y)) s

/-- `xor.q` (R104). -/
def execXorQ (d a b : CR) (s : State) : Out :=
  issue_ 4 (op3q d a b (fun x y => x ^^^ y)) s

/-- `set.cc` (R104). -/
def execSetCc (d a b : CR) (c : Cond) (s : State) : Out :=
  issue_ 4 (op3 d a b (fun x y => (condHolds c x y).toNat)) s

/-- `addi` (R105). -/
def execAddi (d a : CR) (imm : BitVec 15) (s : State) : Out :=
  issue_ 4 (op2 d a (fun x => (x + immN imm) % 2 ^ 64)) s

/-- `andi` (R105). -/
def execAndi (d a : CR) (imm : BitVec 15) (s : State) : Out :=
  issue_ 4 (op2 d a (fun x => x &&& immN imm)) s

/-- `ori` (R105). -/
def execOri (d a : CR) (imm : BitVec 15) (s : State) : Out :=
  issue_ 4 (op2 d a (fun x => x ||| immN imm)) s

/-- `xori` (R105). -/
def execXori (d a : CR) (imm : BitVec 15) (s : State) : Out :=
  issue_ 4 (op2 d a (fun x => x ^^^ immN imm)) s

/-- `shli` (R106). -/
def execShli (d a : CR) (sh : BitVec 6) (s : State) : Out :=
  issue_ 4 (op2 d a (fun x => x * 2 ^ sh.toNat % 2 ^ 64)) s

/-- `shri` (R106). -/
def execShri (d a : CR) (sh : BitVec 6) (s : State) : Out :=
  issue_ 4 (op2 d a (fun x => x / 2 ^ sh.toNat)) s

/-- `srai` (R106). -/
def execSrai (d a : CR) (sh : BitVec 6) (s : State) : Out :=
  issue_ 4 (op2 d a (fun x => sraN x sh.toNat)) s

/-- `roli` (R106). -/
def execRoli (d a : CR) (sh : BitVec 6) (s : State) : Out :=
  issue_ 4 (op2 d a (fun x => rolN x sh.toNat)) s

/-- `seti.cc` (R107). -/
def execSetiCc (d a : CR) (c : Cond) (imm : BitVec 12) (s : State) : Out :=
  issue_ 4 (op2 d a (fun x => (condHolds c x (immN imm)).toNat)) s

/-- `lk.z` (R52, R108). -/
def execLkZ (d : CR) (pos : BitVec 2) (imm : BitVec 16) (s : State) : Out :=
  issue_ 4 (do
    dirs [] [d]
    dst d (plain (imm.toNat * 2 ^ (16 * pos.toNat)))) s

/-- `lk.k` (R52, R108). -/
def execLkK (d : CR) (pos : BitVec 2) (imm : BitVec 16) (s : State) : Out :=
  issue_ 4 (op2 d d (fun x => chunkPut x pos.toNat imm.toNat)) s

/-- `lk.s` (R52, R108). -/
def execLkS (d : CR) (pos : BitVec 2) (imm : BitVec 16) (s : State) : Out :=
  issue_ 4 (do
    dirs [] [d]
    dst d (plain (bitsN (imm.toInt * (2 ^ (16 * pos.toNat) : Nat)) 64))) s

/-- `mul` (R109). -/
def execMul (d a b : CR) (s : State) : Out :=
  issue_ 4 (op3 d a b (fun x y => x * y % 2 ^ 64)) s

/-- `mulh` (R109). -/
def execMulh (d a b : CR) (s : State) : Out :=
  issue_ 4 (op3 d a b (fun x y => bitsN (sintN x 64 * sintN y 64 / (2 ^ 64 : Nat)) 64)) s

/-- `mulhn` (R109). -/
def execMulhn (d a b : CR) (s : State) : Out :=
  issue_ 4 (op3 d a b (fun x y => x * y / 2 ^ 64)) s

/-- `div` (R109). -/
def execDiv (d a b : CR) (s : State) : Out :=
  issue_ 4 (op3 d a b (fun x y => divS x y)) s

/-- `divn` (R109). -/
def execDivn (d a b : CR) (s : State) : Out :=
  issue_ 4 (op3 d a b (fun x y => divU x y)) s

/-- `rem` (R109). -/
def execRemS (d a b : CR) (s : State) : Out :=
  issue_ 4 (op3 d a b (fun x y => remS64 x y)) s

/-- `remn` (R109). -/
def execRemn (d a b : CR) (s : State) : Out :=
  issue_ 4 (op3 d a b (fun x y => remU x y)) s

/-- `mulx` (R109). -/
def execMulx (d a b : CR) (s : State) : Out :=
  issue_ 4 (op3q d a b (fun x y => bitsN (sintN x 64 * sintN y 64) 128)) s

/-- `mulxn` (R109). -/
def execMulxn (d a b : CR) (s : State) : Out :=
  issue_ 4 (op3q d a b (fun x y => x % 2 ^ 64 * (y % 2 ^ 64))) s

/-- `clz` (R110). -/
def execClz (d a : CR) (s : State) : Out :=
  issue_ 4 (op2 d a (fun x => clzN x 64)) s

/-- `ctz` (R110). -/
def execCtz (d a : CR) (s : State) : Out :=
  issue_ 4 (op2 d a (fun x => ctzN x 0 64)) s

/-- `popc` (R110). -/
def execPopc (d a : CR) (s : State) : Out :=
  issue_ 4 (op2 d a (fun x => popcN x)) s

/-- `brev` (R110). -/
def execBrev (d a : CR) (s : State) : Out :=
  issue_ 4 (op2 d a (fun x => brevN x)) s

/-- `bswap` (R110). -/
def execBswap (d a : CR) (s : State) : Out :=
  issue_ 4 (op2 d a (fun x => bswapN x)) s

/-- `bext` (R110). -/
def execBext (d a b : CR) (s : State) : Out :=
  issue_ 4 (op3 d a b (fun x y => bextN x y)) s

/-- `bins`, which also reads its destination (R110). -/
def execBins (d a b : CR) (s : State) : Out :=
  issue_ 4 (do
    dirs [a, b, d] [d]
    let x ← src a
    let y ← src b
    let z ← src d
    dst d (plain (binsN z.lo x.lo y.lo))) s

/-- `andn` (R110). -/
def execAndn (d a b : CR) (s : State) : Out :=
  issue_ 4 (op3 d a b (fun x y => x &&& (2 ^ 64 - 1 - y))) s

/-- `addpc`: the code capability with its CURSOR at the target; ILLEGAL for c0 (R23, R111). -/
def execAddpc (d : CR) (k : BitVec 15) (s : State) : Out :=
  issue_ 4 (do
    if d = 0 then illegal
    dirs [] [d]
    let t ← me
    dst d { withPc t.code (bitsN (t.pc + 2 * k.toInt) 48) with tag := true }) s

end Sys2Proof.Machine
end

