-- ==== Sys2Proof/Machine/Control.lean ====
section
/-! DEFINITION. Control transfer (R112 to R117) and strand control (R118 to R120). -/

namespace Sys2Proof.Machine

/-- Go to a branch target after the check of R113. -/
def branchTo (off : Int) : Act Flow := do
  let s ← getS
  let t := s.cur
  let x : Int := t.pc + 2 * off
  if x < 0 ∨ ((s.objAt (objOf t.code)).length : Int) < x + 2 then
    stopWith (capFault fCAP_BOUNDS 5 0 0 (bitsN x 48))
  else return .jump x.toNat

/-- A branch that is taken when a condition holds (R113). -/
def branchIf (c : Bool) (off : Int) : Act Flow := if c then branchTo off else pure .next

/-- The link that `bl` and `brl` leave in c31 (R114, R116). -/
def linkOf (t : Slot) (len : Nat) : CReg := { withPc t.code ((t.pc + len) % 2 ^ 48) with tag := true }

/-- `b` (R114). -/
def execB (k : BitVec 25) (s : State) : Out := issue 4 (branchTo k.toInt) s

/-- `bl` (R114). -/
def execBl (k : BitVec 25) (s : State) : Out :=
  issue 4 (do
    let f ← branchTo k.toInt
    setRaw 31 (linkOf (← me) 4)
    return f) s

/-- `b.cc` (R115). -/
def execBcc (a b : CR) (c : Cond) (k : BitVec 12) (s : State) : Out :=
  issue 4 (do
    dirs [a, b] []
    let x ← src a
    let y ← src b
    branchIf (condHolds c x.lo y.lo) k.toInt) s

/-- The condition of R49 on a register against zero. -/
def condZHolds (c : CondZ) (a : Nat) : Bool :=
  match c with
  | .eqz => a == 0
  | .nez => a != 0
  | .ltz => decide (sintN a 64 < 0)
  | .gez => decide (0 ≤ sintN a 64)
  | .gtz => decide (0 < sintN a 64)
  | .lez => decide (sintN a 64 ≤ 0)

/-- A branch on a register against zero (R115). -/
def branchZ (a : CR) (c : CondZ) (off : Int) : Act Flow := do
  dirs [a] []
  let x ← src a
  branchIf (condZHolds c x.lo) off

/-- `b.ccz` (R115). -/
def execBccz (a : CR) (c : CondZ) (k : BitVec 17) (s : State) : Out := issue 4 (branchZ a c k.toInt) s

/-- Branch to the CODE capability of a register, with a link for `brl` (R116). -/
def branchCap (a : CR) (link : Bool) (len : Nat) : Act Flow := do
  dirs [a] []
  let target ← src a
  let spot ← checkCapV .fetch target a.val 0 0 2 2
  let _ ← flatAct spot.obj spot.loc
  if link then setRaw 31 (linkOf (← me) len)
  return .code (withPc target spot.loc)

/-- `br` (R116). -/
def execBr (a : CR) (s : State) : Out := issue 4 (branchCap a false 4) s

/-- `brl` (R116). -/
def execBrl (a : CR) (s : State) : Out := issue 4 (branchCap a true 4) s

/-- `ret` (R116). -/
def execRet (s : State) : Out := issue 4 (branchCap 31 false 4) s

/-- `dbnz` (R117). -/
def execDbnz (a : CR) (k : BitVec 17) (s : State) : Out :=
  issue 4 (do
    dirs [a] [a]
    let v ← src a
    let x := bitsN ((v.lo : Int) - 1) 64
    let f ← branchIf (x != 0) k.toInt
    dst a (plain x)
    return f) s

/-- `nop` (R118). -/
def execNop (s : State) : Out := issue_ 4 (pure ()) s

/-- `yield`: the slot's next turn passes to another (R118). -/
def execYield (s : State) : Out := issue_ 4 (modS (fun s => s.modCur (fun t => { t with yielded := true }))) s

/-- `trap` freezes the strand (R120). -/
def execTrap (code : BitVec 12) (s : State) : Out := issue 4 (stopWith { code := fTRAP, arg := code.toNat }) s

/-- `brk` freezes the strand, whose BREAK fires the cross-trigger of a cluster that is armed and set to break (R120, R337). -/
def execBrk (code : BitVec 12) (s : State) : Out := issue 4 (stopWith { code := fBREAK, arg := code.toNat }) s

/-! ### End of a strand (R119, R328) -/

/-- The return from the assist: the frame replaces the live state, but for the clock, which only grows (log 8), and the strand goes on after the instruction, or at the
pc that the routine has set (R328). The instruction of a replay has then been done: its loop goes on with the next, and the
strand with its run-ahead pc (R183). The frame of a pair is freed when the trailing member returns. -/
def endAssist (f : Frame) : Act Flow := do
  modS (fun s => s.drain s.core s.slot)
  let t ← me
  if t.pair ≠ 1 then modS (fun s => s.dropFrame t)
  let pc := bitsAt f.code.val.toNat 0 48
  modS (fun s => s.modCur (fun t =>
    { t with c := f.c, v := f.v, p := f.p, code := f.code, fpmode := f.fpmode, fpflags := f.fpflags, seed := f.seed,
             streams := f.streams, region := f.region, loop := f.loop, barrier := f.barrier, frame := none }))
  let next : Nat := match f.loop with
    | some l => if l.stopped then l.ahead else pc + f.len
    | none => pc + f.len
  modS (fun s =>
    if f.loop.any (fun l => l.stopped) then (s.modCur Slot.advanceLoop).freeLoop s.core else s)
  return .jump (if pc = f.pc0 then next else pc)

/-- Whether a register of the check range of `end` holds a tagged SHADE (R119). -/
def endHoldsShade (t : Slot) : Bool :=
  t.c.any (fun p => decide ((if t.kind = 1 then 2 else 1) ≤ p.1) && isShade p.2)

/-- What `end` does once it takes effect (R119 steps 2 to 5). -/
def endNow : Act Unit := do
  modS (fun s => s.modCur (fun t => { t with region := none }))
  releaseMe .domain
  let t ← me
  if t.kind = 1 then
    tickMe
    let x ← myClock
    let t ← me
    modS (fun s => s.endHandle s.core t.asid t.serial (t.reg 1) x)
  modS (fun s =>
    let s := if t.pair = 1 then s.vacate s.core t.partner else s
    s.vacate s.core s.slot)

/-- `end` (R119); in the assist routine, its return (R328). A pair ends as one unit (R331): its trailing member waits for
the leading member's end. A loop that replays ends first (R182). -/
def execEndStrand (s : State) : Out :=
  issue 4 (do
    let t ← me
    match t.frame with
    | some f => endAssist f
    | none =>
      if endHoldsShade t then fault fCAP_PERM
      effect [t.reg 1] 0 endNow
      if t.pair = 2 then waitFor .pairing
      return .settled) s

end Sys2Proof.Machine
end

