-- ==== Sys2Proof/Machine/Compact.lean ====
section
/-! DEFINITION. Compact forms of integer and control instructions (R70 to R72), and patterns that are not instructions (R68,
R69). The compact loads and stores stand with the loads and stores. -/

namespace Sys2Proof.Machine

/-- The register of a 4-bit field (R70). -/
def cr4 (k : BitVec 4) : CR := ⟨k.toNat, by have := k.isLt; omega⟩
/-- The register of a 3-bit field (R70). -/
def cr3 (k : BitVec 3) : CR := ⟨8 + k.toNat, by have := k.isLt; omega⟩

/-- `c.addi` (R71). -/
def execCAddi (d : BitVec 4) (imm : BitVec 7) (s : State) : Out :=
  issue_ 2 (op2 (cr4 d) (cr4 d) (fun x => (x + immN imm) % 2 ^ 64)) s

/-- `c.mov` (R71): the bits, untagged. -/
def execCMov (d a : BitVec 4) (s : State) : Out := issue_ 2 (op2 (cr4 d) (cr4 a) (fun x => x)) s

/-- `c.add` (R71). -/
def execCAdd (d a : BitVec 4) (s : State) : Out :=
  issue_ 2 (op3 (cr4 d) (cr4 d) (cr4 a) (fun x y => (x + y) % 2 ^ 64)) s

/-- `c.sub` (R71). -/
def execCSub (d a : BitVec 4) (s : State) : Out :=
  issue_ 2 (op3 (cr4 d) (cr4 d) (cr4 a) (fun x y => bitsN ((x : Int) - y) 64)) s

/-- `c.li` (R71). -/
def execCLi (d : BitVec 4) (imm : BitVec 7) (s : State) : Out :=
  issue_ 2 (do
    dirs [] [cr4 d]
    dst (cr4 d) (plain (immN imm))) s

/-- `c.b` (R71). -/
def execCB (k : BitVec 11) (s : State) : Out := issue 2 (branchTo k.toInt) s

/-- `c.beqz` (R71). -/
def execCBeqz (a : BitVec 3) (k : BitVec 8) (s : State) : Out := issue 2 (branchZ (cr3 a) .eqz k.toInt) s

/-- `c.bnez` (R71). -/
def execCBnez (a : BitVec 3) (k : BitVec 8) (s : State) : Out := issue 2 (branchZ (cr3 a) .nez k.toInt) s

/-- `c.ret` (R71). -/
def execCRet (s : State) : Out := issue 2 (branchCap 31 false 2) s

/-- `c.nop` (R71). -/
def execCNop (s : State) : Out := issue_ 2 (pure ()) s

/-- A pattern that is not an instruction (R68, R69): the strand freezes before any operand is read. -/
def execIllegal (_ : BitVec 32) (compact : Bool) (s : State) : Out := issue (if compact then 2 else 4) illegal s

end Sys2Proof.Machine
end

