-- ==== Sys2Proof/Machine/Sched.lean ====
section
/-! DEFINITION. Pre-emption (R287 to R291): saved contexts, the requests of the scheduling window, stopping and resuming a domain
(R279), and the operations of CONTROL on a strand (R325, R333). -/

namespace Sys2Proof.Machine

/-! ### The thread-context cache (R287) -/

/-- Entries of the cache in use: saved strands, assist frames, and strands that an OUT is about to save (R287, R289, R327). -/
def Core.cacheUsed (k : Core) : Nat :=
  ((k.tcc.filter (fun v => v.inCache)).flatMap (fun v => v.images)).length
    + (k.slots.filter (fun p => p.2.frame.isSome)).length
    + (k.slots.filter (fun p => p.2.pend.out.isSome && p.2.state != .swap)).length

/-- The domain of a saved context. -/
def Saved.asid (v : Saved) : Nat := (v.images.headD Slot.vacant).asid

/-- Whether a saved context is a control strand that has not started (R270 step 6). Handles above 16 bits are the model's names of
strands that no request can name. -/
def Saved.starting (v : Saved) : Bool := v.control && decide (65535 < v.handle)

/-- Images in the save area of a domain of a core. -/
def Core.areaUsed (k : Core) (asid : Nat) : Nat :=
  ((k.tcc.filter (fun v => !v.inCache && v.asid == asid)).flatMap (fun v => v.images)).length

/-- The least recently saved entry of the cache. -/
def Core.oldestSaved (k : Core) : Option Saved := k.tcc.find? (fun v => v.inCache)

/-- Make room in the cache for n entries, by writing the least recently saved to their save areas of 16 images; none when an
area is full (R287, R289). -/
def Core.makeRoom (k : Core) (n : Nat) : Nat → Option Core
  | 0 => none
  | fuel + 1 =>
    if k.cacheUsed + n ≤ 32 then some k
    else match k.oldestSaved with
      | none => none
      | some v =>
        if 16 < k.areaUsed v.asid + v.images.length then none
        else
          let t := k.tcc.map (fun (x : Saved) => if x.handle = v.handle then { x with inCache := false } else x)
          ({ k with tcc := t }).makeRoom n fuel

/-- The next handle that names no saved context (R288). -/
def Core.freeHandle (k : Core) : Nat :=
  ((List.range (k.tcc.length + 1)).map (fun i => (k.nextHandle - 1 + i) % 65535 + 1)).find?
    (fun h => k.tcc.all (fun v => v.handle != h)) |>.getD k.nextHandle

/-- A saved context by its handle. -/
def Core.saved (k : Core) (h : Nat) : Option Saved := k.tcc.find? (fun v => v.handle == h)

/-- Replace a saved context. -/
def Core.setSaved (k : Core) (v : Saved) : Core := { k with tcc := k.tcc.map (fun x => if x.handle == v.handle then v else x) }

/-- The members of the unit that a slot belongs to, the leading one first (R333). -/
def State.unitSlots (s : State) (c i : Nat) : List Nat :=
  let t := s.slotAt c i
  if t.pair = 1 then [i, t.partner] else if t.pair = 2 then [t.partner, i] else [i]

/-! ### OUT (R289 to R291) -/

/-- A strand asked to leave: requests in deferred lists and for a start are withdrawn, and what it waits for, but for an
outstanding access and a barrier, is asked for again later (R291). -/
def Slot.recall (t : Slot) : Slot :=
  match t.state with
  | .wait w => match w with
    | .reply _ _ | .line _ _ _ | .walk _ _ _ | .commit | .translation _ | .scatter _ _ | .barrier _ _ | .continuation => t
    | .entry _ | .transit _ | .deferred _ | .retry _ | .anyTag _ | .allTags _ | .port _ | .element _ | .bank _ | .engine _
    | .filled _ _ | .room _ _ | .queueBusy _ | .loop | .helper | .handle _ | .stores | .cleaning _ | .work
    | .allowance _ _ _ | .shuffle _ _ | .pairing | .rebase | .contexts | .remote | .edge _ | .cancelled _ | .check _ | .tlb _ _ | .code _ =>
      { t with state := .ready, again := false }
  | .ready => { t with again := false }
  | .vacant => t
  | .frozen => t
  | .swap => t

/-- The requests of a slot leave the deferred lists and the waiting starts (R291). -/
def State.withdraw (s : State) (c i : Nat) : State :=
  let dev := s.devOf (s.slotAt c i).asid
  let s := { s with waiters := s.waiters.filter (fun w => !(w.core == c && w.slot == i && w.dev == dev)) }
  s.modCore c (fun k => { k with starts := k.starts.filter (fun j => j != i) })

/-- Mark the strands of a unit to be saved (R290); the slot that was named knows the handle of an EXCHANGE. -/
def State.markOut (s : State) (c i : Nat) (pairAll : Bool) (thenIn : Option Nat) : State :=
  (s.unitSlots c i).foldl (fun s j =>
    (s.withdraw c j).modSlot c j (fun t => { t.recall with pend := { t.pend with out := some (pairAll, if j = i then thenIn else none) } })) s

/-- Whether a strand has reached its boundary, its stores apart, which drain there (R290). -/
def State.atBoundary (s : State) (c i : Nat) : Bool :=
  let t := s.slotAt c i
  !t.state.outstanding && t.state != .vacant
    && (i != 0 || !(s.coreAt c).ports.any (fun p => p.1 == 0 && p.2.any (fun k => k.asid == t.asid)))

/-- The slot and the handle of the IN that follows the OUT under way on a core, if one does. -/
def Core.thenIn (k : Core) : Option (Nat × Nat) :=
  k.slots.findSome? (fun p => (p.2.pend.out.bind (fun x => x.2)).map (fun h => (p.1, h)))

/-- The request is over with a result (R288). -/
def State.schedDone (s : State) (c r : Nat) : State :=
  s.modCore c (fun k => { k with schedResult := r, schedBusy := false, schedSaved := false })

/-- Room in the cache for the strands that an OUT is to save: the least recently saved entries go to their save areas; none when an area
is full (R287, R289). -/
def State.takeRoom (s : State) (c i : Nat) : Option State :=
  ((s.coreAt c).makeRoom (s.unitSlots c i).length 64).map (fun k =>
    let kept (k : Core) : Nat := k.tcc.countP (fun v => v.inCache)
    (s.setCore c k).count c (s.slotAt c i).asid 0x104 (kept (s.coreAt c) - kept k))

/-- Save a unit at its boundary (R287, R290): its stores drain, its images enter the cache, which has room for them, under one handle,
and its slots are in SWAP. -/
def State.saveUnit (s : State) (c i : Nat) : State :=
  let js := s.unitSlots c i
  let s := js.foldl (fun s j => s.drain c j) s
  let s := if i = 0 then s.saveMatrix c else s
  let h := (s.coreAt c).freeHandle
  let images := js.map (fun j =>
    let t := (s.slotAt c j).recall
    { t with pend := { t.pend with out := none }, image := 0, accSel := 0, lastIssue := none })
  let s := s.modCore c (fun k =>
    { k with
      tcc := k.tcc ++ [⟨h, true, i == 0, images⟩]
      nextHandle := h % 65535 + 1
      outHandle := h
      schedSaved := true
      loopSlot := if js.any (fun j => k.loopSlot == some j) then none else k.loopSlot })
  js.foldl (fun s j => s.modSlot c j (fun t => { t.emptied with state := .swap, pend := { Pending.none with out := t.pend.out } })) s

/-! ### IN (R289) -/

/-- A refusal of IN: the result, or none (R289). `freed`: the slots that an EXCHANGE is giving up. -/
def State.refuseIn (s : State) (part : Option Nat) (c i h : Nat) (pairAll : Bool) (freed : List Nat) : Option Nat :=
  let k := s.coreAt c
  if i = 15 then some 5
  else match k.saved h with
    | none => some 7
    | some v =>
      if part.any (fun p => p != s.partOf v.asid) then some 6
      else if v.images.length = 2 ∧ !pairAll then some 4
      else if !freed.contains i ∧ (k.slotAt i).state ≠ .vacant then some 3
      else if v.control ≠ (i == 0) then some 8
      else if v.images.length = 2 ∧ ((k.vacant ++ freed).filter (fun j => j != i)).isEmpty then some 3
      else none

/-- Restore a saved context into a slot (R289): a pair's trailing member into the lowest other vacant slot. A control strand
brings its domain's matrix state (R184). -/
def State.restore (s : State) (c i h : Nat) : State :=
  match (s.coreAt c).saved h with
  | none => s
  | some v =>
    let s := if v.control then s.takeMatrix c v.asid else s
    let j := ((s.coreAt c).vacant.filter (fun j => j != i)).headD 0
    let s := s.modCore c (fun k => { k with tcc := k.tcc.filter (fun x => x.handle != h) })
    match v.images with
    | [a] => s.modSlot c i (fun old => old.enter a)
    | [a, b] =>
      (s.modSlot c i (fun old => old.enter { a with partner := j })).modSlot c j
        (fun old => old.enter { b with partner := i })
    | _ => s

/-- Whether e0 commands of another domain than a context's are outstanding on a core (R184). -/
def State.e0Busy (s : State) (c asid : Nat) : Bool :=
  (s.coreAt c).ports.any (fun p => p.1 == 0 && p.2.any (fun k => k.asid != asid))

/-- Whether a saved control strand must wait for the old holder's commands before it enters s0 (R184). -/
def State.inWaits (s : State) (c h : Nat) : Bool :=
  match (s.coreAt c).saved h with
  | some v => v.control && s.e0Busy c v.asid
  | none => false

/-- An IN request, refused or performed; a control strand that must wait for the old holder's commands leaves s0 in SWAP until then
(R184). A loop needs the loop buffer of the core: the strand's context holds it until it is free (R183). -/
def State.requestIn (s : State) (part : Option Nat) (c i h : Nat) (pairAll : Bool) : State :=
  match s.refuseIn part c i h pairAll [] with
  | some r => s.schedDone c r
  | none =>
    if s.inWaits c h then
      (s.modSlot c i (fun t => { t with state := .swap, pend := { t.pend with out := some (pairAll, some h) } })).modCore c (fun k => { k with schedBusy := true })
    else (s.restore c i h).schedDone c 0

/-- A refusal of OUT (R289). -/
def State.refuseOut (s : State) (part : Option Nat) (c i : Nat) (pairAll : Bool) : Option Nat :=
  let t := s.slotAt c i
  if i = 15 then some 5
  else if t.state = .vacant ∨ t.state = .swap then some 2
  else if part.any (fun p => p != s.partOf t.asid) then some 6
  else if t.pair ≠ 0 ∧ !pairAll then some 4
  else none

/-- An OUT or EXCHANGE request: busy, refused, or under way until the boundary (R289, R290). An EXCHANGE that cannot restore, and one that
finds no room to save, is refused before anything changes. -/
def State.requestOut (s : State) (part : Option Nat) (c i : Nat) (pairAll : Bool) (thenIn : Option Nat) : State :=
  if (s.coreAt c).schedBusy then s.modCore c (fun k => { k with schedResult := 1 })
  else match s.refuseOut part c i pairAll with
    | some r => s.schedDone c r
    | none => match thenIn.bind (fun h => s.refuseIn part c i h pairAll (s.unitSlots c i)) with
      | some r => s.schedDone c r
      | none => match s.takeRoom c i with
        | none => s.schedDone c 9
        | some s => (s.markOut c i pairAll thenIn).modCore c (fun k => { k with schedBusy := true })

/-- IN from the scheduling window. -/
def State.askIn (s : State) (part : Option Nat) (c i h : Nat) (pairAll : Bool) : State :=
  if (s.coreAt c).schedBusy then s.modCore c (fun k => { k with schedResult := 1 })
  else s.requestIn part c i h pairAll

/-- The unit that the request under way has saved, if it has, comes back into its slots, which are vacant (R289). -/
def State.undoOut (s : State) (c i : Nat) : State :=
  match (if (s.coreAt c).schedSaved then (s.coreAt c).saved (s.coreAt c).outHandle else none) with
  | none => s
  | some v =>
    let s := if v.control then s.takeMatrix c v.asid else s
    let s := s.modCore c (fun k => { k with tcc := k.tcc.filter (fun x => x.handle != v.handle) })
    match v.images with
    | [a] => s.modSlot c i (fun old => old.enter a)
    | [a, b] => (s.modSlot c b.partner (fun old => old.enter a)).modSlot c a.partner (fun old => old.enter b)
    | _ => s

/-- The OUT of a unit is called off before its boundary: the strands go on. -/
def State.unmarkOut (s : State) (c i : Nat) : State :=
  (s.unitSlots c i).foldl (fun s j => s.modSlot c j (fun t => { t with pend := { t.pend with out := none } })) s

/-- SWAP_BOUNDARY's work: a unit at its boundary is saved; slots whose save is complete become vacant, and the request ends, or
its IN follows (R274, R289, R290). An EXCHANGE whose IN has become impossible meanwhile leaves everything as it was (R289). -/
def State.swapBoundary (s : State) (c i : Nat) : State :=
  let t := s.slotAt c i
  let x := (s.coreAt c).thenIn
  if t.pend.out.isNone then s
  else if t.state = .swap then
    if x.any (fun h => s.inWaits c h.2) then s
    else
      let s := s.modCore c (fun k => { k with slots := k.slots.map (fun p =>
        if p.2.state == .swap then (p.1, { p.2 with state := .vacant, pend := .none }) else p) })
      match x with
      | none => s.schedDone c 0
      | some (j, h) => match s.refuseIn none c j h true [] with
        | some r => (s.undoOut c j).schedDone c r
        | none => s.requestIn none c j h true
  else if (s.unitSlots c i).all (fun j => s.atBoundary c j) then
    match x.bind (fun y => s.refuseIn none c y.1 y.2 true (s.unitSlots c i)) with
    | some r => (s.unmarkOut c i).schedDone c r
    | none => s.saveUnit c i
  else s

/-! ### Stopping a domain (R279) -/

/-- A notice of a stop or a resumption goes to every other device of the partition (R279). -/
def State.notifyStop (s : State) (c asid : Nat) (stop : Bool) : State :=
  let part := s.partOf asid
  let devs := ((s.partAt part).remap.filter (fun r => r.2.valid && r.2.phys != s.phys)).map (fun r => r.1)
  devs.foldl (fun s d => (s.inject part d (s.domAt c asid).supv 0 c asid (.stopnote c asid stop)).getD s) s

/-- A domain is stopped; the senders' interfaces hear of it (R279). -/
def State.stopDomain (s : State) (c asid : Nat) : State :=
  if s.hasDom c asid then
    let s := (s.modDom c asid (fun d => { d with stopped := true })).notifyStop c asid true
    let n := (s.devOf asid, c, asid)
    if s.notices.contains n then s else { s with notices := s.notices ++ [n] }
  else s

/-- Messages held for a destination leave in their send order (R279). -/
def State.letGo (s : State) (dev core ctx : Nat) : State :=
  let go := s.outbox.filter (fun m => m.goesTo dev core ctx)
  let s := { s with
    notices := s.notices.filter (fun n => n != (dev, core, ctx))
    outbox := s.outbox.filter (fun m => !m.goesTo dev core ctx) }
  go.foldl State.sendMsg s

/-- A domain is resumed (R279). -/
def State.resumeDomain (s : State) (c asid : Nat) : State :=
  if s.hasDom c asid then
    ((s.modDom c asid (fun d => { d with stopped := false })).notifyStop c asid false).letGo (s.devOf asid) c asid
  else s

/-! ### CONTROL (R325, R333) -/

/-- A strand halts at its next boundary, without a packet (R325); what else waits there is taken first. -/
def State.haltOne (s : State) (c i : Nat) : State :=
  let ask (s : State) : State := s.modSlot c i (fun t => { t with pend := { t.pend with halt := true } })
  match (s.slotAt c i).state with
  | .ready => (ask s).boundary c i
  | .wait w => if (SlotState.wait w).outstanding then ask s else (ask (s.withdraw c i)).boundary c i
  | .vacant => s
  | .frozen => s
  | .swap => s

/-- HALT of a unit. -/
def State.haltUnit (s : State) (c i : Nat) : State := (s.unitSlots c i).foldl (fun s j => s.haltOne c j) s

/-- RESUME of a unit. -/
def State.resumeUnit (s : State) (c i : Nat) : State := (s.unitSlots c i).foldl (fun s j => s.resumeAt c j) s

/-- STEP of a unit: from FROZEN, one instruction and then BREAK, which in a pair the leading member takes for both (R325, R333). -/
def State.stepUnit (s : State) (c i : Nat) : State :=
  (s.unitSlots c i).foldl (fun s j =>
    if (s.slotAt c j).state = .frozen then
      (s.resumeAt c j).modSlot c j (fun t => { t with pend := { t.pend with step := if t.pair = 2 then none else some t.retired } })
    else s) s

/-! ### Saved images (R291, R324) -/

/-- A saved context is killed: its image is discarded under R157, and its shades are lost (R291). -/
def State.killSaved (s : State) (c h : Nat) : State :=
  match (s.coreAt c).saved h with
  | none => s
  | some v =>
    let s := v.images.foldl (fun s t =>
      (((if t.pair = 2 then s else s.dropShades t).dropFrame t).modCore c (fun k => k.cancelStopped t.born)).traceSaved c t 0x200) s
    let s := match v.images with
      | t :: _ =>
        if t.kind = 1 then s.endHandle c t.asid t.serial killedResult (s.carry c t.asid t.clock) else s
      | [] => s
    s.modCore c (fun k => { k with tcc := k.tcc.filter (fun x => x.handle != h) })

/-- CONTROL on a saved image: RESUME and STEP make a frozen image ready, KILL discards it, and HALT freezes one that is ready, which is at
its boundary (R324, R325). -/
def State.controlSaved (s : State) (c h op : Nat) : State :=
  match (s.coreAt c).saved h with
  | none => s
  | some v =>
    let wake (stepping : Bool) (t : Slot) : Slot :=
      if t.state = .frozen then
        { t with state := .ready, trig := false,
                 pend := { t.pend.resumed with step := if stepping && t.pair != 2 then some t.retired else none } }
      else t
    let halt (t : Slot) : Slot := if t.state = .frozen then t else { t with state := .frozen, lastCode := 0, again := false }
    if op = 1 ∨ op = 4 then
      let go (k : Core) : Core := v.images.foldl (fun k t => if t.state = .frozen then k.goOn t.born else k) k
      v.images.foldl (fun (s : State) t => if t.state = .frozen then s.traceSaved c t 0x100 else s)
        (s.modCore c (fun k => (go k).setSaved { v with images := v.images.map (wake (op == 4)) }))
    else if op = 2 then s.killSaved c h
    else if op = 3 then
      v.images.foldl (fun (s : State) t => if t.state = .frozen then s else s.traceSaved c t 0)
        (s.modCore c (fun k => k.setSaved { v with images := v.images.map halt }))
    else s

end Sys2Proof.Machine
end

