-- ==== Sys2Proof/Machine/Reset.lean ====
section
/-! DEFINITION. Removing domains (R273, R385), quiescing and resetting a partition (R339), and releasing a context (R273). -/

namespace Sys2Proof.Machine

/-! ### Domains -/

/-- The domains of a partition, as (core, context). -/
def State.domainsIn (s : State) (part : Nat) : List (Nat × Nat) :=
  (s.domains.filter (fun d => d.2.part == part)).map (fun d => (d.1 / 4096, d.1 % 4096))

/-- A domain is removed: its counts join the partition's sums, and its matrix state is discarded (R184, R273, R385). Messages
held for it are sent, and come back refused (R280). -/
def State.removeDomain (s : State) (c asid : Nat) : State :=
  let d := s.domAt c asid
  let dev := s.devOf asid
  let s := d.counters.foldl (fun s x => s.countPart d.part x.1 x.2) s
  let s := { s with domains := dropT s.domains (domKey c asid) }
  let s := s.modCore c (fun k =>
    if k.holder = some asid then { k with holder := none, mx := .fresh } else k)
  s.letGo dev c asid

/-- The strands of a domain are killed without release, saved ones too, and its queued entries are dropped (R339). -/
def State.emptyDomain (s : State) (c asid : Nat) : State :=
  let s := (List.range 15).foldl (fun s i => if (s.slotAt c i).asid = asid then s.killStrand c i else s) s
  let s := if (s.slotAt c 15).asid = asid then s.modSlot c 15 Slot.emptied else s
  let s := ((s.coreAt c).tcc.filter (fun v => v.asid == asid)).foldl (fun s v => s.killSaved c v.handle) s
  s.modCore c (fun k =>
    { k with
      inbox := k.inbox.filter (fun e => e.msg.dstCtx != asid)
      work := k.work.filter (fun w => w.asid != asid)
      shipped := k.shipped.filter (fun w => w.2.asid != asid)
      rtable := k.rtable.filter (fun r => r.asid != asid)
      ports := k.ports.map (fun p => (p.1, p.2.filter (fun x => x.asid != asid))) })

/-! ### Quiesce (R339) -/

/-- Every domain of a partition is stopped (R279). -/
def State.stopAll (s : State) (part : Nat) : State := (s.domainsIn part).foldl (fun s d => s.stopDomain d.1 d.2) s

/-- A quiesce is requested (R339); the hold entries of the partition's shuffles are freed (R360). -/
def State.quiesce (s : State) (part : Nat) : State :=
  if (s.partAt part).pstate = 0 then
    let s := (s.stopAll part).modPart part (fun p => { p with pstate := 1 })
    { s with holds := s.holds.filter (fun h => h.part != part) }
  else s

/-- Commands of a domain end CANCELLED (R192, R339). -/
def State.cancelCmds (s : State) (c : Nat) (p : Cmd → Bool) : State :=
  let cancel (u : Core) (k : Cmd) : Cmd :=
    if p k && k.done.isNone then { k with stopped := false, done := some (0x0C, k.soFar, u.eventsOf k, none) } else k
  s.modCore c (fun k => { k with ports := k.ports.map (fun x => (x.1, x.2.map (cancel k))) })

/-- A remote load that a strand awaits is answered with ERRCOMP, with its pops back; so is each batch of a commit that has no answer yet
(R26, R126, R127, R339). -/
def State.errcompSlot (s : State) (c i : Nat) : State :=
  let t := s.slotAt c i
  match t.state, t.region with
  | .wait (.reply a _), some _ =>
    if (s.objAt a.obj).level = 5 then (s.putBack c i a).failRegionAt c i 2 (s.objAt a.obj).homeDev else s
  | .wait .commit, some r =>
    let told (k : Commit) : Commit :=
      { k with answers := k.answers ++ (k.dests.filter (fun d => k.answers.all (fun x => x.1 != d))).map (fun d => (d, some 2)) }
    s.setSlot c i { t with region := some { r with commit := r.commit.map told } }
  | _, _ => s

/-- Whether a message is an outstanding request of a partition: sent by one of its domains, and no bounce, doorbell's or fault packet
(R233, R339). -/
def State.outstandingMsg (s : State) (part : Nat) (m : Msg) : Bool :=
  decide (m.form < 4) && s.partOf m.srcCtx == part

/-- Every outstanding request of a partition receives an error completion: messages on their way, held at a stopped destination or
awaiting another device's reply bounce (R339). -/
def State.errorAll (s : State) (part : Nat) : State :=
  let s := (s.domainsIn part).foldl (fun s d =>
    let s := s.cancelCmds d.1 (fun k => k.asid == d.2)
    (List.range 16).foldl (fun s i => if (s.slotAt d.1 i).asid = d.2 then s.errcompSlot d.1 i else s) s) s
  let onWay := (s.net ++ s.outbox).filter (s.outstandingMsg part)
  let away := (s.transfers.filterMap (fun t => t.sent.map (fun x => x.2))).filter (fun m => s.outstandingMsg part m && !onWay.contains m)
  let s := { s with
    net := s.net.filter (fun m => !s.outstandingMsg part m)
    outbox := s.outbox.filter (fun m => !s.outstandingMsg part m) }
  (onWay ++ away).foldl State.refuse s

/-! ### Reset (R339) -/

/-- A pool's entry is freed: space of it that is being cleaned is named apart from the objects that use the OBJID later (log 8). -/
def State.leavePool (s : State) (o : Nat) : State :=
  { s with cleaning := s.cleaning.map (fun (c : Cleaning) => if c.pool = o then { c with pool := o + 2 ^ 28 } else c) }

/-- Objects of a context, or of a partition, are freed as `free` frees them, pinned and poisoned ones too (R139, R273, R339); its pools go
with them. -/
def State.freeContext (s : State) (mine : Obj → Bool) : State :=
  let os := (s.objs.filter (fun p => p.2.entKind != 0 && p.2.entKind != 2 && mine p.2)).map (fun p => p.1)
  let s := os.foldl (fun s o =>
    let e := s.objAt o
    let s := if e.entKind = 3 ∧ e.level < 4 then s.overSpan e.ownCtx e 0 e.length (fun s a n => s.emptyWords a n) else s
    let s := if e.pinned ∧ e.level < 3 ∧ !s.parts.any (fun p => p.2.debugObj == o) then s.zeroSpan e.ownCtx o 0 e.length else s
    match s.bump o with
    | some (s', n) => s'.freeObj n
    | none => (s.freeObj o).modObj o (fun x => { x with retired := true, part := e.part })) s
  let pools := (s.objs.filter (fun p => p.2.entKind == 2 && mine p.2)).map (fun p => p.1)
  pools.foldl (fun s o => match (s.leavePool o).bump o with
    | some (s', n) => s'.writeEntry n { Obj.free with gen := (s'.objAt n).gen, ownCtx := (s'.objAt n).ownCtx }
    | none => s.writeEntry o { s.objAt o with retired := true }) s

/-- Retired entries of a partition return to FREE (R224). -/
def State.unretire (s : State) (part : Nat) : State :=
  let os := (s.objs.filter (fun p => p.2.retired && p.2.part == part)).map (fun p => p.1)
  os.foldl (fun s o => s.writeEntry o Obj.free) s

/-- The reset of a quiesced partition (R339, R385, R391). What is still on its way to it bounces (R233). Its policy, race report object, assist table, groups and windows go; its
contexts are released; its domains are removed. -/
def State.resetPartition (s : State) (part : Nat) : State :=
  let ds := s.domainsIn part
  let s := ds.foldl (fun s d => (s.emptyDomain d.1 d.2).removeDomain d.1 d.2) s
  let mine (a : Nat) : Bool := match lookT s.ctxs a with
    | some x => x.part == part
    | none => false
  let ptabs : List Nat := (s.ctxs.filter (fun x => x.2.part == part)).map (fun x => x.2.ptab)
  let s := ptabs.foldl State.purgeTlbs s
  let late := (s.net ++ s.outbox).filter (fun m => mine m.dstCtx)
  let s := { s with
    net := s.net.filter (fun m => !mine m.dstCtx)
    outbox := s.outbox.filter (fun m => !mine m.dstCtx) }
  let s := late.foldl State.refuse s
  let s := (s.freeContext (fun e => e.part == part)).unretire part
  let s := { s with
    ctxs := s.ctxs.filter (fun x => x.2.part != part)
    waiters := s.waiters.filter (fun w => !(w.slot == 16 && mine w.dst))
    net := s.net.filter (fun m => !mine m.dstCtx)
    outbox := s.outbox.filter (fun m => !mine m.dstCtx) }
  s.modPart part (fun p =>
    { p with
      pstate := 3, resetPending := false, supvCores := [], running := [], groups := [], comers := [], assist := [], windows := [], winBusy := none, late := none,
      raceRep := CReg.zero, raceDropped := 0, policy := none, sums := [], shuffles := [], sides := [], active := [], snaps := [],
      traceCounts := [], debugObj := 0, unavailable := [] })

/-- A reset is requested (R339). DESIGN CHOICE (log 67): one requested while QUIESCING is pending, and begins at QUIESCED. -/
def State.requestReset (s : State) (part : Nat) : State :=
  let p := s.partAt part
  if p.pstate = 0 ∨ p.pstate = 1 then (s.quiesce part).modPart part (fun p => { p with resetPending := true })
  else if p.pstate = 2 then s.resetPartition part
  else s

/-- Every outstanding request has been answered: the partition is quiesced, and a pending reset begins (R339). -/
def State.quiesced (s : State) (part : Nat) : State :=
  if (s.partAt part).pstate = 1 then
    let s := (s.errorAll part).modPart part (fun p => { p with pstate := 2 })
    if (s.partAt part).resetPending then s.resetPartition part else s
  else s

/-- All freed space is clean: reset complete is reported, and the partition runs again (R339). -/
def State.resetDone (s : State) (part : Nat) : State :=
  if (s.partAt part).pstate = 3 ∧ s.cleaning.all (fun c => c.part != part) then
    { s.modPart part (fun p => { p with pstate := 0, flr := false }) with out := s.out ++ [.report 0x80 part] }
  else s

end Sys2Proof.Machine
end

