-- ==== Sys2Proof/Machine/System.lean ====
section
/-! DEFINITION. State registers, counters and time (R39 to R44, R87, R88, R121, R122, R310, R380, R388), and remote regions
(R123 to R128). -/

namespace Sys2Proof.Machine

/-! ### State registers (R39) -/

/-- How a state register is written (R121). -/
inductive SrOp where
  | write | set | clear
deriving DecidableEq, Repr

/-- An RW field after a write form (R121). -/
def rwField (op : SrOp) (old v : Nat) : Nat :=
  match op with
  | .write => v
  | .set => old ||| v
  | .clear => old &&& (2 ^ 64 - 1 - v % 2 ^ 64)

/-- The bits of a W1C field that a write form clears (R121). -/
def w1cBits (op : SrOp) (v : Nat) : Nat :=
  match op with
  | .write => v
  | .set => v
  | .clear => 0

/-- The value of a state register for the strand whose turn it is (R39 to R44, R87, R88, R310, R311, R380). -/
def State.readSr (s : State) (n : Nat) : Option CReg :=
  let t := s.cur
  let d := s.dom
  if n = 0x000 then some (plain (field t.pair 6 2 + field t.kind 4 2 + s.slot))
  else if n = 0x001 then some (plain (field d.supv.toNat 18 1 + field d.part 12 6 + field t.asid 0 12))
  else if n = 0x002 then some (plain s.core)
  else if n = 0x003 then some (plain (field s.phys 16 16 + field (s.jobDev d.part) 0 16))
  else if n = 0x010 then some (plain t.fpmode.toNat)
  else if n = 0x011 then some (plain t.fpflags.toNat)
  else if n = 0x020 then some (plain d.tags.toNat)
  else if n = 0x030 then some (plain (field d.epoch 6 2 + field d.loss.toNat 4 1 + field d.mode 0 2))
  else if n = 0x031 then some (plain (clkAt t.clock s.slot))
  else if n = 0x040 then some (plainQ d.groups.toNat)
  else if n = 0x050 then some (plain t.seed.toNat)
  else if n = 0x060 then some (plain (field (s.partAt d.part).tenantOnly.toNat 1 1 + d.scopeClip.toNat))
  else if n = 0x070 then some (plain s.time)
  else none

/-- Whether a register is held per strand (R39): a pair's members read their own. -/
def srOwn (n : Nat) : Bool := n = 0x000 || n = 0x010 || n = 0x011 || n = 0x031 || n = 0x050

/-- Whether the supervisor has installed an assist routine for a context (R326). -/
def State.hasAssist (s : State) (asid : Nat) : Bool :=
  match lookT (s.partAt (match lookT s.ctxs asid with
      | some x => x.part
      | none => 0)).assist asid with
  | some c => c.tag
  | none => false

/-- Whether a strand's write of a W1C bit is in vain: hardware has set that bit in the same cycle (R39). -/
def Domain.wins (d : Domain) (now k : Nat) : Bool := lookT d.set k == some now

/-- The TAGS bits that hardware has set in a cycle (R39). -/
def Domain.won (d : Domain) (now : Nat) : Word :=
  d.set.foldl (fun x p => if p.2 = now ∧ p.1 < 64 then x ||| .ofNat 64 (2 ^ p.1) else x) 0

/-- Clear tags at a time, and their clocks with them (R299), but for those that hardware sets in that cycle (R39). -/
def Domain.clearTags (d : Domain) (now m : Nat) : Domain :=
  let gone := BitVec.ofNat 64 m &&& ~~~d.won now
  { d with
    tags := d.tags &&& ~~~gone
    tagClks := d.tagClks.filter (fun p => !gone.getLsbD p.1) }

/-- A write form on a state register (R121), an effect of a pair where the register is the domain's (R331): ILLEGAL for an unassigned number, and for an FPMODE write that R87 refuses.
DEDUCED (log 12): a write sets SUBN when it is `wrst` or `setst` with bit 4 of the operand set. -/
def writeSr (op : SrOp) (a : CR) (n : Nat) : Act Unit := do
  dirs [a] []
  let s ← getS
  if (s.readSr n).isNone then illegal
  let x ← src a
  let v := x.lo
  let t ← me
  if n = 0x010 then
    let new := rwField op t.fpmode.toNat v
    if 4 < bitsAt new 0 3 then illegal
    if op ≠ .clear ∧ bit v 4 ∧ !s.hasAssist t.asid then illegal
    modS (fun s => s.modCur (fun t => { t with fpmode := .ofNat 64 (new &&& 0x77) }))
  else if n = 0x011 then
    modS (fun s => s.modCur (fun t => { t with fpflags := .ofNat 64 (rwField op t.fpflags.toNat v &&& 0x7F) }))
  else if n = 0x020 then
    effect [x] n (modS (fun s => s.modCurDom (fun d => d.clearTags s.time (w1cBits op v))))
  else if n = 0x030 then
    let mode (old : Nat) : Nat := if rwField op old v % 4 = 3 then old else rwField op old v % 4
    effect [x] n (modS (fun s => s.modCurDom (fun d => { d with mode := mode d.mode, loss := d.loss && (d.wins s.time 64 || !bit (w1cBits op v) 4) })))
  else if n = 0x050 then
    modS (fun s => s.modCur (fun t => { t with seed := .ofNat 64 (rwField op t.seed.toNat v) }))
  else if n = 0x060 then
    effect [x] n (modS (fun s => s.modCurDom (fun d => { d with scopeClip := d.scopeClip && (d.wins s.time 65 || !bit (w1cBits op v) 0) })))
  else pure ()

/-- `rdst` (R121). -/
def execRdst (d : CR) (n : BitVec 12) (s : State) : Out :=
  issue_ 4 (do
    dirs [] [d]
    let s ← getS
    match s.readSr n.toNat with
    | none => illegal
    | some v => dst d (← if srOwn n.toNat then pure v else outside (pure v))) s

/-- `wrst` (R121). -/
def execWrst (a : CR) (n : BitVec 12) (s : State) : Out := issue_ 4 (writeSr .write a n.toNat) s

/-- `setst` (R121). -/
def execSetst (a : CR) (n : BitVec 12) (s : State) : Out := issue_ 4 (writeSr .set a n.toNat) s

/-- `clrst` (R121). -/
def execClrst (a : CR) (n : BitVec 12) (s : State) : Out := issue_ 4 (writeSr .clear a n.toNat) s

/-! ### Counters and time (R122, R385, R388) -/

/-- UNAVAILABLE (R384). -/
def cUNAVAILABLE : Nat := 0x8000000000000000
/-- WITHHELD (R384). -/
def cWITHHELD : Nat := 0x8000000000000001

/-- Whether a number is of a domain-scope counter (R385). -/
def domainCounter (n : Nat) : Bool :=
  decide (n ≤ 0x060) || (decide (0x080 ≤ n) && decide (n ≤ 0x085)) || (decide (0x0A0 ≤ n) && decide (n ≤ 0x0A2)) || n == 0x0C5
    || (decide (0x100 ≤ n) && decide (n ≤ 0x105)) || n == 0x120 || n == 0x121

/-- Whether a number is of a partition-scope counter (R385). -/
def partCounter (n : Nat) : Bool :=
  (decide (0x0C0 ≤ n) && decide (n ≤ 0x0C6) && n != 0x0C5) || (decide (0x140 ≤ n) && decide (n ≤ 0x142))

/-- A domain's count. -/
def Domain.counter (d : Domain) (n : Nat) : Nat := (lookT d.counters n).getD 0

/-- The partition sum of a counter: live and removed domains, or the partition's own count (R385). -/
def State.partSum (s : State) (part n : Nat) : Nat :=
  let kept := (lookT (s.partAt part).sums n).getD 0
  if partCounter n then kept
  else s.domains.foldl (fun x d => if d.2.part = part then countTo x (d.2.counter n) else x) kept

/-- A counter as the strand's domain reads it (R388). After a migration, a number that this device lacks reads UNAVAILABLE
(R401). -/
def State.readCounter (s : State) (n : Nat) : Nat :=
  if (s.partAt s.dom.part).unavailable.contains n then cUNAVAILABLE
  else if domainCounter n then s.dom.counter n
  else if partCounter n then s.partSum s.dom.part n
  else cUNAVAILABLE

/-- `rdcnt` (R122, R388). -/
def execRdcnt (d : CR) (n : BitVec 12) (s : State) : Out :=
  issue_ 4 (do
    dirs [] [d]
    dst d (← outside (do return plain ((← getS).readCounter n.toNat)))) s

/-- `clock` (R122): TIMEBASE as of the cycle in which the instruction issued. -/
def execClock (d : CR) (s : State) : Out :=
  issue_ 4 (do
    dirs [] [d]
    dst d (← outside (do return plain ((← me).lastIssue.getD (← getS).time)))) s

/-! ### Remote regions (R123 to R129) -/

/-- The checkpoint of a strand as it opens a region (R123). -/
def openRegion (t : Slot) (e : Nat) (target : Int) : Region :=
  { c := t.c, p := t.p, code := t.code, insn := t.insn, fpmode := t.fpmode, fpflags := t.fpflags, seed := t.seed, target := target, e := e,
    buf := [], failed := none, commit := none }

/-- `rmt.begin` (R124); inside a region, the region fails with NESTED (R126). -/
def execRmtBegin (e : CR) (k : BitVec 17) (s : State) : Out :=
  issue_ 4 (do
    dirs [] [e]
    let t ← me
    if t.region.isSome then throw (.region 6 0)
    modS (fun s => s.modCur (fun t => { t with region := some (openRegion t e.val (t.pc + 2 * k.toInt)) }))
    dst e (plain 0)) s

/-- `rmt.abort` (R128). -/
def execRmtAbort (s : State) : Out :=
  issue_ 4 (do
    if (← me).region.isSome then throw (.region 7 0)) s

/-- The destinations of a region's buffer, rising (R127). -/
def destinations (r : Region) : List Nat := r.buf.foldl (fun ds x => putN ds x.dev) []

/-- The region closes with a status in its register. -/
def closeCommit (sr : Nat) (v : CReg) : Act Flow := do
  modS (fun s => s.modCur (fun t => { t with region := none }))
  modS (fun s => s.pushLvq s.core s.slot v)
  dst ⟨sr % 32, by omega⟩ v
  return .next

/-- `rmt.commit` (R127): the buffer's objects, of which no line is held here, are released (R247), and one batch goes to each destination; the outcome is decided by
COMMIT_OUTCOME. With nothing buffered it completes with NDEST 0. A destination that is not mapped answers as ERRCOMP at
once (R352). One whose outcome is decided writes its status word. -/
def execRmtCommit (sr : CR) (s : State) : Out :=
  issue 4 (do
    dirs [] [sr]
    let t ← me
    match t.region with
    | none =>
      dst sr (plain 0)
      return .next
    | some r =>
      match r.commit.bind (fun k => k.status) with
      | some v => return ← closeCommit sr.val v
      | none => pure ()
      let ds := destinations r
      let commit (s : State) (k : List (Nat × Option Nat)) : State :=
        s.modCur (fun t => { t with region := some { r with commit := some ⟨s.time, sr.val, ds, k, none⟩ } })
      effect [] 0 (do
        awaitRemote .fabric
        modS (fun s => s.drain s.core s.slot)
        let s ← getS
        let d := s.dom
        let send (x : State × List (Nat × Option Nat)) (dev : Nat) : State × List (Nat × Option Nat) :=
          match x.1.inject d.part dev d.supv 0 s.core t.asid (.rbatch s.core s.slot (r.buf.filter (fun x => x.dev == dev))) with
          | some s' => (s', x.2)
          | none => (x.1, x.2 ++ [(dev, some 2)])
        let x := ds.foldl send (s, [])
        putS (commit x.1 x.2))
      if ds.isEmpty then
        modS (fun s => s.modCur (fun t => { t with region := none }))
        dst sr (plain 0)
        return .next
      else if t.pair = 2 then
        dst sr (← takeLvq)
        modS (fun s => s.modCur (fun t => { t with region := none }))
        return .next
      else return .park .commit) s

end Sys2Proof.Machine
end

