-- ==== Sys2Proof/Machine/Windows.lean ====
section
/-! DEFINITION. The windows of the debug object and the assist frame (R323 to R328, R288, R337, R339, R374, R396): what each
16-byte granule reads, and what a store into it does. A store narrower than a register writes the bytes it covers; the
others are as they read. -/

namespace Sys2Proof.Machine

/-- Two doublewords as a granule. -/
def granule (lo hi : Nat) : CReg := ⟨.ofNat 128 (lo % 2 ^ 64 + hi % 2 ^ 64 * 2 ^ 64), false⟩

/-- A store into a granule: its offset in the window, the granule as it is to be, which doublewords the store covers, and
whether it is a capability store. -/
structure Poke where
  off : Nat
  new : CReg
  lo : Bool
  hi : Bool
  cap : Bool
deriving DecidableEq, Repr

/-- The accumulator of a bank, row and column (R197). -/
def accKey (bank row col : Nat) : Nat := bank * 16384 + row * 64 + col

/-- The four accumulators of a column group, as `aget` lays them out (R195). -/
def MatrixState.group (m : MatrixState) (bank row g : Nat) : Nat :=
  (List.range 4).foldl (fun x i => x + ((lookT m.acc (accKey bank row (4 * g + i))).getD 0).toNat * 2 ^ (32 * i)) 0

/-! ### Slot windows (R324, R325) -/

/-- STATE (R324). -/
def SlotState.code : SlotState → Nat
  | .vacant => 0 | .ready => 1 | .wait _ => 2 | .frozen => 3 | .swap => 4

/-- The register fields of a strand in a window. -/
def Slot.regGranule (t : Slot) (off : Nat) : CReg :=
  if off < 0x200 then t.reg (off / 16)
  else if off < 0x400 then
    ⟨.ofNat 128 ((t.vreg ((off - 0x200) / 32)).toNat / 2 ^ (8 * (off % 32)) % 2 ^ 128), false⟩
  else if off < 0x420 then
    let p (j : Nat) : Nat := (t.preg ((off - 0x400) / 4 + j)).toNat * 2 ^ (32 * j)
    ⟨.ofNat 128 (p 0 + p 1 + p 2 + p 3), false⟩
  else if off = 0x420 then t.code
  else if off = 0x430 then granule 0 t.fpmode.toNat
  else if off = 0x440 then granule t.fpflags.toNat t.seed.toNat
  else CReg.zero

/-- What a slot window reads beside the register fields. -/
def Slot.infoGranule (t : Slot) (slot off : Nat) : Nat × Nat :=
  if off = 0x430 then (field t.lastCode 8 8 + field t.frame.isSome.toNat 3 1 + t.state.code, 0)
  else if off = 0x450 then (field t.pair 6 2 + field t.kind 4 2 + slot, clkAt t.clock slot)
  else if off = 0x460 then (0, match t.loop with
    | some l => field l.k 16 32 + l.j
    | none => 0)
  else if off = 0x470 then (t.region.isSome.toNat, 0)
  else if 0x480 ≤ off ∧ off < 0x4E0 then
    let k (j : Nat) : Nat := clkAt t.clock ((off - 0x480) / 4 + j)
    (k 0 + k 1 * 2 ^ 32, k 2 + k 3 * 2 ^ 32)
  else (0, 0)

/-- The strand that a slot window shows: the slot's, or the image that IMAGE selects (R324). -/
def State.shown (s : State) (c k : Nat) : Option Slot :=
  let t := s.slotAt c k
  if t.image = 0 then some t else ((s.coreAt c).saved t.image).map (fun v => v.images.headD Slot.vacant)

/-- Whether a strand is one of a partition. -/
def State.ofPart (s : State) (part : Nat) (t : Slot) : Bool := t.state == .vacant || s.partOf t.asid == part

/-- A granule of a slot window (R323, R324): zero when the slot's strand, or the image shown, belongs to another partition. -/
def State.slotGranule (s : State) (part c k off : Nat) : CReg :=
  let live := s.slotAt c k
  if !s.ofPart part live then CReg.zero
  else if off = 0x500 then granule live.image 0
  else match s.shown c k with
  | none => CReg.zero
  | some t =>
    if !s.ofPart part t then CReg.zero
    else if off = 0x4F0 ∧ k = 0 then
      let a := live.accSel.toNat
      ⟨.ofNat 128 ((s.coreAt c).mx.group (bitsAt a 16 1) (bitsAt a 8 8) (bitsAt a 0 4)), false⟩
    else
      let r := if t.state = .frozen then t.regGranule off else CReg.zero
      let i := t.infoGranule k off
      if r.tag then r else ⟨r.val ||| (granule i.1 i.2).val, false⟩

/-- A store into the register fields of a strand (R325): `subn`: its context has an assist routine. None: not a register
field. -/
def Slot.pokeReg (t : Slot) (subn : Bool) (p : Poke) : Option Slot :=
  let x := p.new.val.toNat
  if p.off < 0x200 then some (t.setReg (p.off / 16) p.new)
  else if p.off < 0x400 then
    let k := (p.off - 0x200) / 32
    let old := (t.vreg k).toNat
    let sh := 8 * (p.off % 32)
    some (t.setV k (.ofNat 256 (old - field (old / 2 ^ sh) sh 128 + field x sh 128)))
  else if p.off < 0x420 then
    some ((List.range 4).foldl (fun t j => t.setP ((p.off - 0x400) / 4 + j) (.ofNat 32 (x / 2 ^ (32 * j)))) t)
  else if p.off = 0x420 then some { t with code := p.new }
  else if p.off = 0x430 then
    let m := p.new.hi
    some (if !p.hi ∨ 4 < bitsAt m 0 3 ∨ (bit m 4 ∧ !subn) then t else { t with fpmode := .ofNat 64 (m &&& 0x77) })
  else if p.off = 0x440 then
    let t := if p.lo then { t with fpflags := .ofNat 64 (p.new.lo &&& 0x7F) } else t
    some (if p.hi then { t with seed := .ofNat 64 p.new.hi } else t)
  else none

/-- CONTROL (R325, R333). -/
def State.control (s : State) (c k op : Nat) : State :=
  let h := (s.slotAt c k).image
  if h ≠ 0 then s.controlSaved c h op
  else if op = 1 then s.resumeUnit c k
  else if op = 2 then s.requestKill c k
  else if op = 3 then s.haltUnit c k
  else if op = 4 then s.stepUnit c k
  else s

/-- A store into a slot window; whether it placed what it stored. DESIGN CHOICE (log 78): R316 has a supervisor change MODE through the debug
window, and no map of a window names its place: bits 1:0 of offset 0x478, which reads 0, set the MODE of the strand's domain, 3 being
refused (R310). -/
def State.slotPoke (s : State) (part c k : Nat) (p : Poke) : State × Bool :=
  if !s.ofPart part (s.slotAt c k) then (s, false)
  else if p.off = 0x500 ∧ p.lo then (s.modSlot c k (fun t => { t with image := p.new.lo % 65536 }), true)
  else match s.shown c k with
  | none => (s, false)
  | some t =>
    if !s.ofPart part t then (s, false)
    else if p.off = 0x460 ∧ p.lo then (s.control c k (p.new.lo % 8), true)
    else if p.off = 0x4E0 ∧ p.lo then
      (if k = 0 then s.modSlot c k (fun t => { t with accSel := .ofNat 64 (p.new.lo &&& 0x1FF0F) }) else s, true)
    else if p.off = 0x470 ∧ p.hi then
      (if t.state = .vacant ∨ p.new.hi % 4 = 3 then s else s.modDom c t.asid (fun d => { d with mode := p.new.hi % 4 }), true)
    else if t.state ≠ .frozen then (s, false)
    else match t.pokeReg (s.hasAssist t.asid) p with
      | none => (s, false)
      | some t' =>
        let h := (s.slotAt c k).image
        if h = 0 then (s.setSlot c k t', true)
        else match (s.coreAt c).saved h with
          | some v => (s.modCore c (fun k => k.setSaved { v with images := v.images.set 0 t' }), true)
          | none => (s, false)

/-! ### The assist frame (R327, R328) -/

/-- An assist frame of a strand as a slot window shows it (R324, R327). -/
def Frame.view (f : Frame) (t : Slot) : Slot :=
  { t with c := f.c, v := f.v, p := f.p, code := f.code, fpmode := f.fpmode, fpflags := f.fpflags, seed := f.seed, clock := f.clock,
           streams := f.streams, region := f.region, loop := f.loop, barrier := f.barrier, frame := none }

/-- A frame with the register fields of a view. -/
def Frame.of (f : Frame) (t : Slot) : Frame :=
  { f with c := t.c, v := t.v, p := t.p, code := t.code, fpmode := t.fpmode, fpflags := t.fpflags, seed := t.seed }

/-! ### The scheduling window (R288) -/

/-- A granule of the scheduling window of a core. -/
def State.schedGranule (s : State) (c off : Nat) : CReg :=
  let k := s.coreAt c
  if off = 0 then granule 0 (field k.outHandle 48 16 + field k.schedResult 8 8 + k.schedBusy.toNat)
  else if off = 0x10 then granule 0 (k.cacheUsed % 64)
  else CReg.zero

/-- A store into the scheduling window of a core. -/
def State.schedPoke (s : State) (part c : Nat) (p : Poke) : State :=
  let x := p.new.lo
  if p.off = 0 ∧ p.lo then
    let op := bitsAt x 4 4
    let h := bitsAt x 48 16
    let i := bitsAt x 0 4
    if op = 1 then s.requestOut (some part) c i (bit x 9) none
    else if op = 2 then s.askIn (some part) c i h (bit x 9)
    else if op = 3 then s.requestOut (some part) c i (bit x 9) (some h)
    else s
  else if p.off = 0x10 ∧ p.lo then
    let asid := bitsAt x 0 12
    if s.partOf asid ≠ part then s
    else if bit x 16 then s.stopDomain c asid else s.resumeDomain c asid
  else s

/-! ### The cluster debug module (R337, R338, R396) -/

/-- A line's field as the debug module shows it (R301). -/
def Mordant.word (m : Mordant) : Nat := field m.writer 36 5 + field m.wclk 4 32 + field m.rb 2 2 + m.scope % 4

/-- MORDANT: the selected line's field (R337). -/
def State.selected (s : State) (cl : Nat) : Nat :=
  let k := s.clusterAt cl
  let e := s.objAt k.objSel
  if e.entKind = 0 ∨ e.length ≤ 64 * k.lineSel then 0
  else if e.level < 3 then
    if clusterOf (s.homeCore e) = cl then (s.fieldAt (lineOf (s.localAddr e (64 * k.lineSel)))).word else 0
  else if e.level = 3 ∧ clusterOf e.ownCore = cl then
    match (s.coreAt e.ownCore).l1.find? (fun l => l.obj == k.objSel && l.line == k.lineSel) with
    | some l => l.field.word
    | none => 0
  else 0

/-- The trace control of a partition in a cluster. -/
def Cluster.traceOf (k : Cluster) (part : Nat) : Trace := (lookT k.traces part).getD ⟨0, 0, CReg.zero, 0⟩

/-- A granule of a cluster's debug module, as a partition's debug object shows it. -/
def State.moduleGranule (s : State) (part cl off : Nat) : CReg :=
  let k := s.clusterAt cl
  let t := k.traceOf part
  if off = 0x00 then granule (field k.onBreak.toNat 4 1 + field k.halted.toNat 3 1 + k.arm.toNat) 0
  else if off = 0x10 then granule (s.selected cl) 0
  else if off = 0x20 then (s.partAt part).raceRep
  else if off = 0x30 then granule (field t.period 8 5 + t.en % 16) k.optrace
  else if off = 0x40 then t.buf
  else CReg.zero

/-- RELEASE: strands that the cross-trigger halted return to READY, those that it has yet to halt go on, and the engines continue (R338). -/
def State.releaseTrigger (s : State) (cl : Nat) : State :=
  let wake (t : Slot) : Slot :=
    if t.trig then
      { t with state := if t.state = .frozen then .ready else t.state, trig := false }
    else { t with pend := { t.pend with trig := false } }
  let hit := (s.cores.filter (fun p => clusterOf p.1 == cl)).flatMap (fun p =>
    (p.2.slots.filter (fun q => q.2.trig && q.2.state == .frozen)).map (fun q => (p.1, q.1)))
  let s := hit.foldl (fun s x => s.traceFreeze x.1 x.2 0x100) (s.modCluster cl (fun k => { k with halted := false }))
  { s with cores := s.cores.map (fun p => (p.1,
      if clusterOf p.1 = cl then { p.2 with slots := p.2.slots.map (fun q => (q.1, wake q.2)) } else p.2)) }

/-- A write of the debug module's control register, from partition 0's supervisor or the management controller (R337). -/
def State.moduleControl (s : State) (cl x : Nat) : State :=
  let s := s.modCluster cl (fun k => { k with onBreak := bit x 4, arm := bit x 0 })
  let s := if bit x 1 ∧ bit x 0 then s.fireTrigger cl else s
  if bit x 2 then s.releaseTrigger cl else s

/-- A capability register that takes one kind with `stc`, or plain zero (R326, R337, R374, R396): its new value, if it is
accepted. -/
def capSlot (p : Poke) (ok : CReg → Bool) : Option CReg :=
  if !p.cap then none
  else if p.new.tag then (if ok p.new then some p.new else none)
  else if p.new.val = 0 then some CReg.zero
  else none

/-- A report object or a trace buffer is installed: HEAD is 0, and DROPPED the number of records dropped while there was none (R315, R396;
log 66). False: it cannot hold the header. -/
def State.installHeader (s : State) (c : CReg) (dropped : Nat) : State × Bool :=
  let o := objOf c
  match c.tag && genCurrent (s.objAt o) (genOf c) && decide (64 ≤ (s.objAt o).length), s.flatNow (s.objAt o).ownCtx o 0 with
  | true, .ok a => ((s.reportWrite o a (leBytes 8 0)).reportWrite o (a + 16) (leBytes 8 dropped), true)
  | _, _ => (s, false)

/-- A race report object is installed for a partition (R315). -/
def State.installReport (s : State) (part : Nat) (c : CReg) : State :=
  let (s, ok) := s.installHeader c (s.partAt part).raceDropped
  s.modPart part (fun q => { q with raceRep := c, raceDropped := if ok then 0 else q.raceDropped })

/-- A store into a debug module. -/
def State.modulePoke (s : State) (part cl : Nat) (p : Poke) : State × Bool :=
  let k := s.clusterAt cl
  let setTrace (f : Trace → Trace) : State :=
    s.modCluster cl (fun k => { k with traces := putT k.traces part (f (k.traceOf part)) })
  if p.off = 0x00 then
    let s := if p.lo ∧ part = 0 then s.moduleControl cl p.new.lo else s
    (if p.hi then s.modCluster cl (fun k => { k with objSel := bitsAt p.new.hi 36 28, lineSel := bitsAt p.new.hi 0 36 }) else s,
      false)
  else if p.off = 0x20 then
    match capSlot p isOwn with
    | some c => (s.installReport part c, true)
    | none => (s, false)
  else if p.off = 0x30 then
    let s1 := if p.lo then setTrace (fun t => { t with period := bitsAt p.new.lo 8 5, en := p.new.lo % 16 }) else s
    (if p.hi ∧ part = 0 then s1.modCluster cl (fun k => { k with optrace := field (bitsAt p.new.hi 8 5) 8 5 + p.new.hi % 16 }) else s1, false)
  else if p.off = 0x40 then
    match capSlot p (fun c => isOwn c && ((s.objAt (objOf c)).level == 0 || (s.objAt (objOf c)).level == 2
      || (s.objAt (objOf c)).level == 3)) with
    | some c =>
      let (s, ok) := s.installHeader c (k.traceOf part).dropped
      let t : Trace := { (k.traceOf part) with buf := c, dropped := if ok then 0 else (k.traceOf part).dropped }
      (s.modCluster cl (fun k => { k with traces := putT k.traces part t }), true)
    | none => (s, false)
  else (s, false)

/-! ### The partition area (R326, R339, R374) -/

/-- A granule of the partition area. -/
def State.areaGranule (s : State) (part off : Nat) : CReg :=
  let p := s.partAt part
  if off < 0x10000 then
    if s.partOf (off / 16) = part ∧ (lookT s.ctxs (off / 16)).isSome then (lookT p.assist (off / 16)).getD CReg.zero
    else CReg.zero
  else if off = 0x10000 then granule (field p.pstate 16 2) 0
  else if 0x10100 ≤ off ∧ off < 0x11100 then
    match lookT p.windows ((off - 0x10100) / 16) with
    | some w => mkCap 5 0 0 (s.objAt w.obj).gen w.obj 0
    | none => CReg.zero
  else if 0x11100 ≤ off ∧ off < 0x11200 then (lookT p.dbports ((off - 0x11100) / 16)).getD CReg.zero
  else if 0x11200 ≤ off ∧ off < 0x11300 then (lookT p.exports ((off - 0x11200) / 16)).getD CReg.zero
  else CReg.zero

/-- A store into the partition area. -/
def State.areaPoke (s : State) (part : Nat) (p : Poke) : State × Bool :=
  let put (r : Option CReg) (f : CReg → Partition → Partition) : State × Bool :=
    match r with
    | some c => (s.modPart part (f c), true)
    | none => (s, false)
  if p.off < 0x10000 then
    if s.partOf (p.off / 16) = part ∧ (lookT s.ctxs (p.off / 16)).isSome then
      put (capSlot p (fun c => kindOf c == 3)) (fun c q => { q with assist := putT q.assist (p.off / 16) c })
    else (s, false)
  else if p.off = 0x10000 ∧ p.lo then
    let x := p.new.lo
    let target := x % 64
    if part = 0 ∨ target = part then
      let s := if bit x 8 then s.quiesce target else s
      (if bit x 9 then s.requestReset target else s, false)
    else (s, false)
  else if 0x11100 ≤ p.off ∧ p.off < 0x11200 then
    put (capSlot p (fun c => kindOf c == 7)) (fun c q => { q with dbports := putT q.dbports ((p.off - 0x11100) / 16) c })
  else if 0x11200 ≤ p.off ∧ p.off < 0x11300 then
    put (capSlot p (fun c => kindOf c == 0 || kindOf c == 2))
      (fun c q => { q with exports := putT q.exports ((p.off - 0x11200) / 16) c })
  else (s, false)

/-! ### The debug object (R323) -/

/-- A granule of the debug object of a partition. -/
def State.debugGranule (s : State) (part loc : Nat) : CReg :=
  let c := loc / 2 ^ 17
  let off := loc % 2 ^ 17 / 16 * 16
  if coreOk c then
    if off < 0x10000 then s.slotGranule part c (off / 4096) (off % 4096)
    else if off < 0x11000 then s.schedGranule c (off - 0x10000)
    else CReg.zero
  else if c = 30 then s.areaGranule part off
  else if c % 32 = 31 ∧ clusterOk (c / 32) then s.moduleGranule part (c / 32) off
  else CReg.zero

/-- A store into the debug object of a partition; whether it placed what it stored. -/
def State.debugPoke (s : State) (part loc : Nat) (p : Poke) : State × Bool :=
  let c := loc / 2 ^ 17
  let off := loc % 2 ^ 17 / 16 * 16
  if coreOk c then
    if off < 0x10000 then s.slotPoke part c (off / 4096) { p with off := off % 4096 }
    else if off < 0x11000 then (s.schedPoke part c { p with off := off - 0x10000 }, false)
    else (s, false)
  else if c = 30 then s.areaPoke part { p with off := off }
  else if c % 32 = 31 ∧ clusterOk (c / 32) then s.modulePoke part (c / 32) { p with off := off }
  else (s, false)

/-- Whether a capability store through a DEBUG capability may place a NOSEND capability at a location (R134, R325): only into a strand of
the storing domain, so not into another's, and not into a register of the partition or of a debug module. -/
def State.noSendOk (s : State) (loc : Nat) : Bool :=
  let c := loc / 2 ^ 17
  let off := loc % 2 ^ 17
  if coreOk c && decide (off < 0x10000) then
    match s.shown c (off / 4096) with
    | some t => decide (0x430 ≤ off % 4096) || (decide (0x200 ≤ off % 4096) && decide (off % 4096 < 0x420))
        || t.state == .vacant || (c == s.core && t.asid == s.cur.asid)
    | none => true
  else !(c == 30 && (decide (off < 0x10000) || (decide (0x11100 ≤ off) && decide (off < 0x11300))))
    && !(c % 32 == 31 && (off / 16 == 2 || off / 16 == 4))

/-- The cluster in a low state whose windows a location of a DEBUG object lies in, at whose edge the access waits (R405). -/
def State.lowEdge (s : State) (o loc : Nat) : Option Nat :=
  let c := loc / 2 ^ 17
  if s.cur.frame.any (fun f => f.obj == o) then none
  else if (coreOk c || (c % 32 == 31 && clusterOk (c / 32))) && (s.clusterAt (c / 32)).power != 0 then some (c / 32) else none

/-- An access to a window of a cluster in a low state starts its exit, and waits for the end of that (R405). -/
def awaitEdge (o loc : Nat) : Act Unit := do
  match (← getS).lowEdge o loc with
  | some cl => parkWith (fun s => s.stir cl) (.edge cl)
  | none => pure ()

/-- The granule at a location of a DEBUG object: the strand's own assist frame, or its partition's debug object. -/
def State.winGranule (s : State) (o loc : Nat) : CReg :=
  match s.cur.frame with
  | some f =>
    if f.obj = o then
      let r := (f.view s.cur).regGranule (loc / 16 * 16)
      let i := (f.view s.cur).infoGranule s.slot (loc / 16 * 16)
      if r.tag then r else ⟨r.val ||| (granule i.1 i.2).val, false⟩
    else s.debugGranule s.dom.part loc
  | none => s.debugGranule s.dom.part loc

/-- A store into a granule of a DEBUG object. -/
def State.winPoke (s : State) (o loc : Nat) (p : Poke) : State × Bool :=
  match s.cur.frame with
  | some f =>
    if f.obj = o then
      match (f.view s.cur).pokeReg true { p with off := loc / 16 * 16 } with
      | some t => (s.modCur (fun x => { x with frame := some (f.of t) }), true)
      | none => (s, false)
    else s.debugPoke s.dom.part loc p
  | none => s.debugPoke s.dom.part loc p

/-- The n bytes at a location of a window: they lie in one granule. -/
def State.winBytes (s : State) (o loc n : Nat) : List Byte :=
  ((leBytes 16 (s.winGranule o loc).val.toNat).drop (loc % 16)).take n

/-- A store of bytes into a window. -/
def State.winStore (s : State) (o loc : Nat) (bs : List Byte) : State :=
  let k := loc % 16
  let old := leBytes 16 (s.winGranule o loc).val.toNat
  let new := (List.range 16).map (fun i => if k ≤ i then (bs[i - k]?).getD (old.getD i 0) else old.getD i 0)
  let p : Poke := ⟨loc / 16 * 16, ⟨.ofNat 128 (leNat new), false⟩, decide (k < 8), decide (8 < k + bs.length), false⟩
  (s.winPoke o loc p).1

end Sys2Proof.Machine
end

