-- ==== Sys2Proof/Machine/Memory.lean ====
section
/-! DEFINITION. Scalar loads and stores (R131 to R135, R71), in memory, in debug windows and in remote regions (R125). -/

namespace Sys2Proof.Machine

/-! ### Acting for a strand outside its turn -/

/-- Act for a strand of another slot, as at its own instruction; the turn stays where it was. -/
def State.asSlot (s : State) (c i len : Nat) (f : State → State) : State :=
  let s' := f { s with core := c, slot := i, ir := (s.slotAt c i).insn, replaying := len == 0 }
  { s' with core := s.core, slot := s.slot, ir := s.ir, replaying := s.replaying }

/-! ### Remote regions (R125) -/

/-- Steps 1 to 3 of R33 for a REMOTE object in a region, which are all that is checked here (R125). -/
def remoteHead (op : Op) (c : CReg) (supv : Bool) (reg : Nat) : Except FaultInfo Unit :=
  if !c.tag then .error (capFault fCAP_TAG 1 0 reg)
  else if !wellFormed c then .error (capFault fCAP_KIND 2 0 reg)
  else match permit op c 5 supv true with
    | some code => .error (capFault code 3 0 reg)
    | none => .ok ()

/-- Whether an access is a remote one of an open region. -/
def State.remoteAccess (s : State) (c : CReg) : Bool :=
  c.tag && kindOf c < 2 && (s.objAt (objOf c)).level == 5 && s.cur.region.isSome

/-- The generation that an access names at the home (R234, R357): HOMEGEN, or one that no object has when the capability is a stale
one of its REMOTE entry. -/
def homeGenOf (e : Obj) (c : CReg) : Nat := if genCurrent e (genOf c) then e.homeGen else 65536

/-- The location of a remote access, formed without loss (R33): one below 0 becomes one beyond every object's length, which the home
refuses alike. -/
def remoteLoc (x : Int) : Nat := if x < 0 then 2 ^ 64 else x.toNat

/-- A remote store of a region enters its buffer (R125). -/
def remoteStore (c : CReg) (reg : Nat) (off : Int) (bs : List Byte) : Act Unit := do
  let s ← getS
  checked (remoteHead .store c s.dom.supv reg)
  let e := s.objAt (objOf c)
  match s.cur.region with
  | none => pure ()
  | some r =>
    if 64 ≤ r.buf.length then throw (.region 5 0)
    let x : RemoteStore := ⟨objOf c, e.homeDev, e.homeObj, homeGenOf e c, remoteLoc (cursorOf c + off), bs⟩
    modS (fun s => s.modCur (fun t => { t with region := some { r with buf := r.buf ++ [x] } }))

/-- The strand's own buffered stores laid over the bytes of a remote load, the latest last (R125). -/
def Region.overlay (r : Region) (obj loc : Nat) (bs : List Byte) : List Byte :=
  (r.buf.filter (fun x => x.obj == obj)).foldl (fun bs x =>
    (List.range bs.length).map (fun i =>
      let y := loc + i
      (if x.loc ≤ y then x.bytes[y - x.loc]? else none).getD (bs.getD i 0))) bs

/-- A remote load of a region: a request to the home, whose reply the strand awaits (R125). A device that is not mapped answers
as an error completion (R352). -/
def remoteLoad (c : CReg) (reg : Nat) (off : Int) (n : Nat) (acc : Access) (len : Nat) : Act Flow := do
  let s ← getS
  checked (remoteHead .load c s.dom.supv reg)
  let e := s.objAt (objOf c)
  let loc := remoteLoc (cursorOf c + off)
  let t ← me
  if t.pair = 1 then until_ (t.lvq.length < 64) .pairing
  match s.inject s.dom.part e.homeDev s.dom.supv (s.homeCore e) s.core t.asid
      (.rload s.core s.slot e.homeObj (homeGenOf e c) loc n) with
  | none => throw (.region 2 e.homeDev)
  | some s' =>
    putS s'
    return .park (.reply { acc with pieces := (List.range n).map (fun j => (j, loc + j, 0)), obj := objOf c } len)

/-! ### Loads (R133, R135) -/

/-- Bytes and extension of a load (R55). -/
def Size.load : Size → Nat × Nat
  | .b => (1, 1) | .h => (2, 1) | .w => (4, 1) | .d => (8, 0) | .q => (16, 2) | .bz => (1, 0) | .hz => (2, 0) | .wz => (4, 0)

/-- The stream registers that the instruction has popped (R26). -/
def popped : Act (List Nat) := do return (← get).pops.map (fun p => p.1)

/-- `ld` with an offset in bytes: delivered at once, or at the reply (R131, R133). -/
def loadAt (len : Nat) (d : CR) (c : CReg) (reg : Nat) (off : Int) (z : Size) : Act Flow := do
  let s ← getS
  let (n, ext) := Size.load z
  let acc : Access :=
    { cap := false, kind := 0, dst := d.val, ext := ext, size := n, pieces := [], obj := objOf c, pops := ← popped,
      own := isOwn c }
  let t ← me
  if s.remoteAccess c then
    if t.pair = 2 then
      checked (remoteHead .load c s.dom.supv reg)
      dst d (← takeLvq)
      return .next
    else remoteLoad c reg off n acc len
  else
    let spot ← checkCapV .load c reg 0 off n n
    if kindOf c = 6 then
      awaitEdge spot.obj spot.loc
      dst d (← outside (do return extendBytes ext ((← getS).winBytes spot.obj spot.loc n)))
      return .next
    else
      let a ← flatAct spot.obj spot.loc
      if t.pair = 2 then
        dst d (← takeLvq)
        return .next
      else
        if t.pair = 1 then until_ (t.lvq.length < 64) .pairing
        let hand := (← getS).atHand s.core spot.obj a n
        raceCheck (isOwn c && (← getS).checksNow hand) spot.obj spot.loc a n false
        let s ← getS
        if hand then
          let v := extendBytes ext (s.seen s.core s.slot spot.obj a n)
          modS (fun s => s.pushLvq s.core s.slot v)
          dst d v
          return .next
        else return .park (.reply { acc with pieces := (List.range n).map (fun j => (j, spot.loc + j, a + j)) } len)

/-- Where an instruction that has stored goes: on, or to wait for the removal of cached translations (R241). -/
def afterStore (o len : Nat) : Act Flow := do
  let s ← getS
  if (s.objAt o).ptab then return .park (.translation len) else return .next

/-- `st` with an offset in bytes (R131, R133). -/
def storeAt (len : Nat) (v : CReg) (c : CReg) (reg : Nat) (off : Int) (n : Nat) : Act Flow := do
  let s ← getS
  let bs := leBytes n v.val.toNat
  if s.remoteAccess c then
    remoteStore c reg off bs
    return .next
  else
    let spot ← checkCapV .store c reg 0 off n n
    if kindOf c = 6 then
      awaitEdge spot.obj spot.loc
      let store : Act Unit := modS (fun s => s.winStore spot.obj spot.loc bs)
      if s.ownFrame c then
        effect [v] spot.loc (pure ())
        store
      else effect [v] spot.loc store
      return .next
    else
      let a ← flatAct spot.obj spot.loc
      storeBytes (isOwn c) spot.obj spot.loc a (bs.map some) none
      afterStore spot.obj len

/-- `ld` in its forms. -/
def load (len : Nat) (d a : CR) (off : Int) (z : Size) : Act Flow := do
  dirs [a] [d]
  let c ← src a
  loadAt len d c a.val off z

/-- `st` in its forms. -/
def store (len : Nat) (d a : CR) (off : Int) (z : Size) : Act Flow := do
  dirs [d, a] []
  let v ← src d
  let c ← src a
  storeAt len v c a.val off (Size.load z).1

/-- `ld` (R133). -/
def execLd (d a : CR) (z : Size) (off : BitVec 12) (s : State) : Out := issue 4 (load 4 d a off.toInt z) s

/-- `st` (R133). -/
def execSt (d a : CR) (z : Size) (off : BitVec 12) (s : State) : Out := issue 4 (store 4 d a off.toInt z) s

/-- `ldx` (R135). -/
def execLdx (d a b : CR) (z : Size) (sc : Fin 5) (s : State) : Out :=
  issue 4 (do
    dirs [a, b] [d]
    let c ← src a
    let x ← src b
    loadAt 4 d c a.val (x.slo * 2 ^ sc.val) z) s

/-- `stx` (R135). -/
def execStx (d a b : CR) (z : Size) (sc : Fin 5) (s : State) : Out :=
  issue 4 (do
    dirs [d, a, b] []
    let v ← src d
    let c ← src a
    let x ← src b
    storeAt 4 v c a.val (x.slo * 2 ^ sc.val) (Size.load z).1) s

/-- `c.ld.d` (R71). -/
def execCLdD (d a : BitVec 3) (k : BitVec 5) (s : State) : Out := issue 2 (load 2 (cr3 d) (cr3 a) (8 * k.toNat) .d) s

/-- `c.st.d` (R71). -/
def execCStD (d a : BitVec 3) (k : BitVec 5) (s : State) : Out := issue 2 (store 2 (cr3 d) (cr3 a) (8 * k.toNat) .d) s

/-- `c.ld.w` (R71). -/
def execCLdW (d a : BitVec 3) (k : BitVec 5) (s : State) : Out := issue 2 (load 2 (cr3 d) (cr3 a) (4 * k.toNat) .w) s

/-- `c.st.w` (R71). -/
def execCStW (d a : BitVec 3) (k : BitVec 5) (s : State) : Out := issue 2 (store 2 (cr3 d) (cr3 a) (4 * k.toNat) .w) s

/-- `c.ldsp` (R71). -/
def execCLdsp (d : CR) (k : BitVec 6) (s : State) : Out := issue 2 (load 2 d 29 (8 * k.toNat) .d) s

/-- `c.stsp` (R71). -/
def execCStsp (d : CR) (k : BitVec 6) (s : State) : Out := issue 2 (store 2 d 29 (8 * k.toNat) .d) s

/-! ### Capability loads and stores (R134) -/

/-- The bits and tag of the granule at a flat address as a core sees it. -/
def State.granuleSeen (s : State) (c o a : Nat) : CReg :=
  let level := (s.objAt o).level
  ⟨.ofNat 128 (leNat ((List.range 16).map (fun k => s.byteAt c o level (a + k)))), s.tagSeen c o level a⟩

/-- A granule becomes plain zero where a core's access performs: in its L1 or in the level (R134). -/
def State.zeroGranule (s : State) (c o a : Nat) : State :=
  let zeros : List (Option Byte) := (List.range 16).map (fun _ => some 0)
  if cached (s.objAt o).level then
    match (s.coreAt c).l1Hit o a with
    | some l => s.modCore c (fun k => k.setLine (l.put a zeros false))
    | none => s.writeGranule a CReg.zero
  else s.writeGranule a CReg.zero

/-- The strand's capability load of a granule, checked once: a SHADE moves out of it, through an OWN only, which is a write (R130, R134). -/
def takeGranule (own : Bool) (reg o loc a : Nat) : Act CReg := do
  let s ← getS
  let g := s.granuleSeen s.core o a
  if isShade g && !own then stopWith (capFault fCAP_PERM 3 0 reg)
  raceCheck own o loc a 16 (isShade g)
  if isShade g then
    modS (fun s => (s.zeroGranule s.core o a).modCur (fun t => { t with wrote := putN t.wrote o }))
    modS (fun s => s.recordWrite (s.party s.core s.slot) o loc a 16 (clkAt s.cur.clock s.slot))
  return g

/-- A buffered store that covers a granule. -/
def StoreEntry.meets (e : StoreEntry) (a : Nat) : Bool := decide (e.addr < a + 16) && decide (a < e.addr + e.bytes.length)

/-- What a buffered store gives a granule of which it holds every byte: the value and the tag (R134). -/
def StoreEntry.granule (e : StoreEntry) (a : Nat) : Option CReg :=
  let bs := (List.range 16).filterMap (fun i => if e.addr ≤ a + i then (e.bytes[a + i - e.addr]?).join else none)
  if bs.length = 16 then some ⟨.ofNat 128 (leNat bs), e.cap.getD false⟩ else none

/-- What an `ldc` takes from the strand's own buffered stores: the newest that covers the granule, when it holds all of it and what it
gives is no SHADE, which moves out of the granule itself (R134). -/
def forwarded (es : List StoreEntry) (a : Nat) : Option CReg :=
  match (es.filter (fun e => e.meets a)).getLast? with
  | some e => (e.granule a).filter (fun g => !isShade g)
  | none => none

/-- `ldc` (R134). A store of the strand that holds the whole granule gives it; others that cover it are performed first, those that the
comparator holds awaited. A granule that is not at hand is checked, and taken, where it is read. DESIGN CHOICE (log 72): of a poisoned
object, a SHADE granule through a SHADE faults POISON, as the order of the pseudocode has it. -/
def execLdc (d a : CR) (off : BitVec 12) (s : State) : Out :=
  issue 4 (do
    if d.val = 0 then illegal
    dirs [a] [d]
    let c ← src a
    let spot ← checkCapV .capLoad c a.val 0 off.toInt 16 16
    let t ← me
    if kindOf c = 6 then
      awaitEdge spot.obj spot.loc
      let v ← outside (do
        let s ← getS
        let g := s.winGranule spot.obj spot.loc
        if isShade g then
          modS (fun s => (s.winPoke spot.obj spot.loc ⟨spot.loc, CReg.zero, true, true, true⟩).1)
        return g)
      dst d v
      return .next
    else
      let x ← flatAct spot.obj spot.loc
      if t.pair = 2 then
        dst d (← takeLvq)
        return .next
      else
        if t.pair = 1 then until_ (t.lvq.length < 64) .pairing
        match forwarded (t.sbuf ++ t.held.filterMap (fun h => h.store)) x with
        | some g =>
          raceCheck (isOwn c) spot.obj spot.loc x 16 false
          modS (fun s => s.pushLvq s.core s.slot g)
          dst d g
          return .next
        | none =>
        until_ (!t.held.any (fun h => h.store.any (fun e => e.meets x))) .pairing
        if t.sbuf.any (fun e => e.meets x) then modS (fun s => s.drain s.core s.slot)
        let s ← getS
        if s.atHand s.core spot.obj x 16 then
          let g ← takeGranule (isOwn c) a.val spot.obj spot.loc x
          modS (fun s => s.pushLvq s.core s.slot g)
          dst d g
          return .next
        else
          let acc : Access :=
            { cap := true, kind := 0, dst := d.val, ext := if isOwn c then 1 else 0, size := 16,
              pieces := (List.range 16).map (fun j => (j, spot.loc + j, x + j)), obj := spot.obj, pops := ← popped,
              own := isOwn c }
          return .park (.reply acc 4)) s

/-- Whether a NOSEND capability may be stored in an object: LS or TS of the storing core, or a window that takes it (R134). -/
def State.takesNoSend (s : State) (c : CReg) (off : Int) : Bool :=
  let e := s.objAt (objOf c)
  if kindOf c = 6 then
    s.ownFrame c || s.noSendOk (cursorOf c + off).toNat
  else (e.level == 0 || e.level == 1) && s.homeCore e == s.core

/-- `stc` (R134): the checks of R33, with NOSEND at step 3; a SHADE that is stored leaves its register. -/
def execStc (d a : CR) (off : BitVec 12) (s : State) : Out :=
  issue 4 (do
    dirs [d, a] []
    let v ← src d
    let c ← src a
    let s ← getS
    let t ← me
    let barred := v.tag && noSend v && !s.takesNoSend c off.toInt
    match checkHead s .capStore c (s.mayDebug c) false 0 a.val with
    | .error f => if f.code = fCAP_GEN ∧ barred then stopWith (capFault fCAP_PERM 3 0 d.val)
    | .ok _ => if barred then stopWith (capFault fCAP_PERM 3 0 d.val)
    let spot ← checkCapV .capStore c a.val 0 off.toInt 16 16
    if kindOf c = 6 then
      awaitEdge spot.obj spot.loc
      let put : Act Unit := do
        let s ← getS
        let (s', placed) := s.winPoke spot.obj spot.loc ⟨spot.loc, v, true, true, true⟩
        putS s'
        if placed && isShade v then setRaw d CReg.zero
      if s.ownFrame c then
        effect [v] spot.loc (pure ())
        put
      else effect [v] spot.loc put
      if t.pair = 2 && isShade v then setRaw d CReg.zero
      return .next
    else
      let x ← flatAct spot.obj spot.loc
      storeBytes (isOwn c) spot.obj spot.loc x ((leBytes 16 v.val.toNat).map some) (some v.tag)
      if isShade v then setRaw d CReg.zero
      afterStore spot.obj 4) s

end Sys2Proof.Machine
end

