-- ==== Sys2Proof/Machine/Sync.lean ====
section
/-! DEFINITION. Sync words (R146, R147) and atomics (R148 to R151). -/

namespace Sys2Proof.Machine

/-! ### Words and deferred lists (R146) -/

/-- Whether a word is full. -/
def State.isFull (s : State) (w : Nat) : Bool := s.full.contains w

/-- The next request of a word's list that its state admits: a `put` when it is empty, any other when it is full. -/
def State.nextGrant (s : State) (w : Nat) : Option Waiter :=
  s.waiters.find? (fun x => x.word == w && (if s.isFull w then x.op != 2 else x.op == 2)
    && !(x.slot == 16 && s.engineWaits x.core x.dst 19))

/-- Whether a request of the strand whose turn it is may be served at once: no other that waits for the word can be, which would come
first (R4, R146). -/
def State.mayServe (s : State) (w : Nat) : Bool := (s.nextGrant w).all (fun x => x.core == s.core && x.slot == s.slot)

/-- The value of a word. -/
def State.wordAt (s : State) (w : Nat) : CReg := ⟨.ofNat 128 (leNat (Memory.read s.mem w 16)), s.tagAt w⟩

/-- A word becomes full with a value. -/
def State.fillWord (s : State) (w : Nat) (v : CReg) : State := { s.writeGranule w v with full := putN s.full w }

/-- A word becomes empty; it holds nothing. -/
def State.emptyWord (s : State) (w : Nat) : State := { s.writeGranule w CReg.zero with full := dropN s.full w }

/-- The list a word's bank keeps, and how many entries it has (R146): one for a core's LS, one for a cluster store, one for each
HBM channel controller. DESIGN CHOICE (log 49): a controller serves a run of 16 GiB of HBM addresses. -/
def bankOf (w : Nat) : Nat × Nat :=
  if w < 2 ^ 31 then (w / 2 ^ 18, 32)
  else if w < hbmBase then (2 ^ 31 + w / 2 ^ 23, 64)
  else (2 ^ 52 + w / 2 ^ 34, 256)

/-- Whether the deferred list of a word has room. -/
def State.listRoom (s : State) (w : Nat) : Bool :=
  (s.waiters.filter (fun x => (bankOf x.word).1 == (bankOf w).1)).length < (bankOf w).2

/-- A request that cannot complete joins the deferred list, or retries after a refusal (R146). -/
def joinList {α : Type} (w op : Nat) : Act α := do
  let s ← getS
  let t ← me
  if s.listRoom w then
    let x : Waiter :=
      { word := w, dev := s.devOf t.asid, core := s.core, slot := s.slot, op := op, dst := 0, val := CReg.zero, clk := ⟨0, []⟩,
        len := 4 }
    parkWith (fun s => { s with waiters := s.waiters ++ [x] }) (.deferred w)
  else waitFor (.retry w)

/-- The release of a sync operation at a word of this device (R132, R147, R300): ALL is released, the strand ticks, and its
clock goes to the release table. -/
def releaseWord (w : Nat) : Act Unit := do
  releaseMe .device
  tickMe
  let x ← myClock
  modS (fun s => s.tableRelease s.core s.cur.asid true w x)

/-- The acquire of a word (R147). -/
def acquireWord (w : Nat) : Act Unit := modS (fun s => s.tableAcquire s.core s.slot true w)

/-- The word that a location of a SYNC object lies in. -/
def syncWord (c : CReg) (reg : Nat) (off : Int) (n : Nat) : Act (Nat × Nat × Spot) := do
  let spot ← checkCapV .sync c reg 0 off n n
  let a ← flatAct spot.obj spot.loc
  return (a / 16 * 16, a, spot)

/-! ### `take`, `peek`, `put` (R147) -/

/-- A taker receives a value: an OWN in transit becomes its domain's (R147, R224). -/
def received (v : CReg) : Act Unit := do
  let s ← getS
  let o := objOf v
  if isOwn v ∧ (s.objAt o).transit ∧ (s.objAt o).gen = genOf v then
    putS ((s.setOwner o (s.devOf s.cur.asid) s.core s.cur.asid).modObj o (fun e => { e with transit := false }))

/-- `take` of a word. -/
def takeWord (w : Nat) : Act CReg := do
  modS (fun s => s.drain s.core s.slot)
  let s ← getS
  if s.isFull w ∧ s.mayServe w then
    let v := s.wordAt w
    modS (fun s => s.emptyWord w)
    received v
    acquireWord w
    return v
  else joinList w 0

/-- `peek` of a word. -/
def peekWord (w : Nat) : Act CReg := do
  modS (fun s => s.drain s.core s.slot)
  let s ← getS
  if s.isFull w ∧ s.mayServe w then
    acquireWord w
    return { s.wordAt w with tag := false }
  else joinList w 1

/-- A capability that leaves through a `put` (R147): an OWN is bumped and in transit, and leaves the L1; a SHADE's clean lines do (R237). -/
def putCap (v : CReg) (reg : Nat) : Act CReg := do
  if isOwn v then
    let s ← getS
    if !wellFormed v then stopWith (capFault fCAP_KIND 2 0 reg)
    if !genCurrent (s.objAt (objOf v)) (genOf v) then stopWith (capFault fCAP_GEN 4 0 reg)
    settle (objOf v)
    modS (fun s => (s.releaseObj s.core s.slot (objOf v)).invalidate s.core (objOf v) false)
    let n ← bumpMe v reg
    modS (fun s => s.writeEntry n { s.objAt n with transit := true })
    return (← getS).ownCap n (rbitsOf v) (cursorOf v)
  else if isShade v then
    let s ← getS
    until_ (!s.anyCmd s.core s.cur.asid (fun k => k.borrows (objOf v))) (.engine (objOf v))
    modS (fun s => s.invalidate s.core (objOf v) true)
    return v
  else return v

/-- `put` of a value into a word. -/
def putWord (w : Nat) (v : CReg) (reg : Nat) : Act Unit := do
  modS (fun s => s.drain s.core s.slot)
  let s ← getS
  if s.isFull w ∨ !s.mayServe w then joinList w 2
  else
    let x ← putCap v reg
    releaseWord w
    modS (fun s => s.fillWord w x)

/-- `take` and `peek` as an action. -/
def takeAct (d a : CR) (off : Int) (keep : Bool) : Act Flow := do
  if d.val = 0 ∧ !keep then illegal
  dirs [a] [d]
  let c ← src a
  let (w, _, spot) ← syncWord c a.val off 16
  effectV [c] spot.loc (if keep then peekWord w else takeWord w) (fun v => dst d v)
  return .next

/-- `put` as an action; its release never reaches system scope, so STRICT has no effect on it (R147, R256). DEDUCED (log 50): no tagged
HOST or ENGONLY value is put. -/
def putAct (d a : CR) (off : Int) : Act Flow := do
  dirs [d, a] []
  let v ← src d
  let c ← src a
  let s ← getS
  let barred := v.tag && (noSend v || engOnly v || kindOf v == 5)
  match checkHead s .sync c (s.mayDebug c) false 0 a.val with
  | .error f => if f.code = fCAP_GEN ∧ barred then stopWith (capFault fCAP_PERM 3 0 d.val)
  | .ok _ => if barred then stopWith (capFault fCAP_PERM 3 0 d.val)
  let (w, _, spot) ← syncWord c a.val off 16
  effect [v, c] spot.loc (putWord w v d.val)
  if isOwn v || isShade v then setRaw d CReg.zero
  return .next

/-! ### Atomics (R148 to R151) -/

/-- The operations of R149. -/
inductive AmoOp where
  | add | and | or | xor | min | max | minn | maxn | swap | cas
deriving DecidableEq, Repr

/-- The new value of an integer atomic of n bits (R149). -/
def amoNew (op : AmoOp) (n old b expect : Nat) : Nat :=
  match op with
  | .add => (old + b) % 2 ^ n
  | .and => old &&& b
  | .or => old ||| b
  | .xor => old ^^^ b
  | .min => if sintN old n ≤ sintN b n then old else b
  | .max => if sintN old n ≤ sintN b n then b else old
  | .minn => if old ≤ b then old else b
  | .maxn => if old ≤ b then b else old
  | .swap => b
  | .cas => if old = expect then b else old

/-- The AtomicOp of an integer atomic through HOST, for an operand of n bytes (R148, R322). -/
def AmoOp.host (op : AmoOp) (n : Nat) : Option Nat :=
  let k := if n = 8 then 1 else 0
  match op with
  | .add => some k
  | .swap => some (2 + k)
  | .cas => some (4 + k)
  | .and | .or | .xor | .min | .max | .minn | .maxn => none

/-- An atomic: operands, size in bytes, STRICT, the AtomicOp it is through HOST, the function of the old value (a new value and
what it leaves in the strand), and the extension of the old value. -/
structure Atomic where
  d : CR
  a : CR
  b : CR
  readsD : Bool
  n : Nat
  strict : Bool
  host : Option Nat
  new : Slot → (old operand expect : Nat) → Nat × Slot
  ext : Nat

/-- An integer atomic (R149). -/
def intAtomic (op : AmoOp) (d a b : CR) (strict dbl : Bool) : Atomic :=
  let n := if dbl then 8 else 4
  { d := d, a := a, b := b, readsD := op == .cas, n := n, strict := strict, host := op.host n,
    new := fun t old b x => (amoNew op (8 * n) old b x, t), ext := if dbl then 0 else 1 }

/-- `amo.cas2` (R151). -/
def cas2Atomic (d a b : CR) (strict : Bool) : Atomic :=
  { d := d, a := a, b := b, readsD := true, n := 16, strict := strict, host := some 6,
    new := fun t old b x => (amoNew .cas 128 old b x, t), ext := 2 }

/-- The format of a floating atomic (R150). -/
def atomicFmt : AFTy → FFmt
  | .f32 => fmtF32 | .f64 => fmtF64 | .bf16 => fmtBF16

/-- The controls of a floating atomic (R58, R93, R150). -/
def Slot.atomicCtl (t : Slot) (ctl : BitVec 4) (u : Nat) : Ctl :=
  if ctl.getLsbD 3 then ⟨t.rm, ctl.getLsbD 0, ctl.getLsbD 1, if ctl.getLsbD 2 then 0 else 2, u⟩
  else t.ctl (if bit t.fpmode.toNat 4 then 2 else 0) u

/-- A floating atomic (R150): `fadd`, or the lesser or greater. -/
def fpAtomic (sel : Option Bool) (d a b : CR) (strict : Bool) (ty : AFTy) (ctl : BitVec 4) : Atomic :=
  let f := atomicFmt ty
  { d := d, a := a, b := b, readsD := false, n := f.width / 8, strict := strict, host := none, ext := 0,
    new := fun t old b _ =>
      let (u, t) := if sel.isNone && t.stochastic then t.roll else (0, t)
      let r := match sel with
        | none => fAdd f (t.atomicCtl ctl u) false old b
        | some g => fSel f (t.atomicCtl ctl u) g old b
      (r.pat, t.raise r.flags) }

/-- Low n bytes of a register. -/
def lowBytes (c : CReg) (n : Nat) : Nat := c.val.toNat % 2 ^ (8 * n)

/-- What an atomic does to n bytes at a flat address: the old value. -/
def State.atomicAt (s : State) (k : Atomic) (a operand expect : Nat) : Nat × State :=
  let old := leNat (Memory.read s.mem a k.n)
  let (new, t) := k.new s.cur old operand expect
  (old, ({ s with mem := Memory.write s.mem a (leBytes k.n new) }).modCur (fun _ => t))

/-- An atomic on a sync word (R148). -/
def wordAtomic (k : Atomic) (w a operand expect : Nat) : Act CReg := do
  modS (fun s => s.drain s.core s.slot)
  let s ← getS
  if !s.isFull w ∨ !s.mayServe w then joinList w 3
  else if s.tagAt w then stopWith (capFault fCAP_PERM 3 0 k.a.val)
  else
    releaseMe .device
    acquireWord w
    let s ← getS
    let (old, s') := s.atomicAt k a operand expect
    putS s'
    releaseWord w
    return extendBytes k.ext (leBytes k.n old)

/-- An atomic through HOST (R148, R365): asked of the host, or performed there when it answers, with the edges of its word (R132, R299).
Its operands are taken up again at the answer. At a release at system scope that
the partition's policy narrows, STRICT faults before any effect (R256). -/
def hostAtomic (k : Atomic) (op : Nat) (c : CReg) (operand expect : Nat) (answered : Bool) : Act CReg := do
  let spot ← checkCapV .atomic c k.a.val 0 0 k.n k.n
  let a ← flatAct spot.obj spot.loc
  let s ← getS
  if !answered && k.strict && (s.partAt s.dom.part).tenantOnly then fault fSCOPE_CLIP
  let word := a / 16 * 16
  if answered then
    let (old, s') := s.atomicAt k a operand expect
    putS s'
    acquireWord word
    tickMe
    let x ← myClock
    modS (fun s => s.tableRelease s.core s.cur.asid true word x)
    return extendBytes k.ext (leBytes k.n old)
  else
    until_ (!s.mustRebase s.core s.slot) .rebase
    awaitRemote .system
    let acc : Access :=
      { cap := false, kind := 3, dst := k.d.val, ext := op, size := k.n,
        pieces := (List.range k.n).map (fun j => (j, spot.loc + j, a + j)), obj := spot.obj, pops := [],
        own := false }
    parkWith (fun s => (s.modCur (fun t => if t.pair = 1 then { t with held := t.held.dropLast } else t)).releaseAll s.core s.slot .system)
      (.reply acc 4)

/-- An atomic as an action. -/
def atomicAct (k : Atomic) (answered : Bool) : Act Flow := do
  dirs ([k.a, k.b] ++ if k.readsD then [k.d] else []) [k.d]
  let c ← src k.a
  let b ← src k.b
  let x ← if k.readsD then src k.d else pure CReg.zero
  let put (v : CReg) : Act Unit := dst k.d v
  let operand := lowBytes b k.n
  let expect := lowBytes x k.n
  if kindOf c = 5 ∧ c.tag ∧ k.host.isSome then
    let go := hostAtomic k (k.host.getD 0) c operand expect answered
    if answered then
      let v ← go
      modS (fun s => s.pushLvq s.core s.slot v)
      put v
    else effectV [c, b, x] (cursorOf c) go put
  else
    let s ← getS
    if kindOf c = 5 ∧ c.tag ∧ wellFormed c ∧ !s.confirmed then stopWith (capFault fCAP_PERM 3 0 k.a.val)
    let (w, a, spot) ← syncWord c k.a.val 0 k.n
    effectV [c, b, x] spot.loc (wordAtomic k w a operand expect) put
  return .next

/-- The atomic of an instruction. -/
def atomicOf (i : Instr) : Option Atomic :=
  match i with
  | .amoAdd d a b st w => some (intAtomic .add d a b st w)
  | .amoAnd d a b st w => some (intAtomic .and d a b st w)
  | .amoOr d a b st w => some (intAtomic .or d a b st w)
  | .amoXor d a b st w => some (intAtomic .xor d a b st w)
  | .amoMin d a b st w => some (intAtomic .min d a b st w)
  | .amoMax d a b st w => some (intAtomic .max d a b st w)
  | .amoMinn d a b st w => some (intAtomic .minn d a b st w)
  | .amoMaxn d a b st w => some (intAtomic .maxn d a b st w)
  | .amoSwap d a b st w => some (intAtomic .swap d a b st w)
  | .amoCas d a b st w => some (intAtomic .cas d a b st w)
  | .amoFadd d a b st t ctl => some (fpAtomic none d a b st t ctl)
  | .amoFmin d a b st t ctl => some (fpAtomic (some false) d a b st t ctl)
  | .amoFmax d a b st t ctl => some (fpAtomic (some true) d a b st t ctl)
  | .amoCas2 d a b st => some (cas2Atomic d a b st)
  | _ => none

/-- The action of a sync instruction, as its strand performs it when its request is granted. -/
def syncAct (i : Instr) : Option (Act Flow) :=
  match i with
  | .take d a off => some (takeAct d a off.toInt false)
  | .peek d a off => some (takeAct d a off.toInt true)
  | .put d a off _ => some (putAct d a off.toInt)
  | i => (atomicOf i).map (fun k => atomicAct k false)

/-! ### Grants (R146, R147) -/

/-- Run an action for a strand that waits, as at its own instruction: it retires, or it faults, waits for something else or fails its
region, as it was when the instruction issued, which `back` restores. -/
def State.finishBy (s : State) (c i len : Nat) (back : State → State) (act : Act Flow) : State :=
  s.asSlot c i len (fun s =>
    let s1 := s.modCur (fun t => { t with state := .ready })
    let s0 := back s1
    match act.run ⟨s0, s1, []⟩ with
    | .ok (f, x) => x.st.retire len f
    | .error (.freeze f) => (s0.freeze f).boundary c i
    | .error (.freezeIn s' f) => (s'.freeze f).boundary c i
    | .error (.wait w) => s0.parked w
    | .error (.park s' w) => s'.parked w
    | .error (.region code dev) => (s0.failRegionAt c i code dev).boundary c i)

/-- Run an action of an instruction that has had no effect before. -/
def State.finishAt (s : State) (c i len : Nat) (act : Act Flow) : State := s.finishBy c i len id act

/-- The instruction that a slot is at. -/
def State.insnAt (s : State) (c i : Nat) : Option Instr :=
  let w := (s.slotAt c i).insn
  match decodePattern (if w < 2 ^ 15 then 2 else 4) w with
  | .ok x => some x
  | .error _ => none

/-- A `put` by host inbound (party 19) of a domain: its clock ticks and goes to the release table, and the word fills (R299,
R377). -/
def State.hostPut (s : State) (core asid w : Nat) (v : CReg) : State :=
  let s := s.tickEngine core asid 19
  (s.tableRelease core asid true w (s.engineCarry core asid 19)).fillWord w v

/-- A request is granted: a strand's instruction is performed, or a host's `put` (R146, R377). -/
def State.grant (s : State) (x : Waiter) : State :=
  let done (s : State) : State := { s with waiters := s.waiters.erase x }
  if x.slot = 16 then (done s).hostPut x.core x.dst x.word x.val
  else match (s.insnAt x.core x.slot).bind syncAct with
    | some act => done (s.finishAt x.core x.slot x.len act)
    | none => done s

/-- Grant what a word's state admits, one request after another. -/
def State.service (s : State) (w : Nat) : Nat → State
  | 0 => s
  | n + 1 => match s.nextGrant w with
    | some x => (s.grant x).service w n
    | none => s

/-- Every word that has waiters is served: in the cycle after a sync operation that lets it be (R4). -/
def State.serveAll (s : State) : State :=
  let ws := s.waiters.foldl (fun l x => if l.contains x.word then l else l ++ [x.word]) []
  ws.foldl (fun s w => s.service w (2 * s.waiters.length)) s

/-- `take` (R147). -/
def execTake (d a : CR) (off : BitVec 12) (s : State) : Out := issue 4 (takeAct d a off.toInt false) s
/-- `peek` (R147). -/
def execPeek (d a : CR) (off : BitVec 12) (s : State) : Out := issue 4 (takeAct d a off.toInt true) s
/-- `put` (R147). -/
def execPut (d a : CR) (off : BitVec 12) (_ : Bool) (s : State) : Out := issue 4 (putAct d a off.toInt) s

/-- Issue an atomic. -/
def issueAtomic (k : Atomic) (s : State) : Out := issue 4 (atomicAct k false) s

/-- `amo.add` (R149). -/
def execAmoAdd (d a b : CR) (st w : Bool) (s : State) : Out := issueAtomic (intAtomic .add d a b st w) s
/-- `amo.and` (R149). -/
def execAmoAnd (d a b : CR) (st w : Bool) (s : State) : Out := issueAtomic (intAtomic .and d a b st w) s
/-- `amo.or` (R149). -/
def execAmoOr (d a b : CR) (st w : Bool) (s : State) : Out := issueAtomic (intAtomic .or d a b st w) s
/-- `amo.xor` (R149). -/
def execAmoXor (d a b : CR) (st w : Bool) (s : State) : Out := issueAtomic (intAtomic .xor d a b st w) s
/-- `amo.min` (R149). -/
def execAmoMin (d a b : CR) (st w : Bool) (s : State) : Out := issueAtomic (intAtomic .min d a b st w) s
/-- `amo.max` (R149). -/
def execAmoMax (d a b : CR) (st w : Bool) (s : State) : Out := issueAtomic (intAtomic .max d a b st w) s
/-- `amo.minn` (R149). -/
def execAmoMinn (d a b : CR) (st w : Bool) (s : State) : Out := issueAtomic (intAtomic .minn d a b st w) s
/-- `amo.maxn` (R149). -/
def execAmoMaxn (d a b : CR) (st w : Bool) (s : State) : Out := issueAtomic (intAtomic .maxn d a b st w) s
/-- `amo.swap` (R149). -/
def execAmoSwap (d a b : CR) (st w : Bool) (s : State) : Out := issueAtomic (intAtomic .swap d a b st w) s
/-- `amo.cas` (R149). -/
def execAmoCas (d a b : CR) (st w : Bool) (s : State) : Out := issueAtomic (intAtomic .cas d a b st w) s
/-- `amo.fadd` (R150). -/
def execAmoFadd (d a b : CR) (st : Bool) (t : AFTy) (ctl : BitVec 4) (s : State) : Out :=
  issueAtomic (fpAtomic none d a b st t ctl) s
/-- `amo.fmin` (R150). -/
def execAmoFmin (d a b : CR) (st : Bool) (t : AFTy) (ctl : BitVec 4) (s : State) : Out :=
  issueAtomic (fpAtomic (some false) d a b st t ctl) s
/-- `amo.fmax` (R150). -/
def execAmoFmax (d a b : CR) (st : Bool) (t : AFTy) (ctl : BitVec 4) (s : State) : Out :=
  issueAtomic (fpAtomic (some true) d a b st t ctl) s
/-- `amo.cas2` (R151). -/
def execAmoCas2 (d a b : CR) (st : Bool) (s : State) : Out := issueAtomic (cas2Atomic d a b st) s

end Sys2Proof.Machine
end

