-- ==== Sys2Proof/Machine/Assist.lean ====
section
/-! DEFINITION. What the vector instructions share: lanes and predicates (R27, R28, R162), the loop buffer's hold on the vector
unit (R164, R180), and entry into the subnormal assist (R93, R326, R327). -/

namespace Sys2Proof.Machine

/-! ### Lanes (R27, R28, R162) -/

/-- Lane i of width w. -/
def lane (v : VReg) (w i : Nat) : Nat := v.toNat / 2 ^ (w * i) % 2 ^ w

/-- The vector with lane i of width w replaced. -/
def setLane (w : Nat) (v : VReg) (i x : Nat) : VReg :=
  .ofNat 256 (v.toNat - lane v w i * 2 ^ (w * i) + x % 2 ^ w * 2 ^ (w * i))

/-- The vector with listed lanes replaced. -/
def setLanes (w : Nat) (v : VReg) (ls : List (Nat × Nat)) : VReg := ls.foldl (fun v l => setLane w v l.1 l.2) v

/-- Whether lane i of width w is governed by a set bit (R28). -/
def active (p : PReg) (w i : Nat) : Bool := p.getLsbD (w * i / 8)

/-- The active ones of the first n lanes of width w, rising. -/
def activeLanes (p : PReg) (w n : Nat) : List Nat := (List.range n).filter (fun i => active p w i)

/-- The lane count of a width (R27). -/
def laneCount (w : Nat) : Nat := 256 / w

/-- A result for every active lane; the others keep the old value (R162). -/
def mapActive (p : PReg) (w : Nat) (old : VReg) (f : Nat → Nat) : VReg :=
  setLanes w old ((activeLanes p w (laneCount w)).map (fun i => (i, f i)))

/-- The width of an integer lane type (R60). -/
def laneW (t : ITy) : Nat :=
  match t with
  | .i8 | .n8 => 8
  | .i4 | .n4 => 4
  | .i64 | .n64 => 64

/-- The format of a floating lane type (R60). -/
def laneFmt (t : FTy) : FFmt :=
  match t with
  | .f64 => fmtF64 | .f32 => fmtF32 | .f16 => fmtF16 | .bf16 => fmtBF16

/-! ### The vector unit while a loop replays (R164, R180, R182) -/

/-- A vector instruction that is not itself a replay waits while a loop replays: another slot's, or the strand's own, but for one that its
assist has paused (R183). -/
def vectorUnit : Act Unit := do
  let s ← getS
  let t ← me
  if s.replaying then pure ()
  else match (s.coreAt s.core).loopSlot with
    | some j => until_ (j == s.slot && t.loop.isNone) .loop
    | none => pure ()

/-! ### Entry into the assist (R93, R326, R327) -/

/-- The assist routine of a context: a tagged CODE capability, if one is installed. -/
def State.assistOf (s : State) (asid : Nat) : Option CReg :=
  (lookT (s.partAt (s.partOf asid)).assist asid).filter (fun c => c.tag)

/-- The object table entry of a new frame: its OBJID is free (log 3), and it counts against no partition. -/
def State.frameEntry (s : State) : Nat :=
  (freeFrom s.objs 65535 (Config.freeEntry s.fresh % 2 ^ 28) (s.objs.length + 1)).getD 0

/-- A new frame's entry: 4,096 bytes, pinned. -/
def State.makeFrame (s : State) (asid : Nat) : Nat × State :=
  let o := s.frameEntry
  (o, (s.writeEntry o { Obj.free with gen := (s.objAt o).gen, entKind := 4, pinned := true, length := 4096, ownCtx := asid }).drawn)

/-- Enter the assist at an instruction of `len` bytes (R327): ILLEGAL when the routine has been removed (R326), or, by log 8, inside
the routine itself. A loop pauses (R183). The frame takes an entry of the thread-context cache, and waits for one. A pair's members share the frame's
OBJID. -/
def enterAssist (len : Nat) : Act Flow := do
  let s ← getS
  let t ← me
  if t.frame.isSome then illegal
  match s.assistOf t.asid with
  | none => illegal
  | some routine =>
    match (s.coreAt s.core).makeRoom 1 64 with
    | none => waitFor .contexts
    | some k =>
      let kept (k : Core) : Nat := k.tcc.countP (fun v => v.inCache)
      modS (fun s => (s.setCore s.core k).count s.core t.asid 0x104 (kept (s.coreAt s.core) - kept k))
      let c ← outside (do
        let s ← getS
        let (o, s') := s.makeFrame t.asid
        putS s'
        return mkCap 6 0 0 (s'.objAt o).gen o 0)
      modS (fun s => s.modCur (fun (t : Slot) =>
        let f : Frame :=
          { c := t.c, v := t.v, p := t.p, code := t.code, fpmode := t.fpmode, fpflags := t.fpflags, seed := t.seed, len := len,
            pc0 := t.pc, obj := objOf c, clock := t.clock, streams := t.streams, region := t.region, loop := t.loop, barrier := t.barrier }
        { t.setReg 28 c with frame := some f, loop := none, fpmode := t.fpmode &&& 0x67, code := routine }))
      return .settled

end Sys2Proof.Machine
end

