-- ==== Sys2Proof/Machine/VecMem.lean ====
section
/-! DEFINITION. Vector loads, stores, gathers and scatters (R176 to R179). -/

namespace Sys2Proof.Machine

/-- The length that a replayed instruction counts as: its pc does not move (R180). -/
def vecLen : Act Nat := do return if (← getS).replaying then 0 else 4

/-- check_cap of a span whose alignment is judged at its base (R176): n bytes at `base + lo`. -/
def checkVec (op : Op) (c : CReg) (reg : Nat) (base : Int) (lo n : Nat) : Act Spot := do
  let s ← getS
  let e ← headed c (checkHead s op c (s.mayDebug c) false 0 reg)
  let loc ← checked (checkSpan c e (base + lo) n 1 0 reg)
  if (cursorOf c + base) % 32 ≠ 0 then stopWith (capFault fALIGN 6 0 reg (bitsN (cursorOf c + base) 48))
  if !s.confirmed then
    checked (checkPoison e loc 0 reg)
    until_ (!e.transit) (.transit (objOf c))
  return ⟨objOf c, e, loc⟩

/-- Whether a strand's buffered stores hold some but not all of the bytes that a vector load reads (R179). -/
def partly (es : List StoreEntry) (addrs : List Nat) : Bool :=
  let held (a : Nat) : Bool := es.any (fun e => decide (e.addr ≤ a) && ((e.bytes[a - e.addr]?).join).isSome)
  addrs.any held && !addrs.all held


/-- The races of accesses of n bytes each, (number, location, flat address), with their numbers (R304). -/
def State.racesOf (s : State) (p : Party) (o n : Nat) (write : Bool) (ps : List (Nat × Nat × Nat)) : List (Nat × List Word) :=
  ps.flatMap (fun x => (s.racesIn p o x.2.1 x.2.2 n write).map (fun r => (x.1, r)))

/-- A vector load of checked pieces, (destination byte, location, flat address), of elements of b bytes, whose race check is given: at
once, or at the reply (R131, R176, R178). -/
def loadPieces (d : VR) (own : Bool) (o b : Nat) (ps : List (Nat × Nat × Nat)) (race : Bool → Act Unit) : Act Flow := do
  let t ← me
  let s0 ← getS
  let len ← vecLen
  let addrs := ps.map (fun p => p.2.2)
  if t.pair = 1 then
    until_ (decide (t.lvq.length + 2 ≤ 64)) .pairing
    until_ (!partly (t.held.filterMap (fun h => h.store)) addrs) .pairing
  let hand := ps.all (fun p => s0.atHand s0.core o p.2.2 1)
  race (own && s0.checksNow hand)
  if partly t.sbuf addrs then modS (fun s => s.drain s.core s.slot)
  let s ← getS
  if hand then
    let bs := ps.flatMap (fun p => s.seen s.core s.slot o p.2.2 1)
    let v := (ps.zip bs).foldl (fun v x => setLane 8 v x.1.1 x.2.toNat) (t.vreg d.val)
    modS (fun s => (halves v).foldl (fun s x => s.pushLvq s.core s.slot x) s)
    modS (fun s => s.modCur (fun t => t.setV d.val v))
    return .next
  else return .park (.reply { cap := false, kind := 1, dst := d.val, ext := 0, size := b, pieces := ps, obj := o, pops := [], own := own } len)

/-- The trailing member of a pair takes a vector from the leading member (R330). -/
def takeVector (d : VR) : Act Flow := do
  let lo ← takeLvq
  let hi ← takeLvq
  let v : VReg := hi.val ++ lo.val
  modS (fun s => s.modCur (fun t => t.setV d.val v))
  return .next

/-- Stores of one vector instruction enter the buffer in order; when it is full, the rest follow as it drains (R178). In a pair they
are one effect. -/
def enterStores (ops data : List CReg) (o loc : Nat) (es : List StoreEntry) : Act Flow := do
  let len ← vecLen
  effect ops loc (do
    let room := 8 - (← me).sbuf.length
    modS (fun s => s.modCur (fun t => { t with sbuf := t.sbuf ++ es.take room, wrote := putN t.wrote o }))
    if room < es.length then parkNow (.scatter (es.drop room) len)) data
  afterStore o len

/-! ### `vld` and `vst` (R176, R177) -/

/-- The lowest and the highest active byte, if any (R176). -/
def activeSpan (p : PReg) : Option (Nat × Nat) :=
  match (List.range 32).filter (fun j => p.getLsbD j) with
  | [] => none
  | lo :: js => some (lo, js.getLastD lo)

/-- Pop n elements of a stream, in order. -/
def popN (k : CR) : Nat → Act (List CReg)
  | 0 => pure []
  | n + 1 => do
    let t ← me
    match t.stream k.val with
    | none => pure []
    | some b =>
      let v ← outside (popStream k b)
      return v :: (← popN k n)

/-- `vld` of a stream (R177). -/
def vldStream (d : VR) (k : CR) (b : Stream) (p : PReg) : Act Flow := do
  let t ← me
  let n := 32 / b.esize
  if t.pair ≠ 2 ∧ b.count < b.pos + n then stopWith (capFault fCAP_BOUNDS 5 0 k.val)
  let vs ← popN k n
  let bs := vs.flatMap (fun v => leBytes b.esize v.val.toNat)
  let x : VReg := .ofNat 256 (leNat bs)
  modS (fun s => s.modCur (fun t => t.setV d.val (mapActive p 8 (t.vreg d.val) (fun j => lane x 8 j))))
  return .next

/-- `vld` (R176, R177). -/
def execVld (d : VR) (a : CR) (p : PR) (off : BitVec 9) (s : State) : Out :=
  issue 4 (do
    let t ← me
    let pg := t.preg p.val
    match t.stream a.val with
    | some b =>
      if off ≠ 0 ∨ b.out then illegal
      vectorUnit
      vldStream d a b pg
    | none =>
      vectorUnit
      let c := t.reg a.val
      let base := off.toInt * 32
      match activeSpan pg with
      | none =>
        let spot ← checkVec .vload c a.val base 0 0
        let _ ← flatAct spot.obj spot.loc
        return .next
      | some (lo, hi) =>
        let spot ← checkVec .vload c a.val base lo (hi - lo + 1)
        let x ← flatAct spot.obj spot.loc
        if t.pair = 2 then takeVector d
        else
          let js := (List.range 32).filter (fun j => pg.getLsbD j)
          loadPieces d (isOwn c) spot.obj 32 (js.map (fun j => (j, spot.loc + (j - lo), x + (j - lo))))
            (fun own => raceCheck own spot.obj spot.loc x (hi - lo + 1) false)) s

/-- The element e of an output stream as `vst` appends it (R177): its inactive bytes are read from memory. DESIGN CHOICE (log 48): the
bytes of every element are read before any element enters the buffer. -/
def vstElement (k : CR) (b : Stream) (v : VReg) (p : PReg) (e : Nat) : Act StoreEntry := do
  let spot ← checkCapV .streamOut b.cap k.val 0 ((b.pos + e : Nat) * b.stride) b.esize b.esize
  let a ← flatAct spot.obj spot.loc
  awaitLines true spot.obj spot.loc a b.esize
  raceCheck true spot.obj spot.loc a b.esize true
  let s ← getS
  let old := s.seen s.core s.slot spot.obj a b.esize
  let bs := (List.range b.esize).map (fun j =>
    let i := e * b.esize + j
    some (if p.getLsbD i then BitVec.ofNat 8 (lane v 8 i) else old.getD j 0))
  return ⟨spot.obj, spot.loc, a, bs, none, clkAt s.cur.clock s.slot, true⟩

/-- The elements of a `vst` of a stream, in order. -/
def vstElements (k : CR) (b : Stream) (v : VReg) (p : PReg) : List Nat → Act (List StoreEntry)
  | [] => pure []
  | e :: es => do
    let x ← vstElement k b v p e
    return x :: (← vstElements k b v p es)

/-- `vst` to a stream (R177): the position advances by the elements appended. -/
def vstStream (d : VR) (k : CR) (b : Stream) (p : PReg) : Act Flow := do
  let t ← me
  let n := 32 / b.esize
  if b.count < b.pos + n then stopWith (capFault fCAP_BOUNDS 5 0 k.val)
  let v := t.vreg d.val
  let es ← vstElements k b v p (List.range n)
  let ops := [b.cap, plain b.pos, predValue p]
  let next (t : Slot) : Slot := { t with streams := putT t.streams k.val { b with pos := b.pos + n } }
  modS (fun s => s.modCur next)
  enterStores ops (halves v) (objOf b.cap) (match es with
    | e :: _ => e.loc
    | [] => 0) es

/-- `vst` (R176, R177, R258). -/
def execVst (d : VR) (a : CR) (p : PR) (off : BitVec 9) (s : State) : Out :=
  issue 4 (do
    let t ← me
    let pg := t.preg p.val
    match t.stream a.val with
    | some b =>
      if off ≠ 0 ∨ !b.out then illegal
      vectorUnit
      vstStream d a b pg
    | none =>
      vectorUnit
      let c := t.reg a.val
      let base := off.toInt * 32
      let v := t.vreg d.val
      match activeSpan pg with
      | none =>
        let spot ← checkVec .vstore c a.val base 0 0
        let x ← flatAct spot.obj spot.loc
        storeBytes false spot.obj spot.loc x [] none
        return .next
      | some (lo, hi) =>
        let spot ← checkVec .vstore c a.val base lo (hi - lo + 1)
        let x ← flatAct spot.obj spot.loc
        let bs := (List.range (hi - lo + 1)).map (fun j =>
          if pg.getLsbD (lo + j) then some (BitVec.ofNat 8 (lane v 8 (lo + j))) else none)
        storeBytes (isOwn c) spot.obj spot.loc x bs none
        afterStore spot.obj (← vecLen)) s

/-! ### `vgather` and `vscatter` (R178) -/

/-- The element width in bits of a code (R63). -/
def widthOf (w : Fin 4) : Nat := 8 * 2 ^ w.val

/-- An action whose fault names an element (R178). -/
def naming {α : Type} (i : Nat) (act : Act α) : Act α := fun x =>
  match act.run x with
  | .ok r => .ok r
  | .error (.freeze f) => .error (.freeze { f with elem := i })
  | .error (.freezeIn s f) => .error (.freezeIn s { f with elem := i })
  | .error (.wait w) => .error (.wait w)
  | .error (.park s w) => .error (.park s w)
  | .error (.region code dev) => .error (.region code dev)

/-- The check of one element (R178). -/
def checkElem (op : Op) (c : CReg) (reg i : Nat) (off : Int) (b : Nat) : Act (Nat × Nat × Nat) :=
  naming i (do
    let spot ← checkCapV op c reg 0 off b b
    let a ← flatAct spot.obj spot.loc
    return (i, spot.loc, a))

/-- The checks of elements, in ascending order. -/
def checkElems (op : Op) (c : CReg) (reg b : Nat) : List (Nat × Nat) → Act (List (Nat × Nat × Nat))
  | [] => pure []
  | (i, x) :: xs => do
    let p ← checkElem op c reg i (x * b : Nat) b
    return p :: (← checkElems op c reg b xs)

/-- The race checks of elements of b bytes: every line is checked, and a freeze names the first that races (R178, R304, R308). -/
def raceElems (own : Bool) (o b : Nat) (write : Bool) (ps : List (Nat × Nat × Nat)) : Act Unit := do
  let s ← getS
  if own && s.cur.pair != 2 then
    let p := s.party s.core s.slot
    match s.racesOf p o b write ps with
    | [] => pure ()
    | r :: rs => naming r.1 (raced p (r.2 :: rs.map (fun x => x.2)))
  else pure ()

/-- In precise mode a scatter waits for its elements' lines (R131 step 5). -/
def awaitElems (own : Bool) (o b : Nat) : List (Nat × Nat × Nat) → Act Unit
  | [] => pure ()
  | x :: xs => do
    awaitLines own o x.2.1 x.2.2 b
    awaitElems own o b xs

/-- The active elements of a gather or scatter, checked: number, location, address. -/
def elements (op : Op) (c : CReg) (reg : Nat) (vi : VReg) (p : PReg) (w : Nat) : Act (List (Nat × Nat × Nat)) :=
  checkElems op c reg (w / 8) ((activeLanes p w (laneCount w)).map (fun i => (i, lane vi w i)))

/-- `vgather` (R178). -/
def execVgather (d : VR) (a : CR) (vi : VR) (p : PR) (w : Fin 4) (s : State) : Out :=
  issue 4 (do
    let t ← me
    if (t.stream a.val).isSome then illegal
    vectorUnit
    let b := widthOf w / 8
    let c := t.reg a.val
    let ps ← elements .vload c a.val (t.vreg vi.val) (t.preg p.val) (widthOf w)
    if ps.isEmpty then return .next
    else if t.pair = 2 then takeVector d
    else
      loadPieces d (isOwn c) (objOf c) b
        (ps.flatMap (fun x => (List.range b).map (fun j => (x.1 * b + j, x.2.1 + j, x.2.2 + j))))
        (fun own => raceElems own (objOf c) b false ps)) s

/-- `vscatter` (R178). -/
def execVscatter (d : VR) (a : CR) (vi : VR) (p : PR) (w : Fin 4) (s : State) : Out :=
  issue 4 (do
    let t ← me
    if (t.stream a.val).isSome then illegal
    vectorUnit
    let b := widthOf w / 8
    let c := t.reg a.val
    let v := t.vreg d.val
    let ps ← elements .vstore c a.val (t.vreg vi.val) (t.preg p.val) (widthOf w)
    awaitElems (isOwn c) (objOf c) b ps
    raceElems (isOwn c) (objOf c) b true ps
    let clk := clkAt t.clock s.slot
    let es : List StoreEntry := ps.map (fun x =>
      ⟨objOf c, x.2.1, x.2.2, (leBytes b (lane v (widthOf w) x.1)).map some, none, clk, isOwn c⟩)
    if es.isEmpty then return .next
    else enterStores (c :: predValue (t.preg p.val) :: halves (t.vreg vi.val)) (halves v) (objOf c) (match ps with
      | x :: _ => x.2.1
      | [] => 0) es) s

end Sys2Proof.Machine
end

