-- ==== Sys2Proof/Machine/EvMemory.lean ====
section
/-! DEFINITION. Steps of the memory system: replies (R125, R126, R131, R375), store drain (R250), page walks (R240), translation
stores (R241), entry updates (R226), retries (R146), cleaning (R222), and the outcome of a commit (R127). -/

namespace Sys2Proof.Machine

/-! ### Replies (R131) -/

/-- A c register by its number. -/
def crOf (k : Nat) : CR := ⟨k % 32, by omega⟩

/-- The lines of an access come into the L1 of a core whose level is cached (R131, R236). -/
def State.fillFor (s : State) (c asid : Nat) (a : Access) : State :=
  if cached (s.objAt a.obj).level then
    a.pieces.foldl (fun s p => if ((s.coreAt c).l1Hit a.obj p.2.2).isSome then s else s.fillLine c asid a.obj p.2.2 p.2.1) s
  else s

/-- The bytes of an access as its strand sees them. -/
def State.pieceBytes (s : State) (c i : Nat) (a : Access) : List Byte :=
  a.pieces.flatMap (fun p => s.seen c i a.obj p.2.2 1)

/-- Bytes laid into a v register (R176, R178). -/
def layVector (v : VReg) (ps : List (Nat × Nat × Nat)) (bs : List Byte) : VReg :=
  (ps.zip bs).foldl (fun (v : VReg) (p, b) =>
    let sh := 8 * p.1
    v - (v &&& (255 <<< sh : VReg)) + ((b.setWidth 256) <<< sh)) v

/-- A loaded value reaches its register: a capability load takes its granule where it lies (R134). -/
def deliverReply (a : Access) (bs : List Byte) : Act Flow := do
  let s ← getS
  if a.kind = 1 then
    let v := layVector (s.cur.vreg a.dst) a.pieces bs
    modS (fun s => (s.pushLvq s.core s.slot ⟨v.setWidth 128, false⟩).pushLvq s.core s.slot ⟨(v >>> 128).setWidth 128, false⟩)
    modS (fun s => s.modCur (fun t => t.setV a.dst v))
  else if a.cap then
    let p := a.pieces.headD (0, 0, 0)
    let g ← takeGranule (a.ext == 1) a.dst a.obj p.2.1 p.2.2
    modS (fun s => s.pushLvq s.core s.slot g)
    dst (crOf a.dst) g
  else
    let v := extendBytes a.ext bs
    modS (fun s => s.pushLvq s.core s.slot v)
    dst (crOf a.dst) v
  return .next

/-- An element read ahead is kept with the race found when it was read (R136, R137); the strand issues its pop again. -/
def State.readAhead (s : State) (c i : Nat) (a : Access) (bs : List Byte) : State :=
  let p := a.pieces.headD (0, 0, 0)
  let race := match (s.slotAt c i).stream a.dst with
    | some b => if isOwn b.cap then s.racesIn (s.party c i) a.obj p.2.1 p.2.2 a.size false else []
    | none => []
  s.modSlot c i (fun t => match t.stream a.dst with
    | some b =>
      let b' := { b with ahead := putT b.ahead a.ext (elementValue bs, race.headD []) }
      { t with state := .ready, streams := putT t.streams a.dst b' }
    | none => { t with state := .ready })

/-- The c register of the capability through which an instruction accesses memory (R321). -/
def capReg (i : Instr) : Nat :=
  match i with
  | .ld _ a _ _ | .ldc _ a _ | .ldx _ a _ _ _ | .vld _ a _ _ | .vgather _ a _ _ _ => a.val
  | .cLdD _ a _ | .cLdW _ a _ => 8 + a.toNat
  | .cLdsp _ _ => 29
  | i => ((atomicOf i).map (fun k => k.a.val)).getD 0

/-- REG of a fault of an access at its reply: the c register of its capability, or of its stream (R321). -/
def State.regOf (s : State) (c i : Nat) (a : Access) : Nat :=
  if a.kind = 2 then a.dst else ((s.insnAt c i).map capReg).getD 0

/-- An access ends in a fault: the strand freezes at its instruction, with no register written (R131, R375). -/
def State.replyFault (s : State) (c i len : Nat) (a : Access) (f : FaultInfo) : State :=
  s.asSlot c i len (fun s => (((s.putBack c i a).modCur (fun t => { t with state := .ready })).freeze f).boundary c i)

/-- A load ends at its reply; where it cannot, its pops are back (R26). -/
def State.finishLoad (s : State) (c i len : Nat) (a : Access) (act : Act Flow) : State :=
  s.finishBy c i len (fun s => s.putBack c i a) act

/-- The lines that an access touches, each as the location and flat address of one of its bytes there. -/
def Access.lines (a : Access) : List (Nat × Nat) :=
  a.pieces.foldl (fun ls p => if ls.any (fun x => lineOf x.2 == lineOf p.2.2) then ls else ls ++ [(p.2.1, p.2.2)]) []

/-- The elements of a gather that waits for its reply: number, location, flat address (R178). -/
def Access.elems (a : Access) : List (Nat × Nat × Nat) :=
  (a.pieces.filter (fun p => p.1 % a.size == 0)).map (fun p => (p.1 / a.size, p.2.1, p.2.2))

/-- The level answers: the bytes are checked for races where they are read (R131, R245, R250). -/
def State.levelReply (s : State) (c i len : Nat) (a : Access) : State :=
  let s := s.fillFor c (s.slotAt c i).asid a
  let bs := s.pieceBytes c i a
  if a.kind = 2 then (s.readAhead c i a bs).boundary c i
  else if a.kind = 3 then
    match (s.insnAt c i).bind atomicOf with
    | some k => s.finishAt c i len (atomicAct k true)
    | none => s
  else s.finishLoad c i len a (do
    if !a.cap then
      let s ← getS
      if a.kind = 1 ∧ a.size < 32 then raceElems a.own a.obj a.size false a.elems
      else if a.own && s.cur.pair != 2 then
        raced (s.party c i) (a.lines.flatMap (fun x => s.racesIn (s.party c i) a.obj x.1 x.2 1 false))
    deliverReply a bs)

/-- The bytes of another device answer a remote load, under the strand's own buffered stores (R125). -/
def State.remoteReply (s : State) (c i len : Nat) (a : Access) (b : List Byte) : State :=
  let p := a.pieces.headD (0, 0, 0)
  let bs := match (s.slotAt c i).region with
    | some r => r.overlay a.obj p.2.1 ((b ++ List.replicate a.size 0).take a.size)
    | none => b
  s.finishLoad c i len a (deliverReply a bs)

/-- A region fails at a reply, with the pops of a load back that it ends; for a frozen strand the failure is recorded (R26, R126, R129). -/
def State.failReply (s : State) (c i code dev : Nat) : State :=
  let s := match (s.slotAt c i).state with
    | .wait (.reply a _) => s.putBack c i a
    | _ => s
  if (s.slotAt c i).state = .frozen then
    s.modSlot c i (fun t => { t with region := t.region.map (fun r => { r with failed := some (code, dev) }) })
  else (s.failRegionAt c i code dev).boundary c i

/-- The host's bytes as the host answers a load. -/
def State.hostBytes (s : State) (a : Access) (b : List Byte) : State :=
  (a.pieces.zip b).foldl (fun s p => { s with mem := Memory.set s.mem p.1.2.2 p.2 }) s

/-- Whether a strand's access to the host waits: for a line of the host write buffer that holds a byte which it reads, for one of its
window when it is an atomic, for the strand's own earlier stores to the host, which are performed there before a load, and for lines that a
release has ordered ahead of it (R255). An atomic's release at system scope has drained the strand's lines, unless it was narrowed
(R256). -/
def State.hostWaits (s : State) (c i : Nat) (a : Access) : Bool :=
  let t := s.slotAt c i
  t.sbuf.any (fun e => decide (hostBase ≤ e.addr)) || s.hostBuf.any (fun l => l.ordered
    || (if a.kind = 3 then l.obj == a.obj else l.writers.contains (c, t.born))
    || a.pieces.any (fun p => decide (hostBase + l.addr ≤ p.2.2) && decide (p.2.2 < hostBase + l.addr + 64)
        && ((l.bytes.getD (p.2.2 - hostBase - l.addr) none).isSome)))

/-- A granule of an object for which the report of an error gives no address: free (log 3). -/
def State.someGranule (s : State) (o : Nat) : Option Nat :=
  let e := s.objAt o
  let loc := Config.victim s.fresh % max 1 ((e.length + 15) / 16) * 16
  match s.flatNow e.ownCtx o loc with
  | .ok a => some a
  | .error _ => none

/-- A granule that held uncorrectable bytes reads zero from now on (R335: no access reads it before the object is reclaimed). -/
def State.zeroBad (s : State) (x : Nat) : State :=
  s.cores.foldl (fun (s : State) (k : Nat × Core) => s.syncLines k.1 (x / 16 * 16) 16) (s.clearRange (x / 16 * 16) 16)

/-- Some of the loads that have passed their checks and that this device or the host answers are answered. -/
def State.finishSome (s : State) (p : Slot → Access → Bool) : State :=
  s.cores.foldl (fun s k => k.2.slots.foldl (fun s t => match t.2.state with
    | .wait (.reply a len) =>
      let level := (s.objAt a.obj).level
      if p t.2 a ∧ level < 5 ∧ (s.slotAt k.1 t.1).state = t.2.state then
        (if level = 4 then s.hostClear else s).levelReply k.1 t.1 len a
      else s
    | _ => s) s) s

/-- The loads of an object that have passed their checks are answered (R226 step 3). -/
def State.finishLoads (s : State) (o : Nat) : State := s.finishSome (fun _ a => a.obj == o)

/-- Loads and stores of the contexts rooted in a PTAB object that were translated before are performed (R241). -/
def State.finishRooted (s : State) (ptab : Nat) : State := (s.finishSome (fun t _ => s.rootedIn ptab t)).drainRooted ptab

/-- An object is poisoned (R335), after the accesses that have passed their checks (R226). -/
def State.poison (s : State) (o : Nat) : State :=
  let s := (s.finishLoads o).drainObj o
  s.writeEntry o { s.objAt o with poisoned := true }

/-- The object that holds uncorrectable bytes is poisoned (R335). -/
def State.poisonAt (s : State) (o : Nat) (a : Option Nat) : State :=
  let s := match a.or (s.someGranule o) with
    | some x => s.zeroBad x
    | none => s
  (if a.isNone then s.drawn else s).poison o

/-- The failure code of a refusal (R126, R127): POISONED, ERRCOMP, or REMOTE_CHECK for any other. -/
def refusalCode (code : Nat) : Nat := if code = 3 ∨ code = 2 then code else 4

/-- LOAD_REPLY's work (R131, R125, R126, R329, R375): the reply to a load, or the line that a store in precise mode awaits. A remote
reply that comes after 100 µs is none (R126). -/
def State.reply (s : State) (c i : Nat) (r : Reply) : State :=
  match (s.slotAt c i).state with
  | .wait (.reply a len) =>
    let level := (s.objAt a.obj).level
    let dev := (s.objAt a.obj).homeDev
    let p := a.pieces.headD (0, 0, 0)
    let reg := s.regOf c i a
    let late := decide (((s.slotAt c i).lastIssue.getD s.time) + 100000 < s.time)
    if level = 5 then
      match r with
      | .bytes b => if late then s else s.remoteReply c i len a b
      | .refused code => if late then s else s.failReply c i (refusalCode code) dev
      | .poisoned => if late then s else s.failReply c i 3 dev
      | .level | .unsupported | .abort | .ecc _ => s
    else
      match r with
      | .level => if level = 4 ∧ s.hostWaits c i a then s else s.levelReply c i len a
      | .bytes b => if level = 4 ∧ !s.hostWaits c i a then (s.hostBytes a b).levelReply c i len a else s
      | .unsupported =>
        if level = 4 then s.replyFault c i len a { code := fHOST_ATOMIC_UR, arg := if a.kind = 3 then a.ext else 7, addr := p.2.1, reg := reg }
        else s
      | .abort =>
        if level = 4 then s.replyFault c i len a { code := fHOST_ATOMIC_CA, arg := if a.kind = 3 then a.ext else 7, addr := p.2.1, reg := reg }
        else s
      | .poisoned => if level = 4 then s.replyFault c i len a (capFault fPOISON 7 0 reg p.2.1) else s
      | .ecc n =>
        if level < 4 ∧ !(s.modSlot c i (fun t => { t with state := .ready })).loading a.obj then
          let q := (a.pieces[n]?).getD p
          let f : FaultInfo := { code := fECC_UNCORR, arg := 0, addr := q.2.1, elem := if a.kind = 1 then q.1 / a.size else 0 }
          (s.replyFault c i len a f).poisonAt a.obj (some q.2.2)
        else s
      | .refused _ => s
  | .wait (.line o loc x) =>
    if r = .level then ((s.fillLine c (s.slotAt c i).asid o x loc).modSlot c i (fun t => { t with state := .ready })).boundary c i
    else s
  | _ => s

/-- LOAD_REPLY (R131). -/
def execLoadReply (core slot : Nat) (r : Reply) (s : State) : Out := .next ((s.reply core slot r).serveAll)

/-- TIMEOUT (R375): a HOST access of a strand gets no completion. -/
def execTimeout (core slot : Nat) (s : State) : Out :=
  .next (match (s.slotAt core slot).state with
    | .wait (.reply a len) =>
      if (s.objAt a.obj).level = 4 then
        s.replyFault core slot len a { code := fTIMEOUT, addr := (a.pieces.headD (0, 0, 0)).2.1, reg := s.regOf core slot a }
      else s
    | _ => s)

/-- Whether an instruction issued at least 100 µs ago. -/
def Slot.waited (t : Slot) (now : Nat) : Bool :=
  match t.lastIssue with
  | some x => decide (x + 100000 ≤ now)
  | none => true

/-- NO_REPLY (R126): a remote load of the strand has had no reply from a device for 100 µs. -/
def execNoReply (core slot dev : Nat) (s : State) : Out :=
  .next (match (s.slotAt core slot).state with
    | .wait (.reply a _) =>
      if (s.objAt a.obj).level = 5 ∧ (s.objAt a.obj).homeDev = dev ∧ (s.slotAt core slot).waited s.time then s.failReply core slot 1 dev
      else s
    | _ => s)

/-! ### The outcome of a commit (R127) -/

/-- A destination's answer: none while it is silent; then whether it applied its batch, or its refusal code. -/
def Commit.answer (k : Commit) (dev : Nat) : Option (Option Nat) := (k.answers.find? (fun x => x.1 == dev)).map (fun x => x.2)

/-- A destination answers a commit (R127, R357): an RBACK, or an error completion. The first answer of a destination counts, within 100 µs
of the sending. -/
def Commit.hears (k : Commit) (now : Nat) (x : Nat × Option Nat) : Commit :=
  if k.dests.contains x.1 && (k.answer x.1).isNone && decide (now ≤ k.sent + 100000) then
    { k with answers := k.answers ++ [(x.1, x.2.map refusalCode)] }
  else k

/-- Answers reach the commit of a slot. -/
def State.hearBatch (s : State) (c i : Nat) (xs : List (Nat × Option Nat)) : State :=
  s.modSlot c i (fun t => { t with region := t.region.map (fun r =>
    { r with commit := r.commit.map (fun k => xs.foldl (fun k x => k.hears s.time x) k) }) })

/-- The status word (R127). -/
def commitStatus (ndest : Nat) (failed refused : List Nat) : CReg :=
  plain (field ndest 40 8 + field failed.length 32 8 + field (failed.headD 0) 16 16 + field refused.length 8 8
    + (!failed.isEmpty).toNat)

/-- The outcome is a status word, which stays decided when the register's stream has to wait (R26, R127). -/
def State.commitEnds (s : State) (c i : Nat) (k : Commit) (v : CReg) : State :=
  (s.modSlot c i (fun t => { t with region := t.region.map (fun r => { r with commit := some { k with status := some v } }) })).finishAt c i 4
    (closeCommit k.sr v)

/-- COMMIT_OUTCOME (R127): decided when every destination has answered, by then or with the step, or 100 µs after the batches were
sent. -/
def execCommitOutcome (core slot : Nat) (answers : List (Nat × Option Nat)) (s : State) : Out :=
  let s := s.hearBatch core slot answers
  let t := s.slotAt core slot
  .next (match t.state, t.region.bind (fun r => r.commit) with
    | .wait .commit, some k =>
      let silent := k.dests.filter (fun d => k.answer d == none)
      let applied := k.dests.filter (fun d => k.answer d == some none)
      let refused := k.dests.filter (fun d => k.answer d != none && k.answer d != some none)
      let failed := k.dests.filter (fun d => k.answer d != some none)
      if !silent.isEmpty ∧ s.time < k.sent + 100000 then s
      else if applied.isEmpty then
        match refused with
        | d :: _ => s.failReply core slot (((k.answer d).getD none).getD 4) d
        | [] => s.failReply core slot 1 (silent.headD 0)
      else s.commitEnds core slot k (commitStatus k.dests.length failed refused)
    | _, _ => s)

/-! ### Stores (R131, R178, R250, R255) -/

/-- The elements of a `vscatter` go on into the buffer as it drains; it retires with the last (R178). -/
def State.scatterOn (s : State) (c i : Nat) : State :=
  let t := s.slotAt c i
  match t.state with
  | .wait (.scatter rest len) =>
    let n := 8 - t.sbuf.length
    let s := s.modSlot c i (fun t => { t with sbuf := t.sbuf ++ rest.take n })
    if (rest.drop n).isEmpty then
      s.finishAt c i len (match rest with
        | e :: _ => afterStore e.obj len
        | [] => pure .next)
    else s.modSlot c i (fun t => { t with state := .wait (.scatter (rest.drop n) len) })
  | _ => s

/-- STORE_DRAIN (R250). -/
def execStoreDrain (core slot : Nat) (s : State) : Out :=
  .next (match s.drainOne core slot with
    | some s' => s'.scatterOn core slot
    | none => s)

/-- HOST_LINE_DRAIN (R255). A posted write that fails is logged and counted against the partition of its window's owner, and seen by
no strand (R375); the host's bytes stay (log 36). -/
def execHostLineDrain (failed : Bool) (s : State) : Out :=
  .next (match s.hostBuf with
    | [] => s
    | l :: ls =>
      if failed then
        let part := (s.objAt l.obj).part
        let s : State := { s with hostBuf := ls, out := s.out ++ [.hostWrite l.addr l.bytes] }
        (s.countPart part 0x141 1).modPart part (fun p => { p with aer := p.aer + 1 })
      else s.hostDrain)

/-- TRANSLATION_STORE (R241): the stores that were translated before are performed, and once no load that was translated before awaits its
reply the strand's own, which removes every cached translation of the contexts rooted in the object, and the instruction retires. -/
def execTranslationStore (core slot : Nat) (s : State) : Out :=
  .next (match (s.slotAt core slot).state with
    | .wait (.translation len) =>
      let s := ((s.slotAt core slot).sbuf.foldl (fun s e => if (s.objAt e.obj).ptab then s.drainRooted e.obj else s) s).drain core slot
      if (s.slotAt core slot).sbuf.isEmpty then s.finishAt core slot len (pure .next) else s
    | _ => s)

/-! ### Translations (R240) -/

/-- The strands of a die that wait for a page of a context, as (core, slot, virtual address, level). -/
def State.walkers (s : State) (die asid page : Nat) : List (Nat × Nat × Nat × Nat) :=
  s.cores.flatMap (fun k => k.2.slots.filterMap (fun t => match t.2.state with
    | .wait (.walk a va l) => if dieOf k.1 = die ∧ a = asid ∧ pageOf va = page then some (k.1, t.1, va, l) else none
    | _ => none))

/-- A die's walk ends for one strand: the TLBs of its core are filled and it issues again, or it freezes with XLATE (R240). -/
def State.walked (s : State) (die asid : Nat) (w : Nat × Nat × Nat × Nat) : State :=
  let s := s.keepTrail die asid w.2.2.1
  match s.walkBy die asid w.2.2.2 w.2.2.1 with
  | .ok p =>
    (((s.fillClusterTlb w.1 asid p).fillCoreTlb w.1 asid p).modSlot w.1 w.2.1 (fun t => { t with state := .ready })).boundary w.1 w.2.1
  | .error x =>
    s.asSlot w.1 w.2.1 4 (fun s =>
      ((s.modCur (fun t => { t with state := .ready })).freeze { code := fXLATE, arg := x, addr := bitsN w.2.2.1 48 }).boundary
        w.1 w.2.1)

/-- The walks that a die's walker has under way: the 64 that were asked for first (R12, R240). -/
def Die.active (d : Die) : List (Nat × Nat) := d.walks.take 64

/-- PAGE_WALK (R240): a die's walker ends one of the walks that it has under way, for every strand that waits for it. -/
def execPageWalk (asid page : Nat) (s : State) : Out :=
  .next ((s.dies.filter (fun d => d.2.active.contains (asid, page))).foldl (fun s d =>
    (s.walkers d.1 asid page).foldl (fun s w => s.walked d.1 asid w)
      (s.modDie d.1 (fun d => { d with walks := d.walks.erase (asid, page) }))) s)

/-! ### Entries, retries, cleaning (R146, R222, R226) -/

/-- ENTRY_UPDATE (R226): once no load of the object awaits its reply, instructions that wait for the acknowledgements issue
again. -/
def execEntryUpdate (obj : Nat) (s : State) : Out :=
  .next (if s.loading obj then s
    else { s with cores := s.cores.map (fun k => (k.1, { k.2 with slots := k.2.slots.map (fun t =>
        if t.2.state == .wait (.entry obj) then (t.1, { t.2 with state := .ready }) else t) })) })

/-- SYNC_RETRY (R146): a refused request issues again. -/
def execSyncRetry (core slot : Nat) (s : State) : Out :=
  .next (match (s.slotAt core slot).state with
    | .wait (.retry _) => s.modSlot core slot (fun t => { t with state := .ready })
    | _ => s)

/-- CLEANING_DONE (R222). -/
def execCleaningDone (pool base : Nat) (s : State) : Out :=
  .next (match s.cleaning.find? (fun c => c.pool == pool && c.base == base) with
    | some c => s.cleaned c
    | none => s)

end Sys2Proof.Machine
end

