-- ==== Sys2Proof/Machine/Route.lean ====
section
/-! DEFINITION. Coordinates and routes in the mesh-torus (R15, R350), the checksums of links and blocks (R344, R360), and the plan
of a shuffle (R340). -/

namespace Sys2Proof.Machine

/-! ### Checksums (PRESUMED: the parameters of the named standards; log 7) -/

/-- One byte of a reflected CRC-32C. -/
def crc32cByte (c b : Nat) : Nat :=
  (List.range 8).foldl (fun c _ => if c % 2 = 1 then c / 2 ^^^ 0x82F63B78 else c / 2) (c ^^^ b)

/-- CRC-32C of bytes (R344). -/
def crc32c (bs : List Byte) : Nat :=
  (bs.foldl (fun c b => crc32cByte c b.toNat) 0xFFFFFFFF) ^^^ 0xFFFFFFFF

/-- One byte of CRC-64/ECMA-182. -/
def crc64Byte (c b : Nat) : Nat :=
  (List.range 8).foldl (fun c _ =>
    if bit c 63 then (c * 2 % 2 ^ 64) ^^^ 0x42F0E1EBA9EA3693 else c * 2 % 2 ^ 64) (c ^^^ b * 2 ^ 56)

/-- CRC-64/ECMA-182 of bytes (R360). -/
def crc64 (bs : List Byte) : BitVec 64 := .ofNat 64 (bs.foldl (fun c b => crc64Byte c b.toNat) 0)

/-! ### Coordinates (R15) and ports (R343): 0 +W, 1 −W, 2 +X, 3 −X, 4 +Y, 5 −Y, 6 +Z, 7 −Z; 8 is the device itself -/

/-- W. -/
def devW (d : Nat) : Nat := bitsAt d 14 2
/-- X. -/
def devX (d : Nat) : Nat := bitsAt d 12 2
/-- Y. -/
def devY (d : Nat) : Nat := bitsAt d 6 6
/-- Z. -/
def devZ (d : Nat) : Nat := bitsAt d 0 6

/-- A device of coordinates. -/
def devOfCoords (w x y z : Nat) : Nat := field w 14 2 + field x 12 2 + field y 6 6 + field z 0 6

/-- A step along a dimension of extent e. -/
def stepIn (e : Nat) (up : Bool) (x : Nat) : Nat := if up then (x + 1) % e else (x + e - 1) % e

/-- The neighbour at a port. -/
def neighbour (ext : Nat × Nat × Nat × Nat) (d port : Nat) : Nat :=
  let up := port % 2 == 0
  match port / 2 with
  | 0 => devOfCoords (stepIn ext.1 up (devW d)) (devX d) (devY d) (devZ d)
  | 1 => devOfCoords (devW d) (stepIn ext.2.1 up (devX d)) (devY d) (devZ d)
  | 2 => devOfCoords (devW d) (devX d) (stepIn ext.2.2.1 up (devY d)) (devZ d)
  | 3 => devOfCoords (devW d) (devX d) (devY d) (stepIn ext.2.2.2 up (devZ d))
  | _ => d

/-- Whether a torus hop goes positive (R350). -/
def torusUp (e cur dst : Nat) : Bool := decide (2 * ((dst + e - cur) % e) ≤ e)

/-- The port of the next hop toward a destination (R350): Y, Z, W, X. -/
def nextPort (ext : Nat × Nat × Nat × Nat) (cur dst : Nat) : Nat :=
  if devY cur ≠ devY dst then (if torusUp ext.2.2.1 (devY cur) (devY dst) then 4 else 5)
  else if devZ cur ≠ devZ dst then (if torusUp ext.2.2.2 (devZ cur) (devZ dst) then 6 else 7)
  else if devW cur ≠ devW dst then (if devW cur < devW dst then 0 else 1)
  else if devX cur ≠ devX dst then (if devX cur < devX dst then 2 else 3)
  else 8

/-- DL after a hop (R350): set where the hop crosses the dateline, and 0 where a dimension begins. -/
def nextDl (ext : Nat × Nat × Nat × Nat) (cur port dl : Nat) (entering : Bool) : Nat :=
  let dl := if entering then 0 else dl
  if port = 4 then (if devY cur + 1 = ext.2.2.1 then 1 else dl)
  else if port = 5 then (if devY cur = 0 then 1 else dl)
  else if port = 6 then (if devZ cur + 1 = ext.2.2.2 then 1 else dl)
  else if port = 7 then (if devZ cur = 0 then 1 else dl)
  else 0

/-- The hops from a device to another, as (device, port), with no detour (R350). -/
def routeFrom (ext : Nat × Nat × Nat × Nat) (dst : Nat) : Nat → Nat → List (Nat × Nat)
  | 0, _ => []
  | n + 1, cur =>
    let p := nextPort ext cur dst
    if p = 8 then [] else (cur, p) :: routeFrom ext dst n (neighbour ext cur p)

/-- The route of a packet (R350): no route is longer than the extents together. -/
def route (ext : Nat × Nat × Nat × Nat) (src dst : Nat) : List (Nat × Nat) := routeFrom ext dst 140 src

/-! ### The plan (R340) -/

/-- A transfer entry. -/
structure Xfer where
  src : Nat
  dst : Nat
  srcOff : Nat
  dstOff : Nat
  block : Nat
deriving DecidableEq, Repr

/-- A coding point. -/
structure Point where
  router : Nat
  xa : Nat
  xb : Nat
deriving DecidableEq, Repr

/-- A plan: block length, transfers, coding points. -/
structure Plan where
  len : Nat
  xfers : List Xfer
  points : List Point
deriving DecidableEq, Repr

/-- Entry i of a plan's bytes, as a 128-bit number. -/
def planEntry (bs : List Byte) (i : Nat) : Nat := leNat ((bs.drop (16 * i)).take 16)

/-- A transfer entry. -/
def xferOf (x : Nat) : Xfer := ⟨bitsAt x 112 16, bitsAt x 96 16, bitsAt x 64 32, bitsAt x 32 32, bitsAt x 0 16⟩

/-- A coding point entry. -/
def pointOf (x : Nat) : Point := ⟨bitsAt x 112 16, bitsAt x 80 16, bitsAt x 64 16⟩

/-- The bytes that a plan's header states (R358): none when it states more than the object holds. -/
def planBytes (bs : List Byte) : List Byte :=
  let h := planEntry bs 0
  bs.take (16 * (1 + bitsAt h 16 16 + bitsAt h 32 8))

/-- The plan that its bytes give. -/
def planOf (bs : List Byte) : Plan :=
  let h := planEntry bs 0
  let n := bitsAt h 16 16
  { len := bitsAt h 40 24
    xfers := (List.range n).map (fun i => xferOf (planEntry bs (1 + i)))
    points := (List.range (bitsAt h 32 8)).map (fun i => pointOf (planEntry bs (1 + n + i))) }

/-- Whether a list has no number twice. -/
def noRepeat : List Nat → Bool
  | [] => true
  | x :: xs => !xs.contains x && noRepeat xs

/-- The part of a plan's validity that its bytes decide (R340, R358). -/
def planValid (bs : List Byte) : Bool :=
  let h := planEntry bs 0
  let p := planOf bs
  let n := p.xfers.length
  bitsAt h 64 64 == 0 && bitsAt h 0 16 == 0 && decide (64 ≤ p.len) && decide (p.len ≤ 65536) && p.len % 64 == 0
    && decide (1 ≤ n) && decide (n ≤ 4096)
    && decide (16 * (1 + n + p.points.length) ≤ bs.length)
    && (List.range n).all (fun i => bitsAt (planEntry bs (1 + i)) 16 16 == 0)
    && p.xfers.all (fun x => x.src != x.dst && x.srcOff % 64 == 0 && x.dstOff % 64 == 0)
    && noRepeat (p.xfers.map (fun x => x.block))
    && (List.range p.points.length).all (fun i =>
        bitsAt (planEntry bs (1 + n + i)) 96 16 == 0 && bitsAt (planEntry bs (1 + n + i)) 0 64 == 0)
    && p.points.all (fun q => decide (q.xa < n) && decide (q.xb < n) && q.xa != q.xb)

/-- A transfer by its index. -/
def Plan.xfer (p : Plan) (i : Nat) : Xfer := p.xfers.getD i ⟨0, 0, 0, 0, 0⟩

/-- The transfers that a device sends. -/
def Plan.sends (p : Plan) (dev : Nat) : List Xfer := p.xfers.filter (fun x => x.src == dev)

/-- The transfers that a device receives. -/
def Plan.receives (p : Plan) (dev : Nat) : List Xfer := p.xfers.filter (fun x => x.dst == dev)

/-- The transfer of a block. -/
def Plan.ofBlock (p : Plan) (b : Nat) : Option Xfer := p.xfers.find? (fun x => x.block == b)

/-- The extent of a SHUFFLE's outgoing object on a device (R358). -/
def Plan.outExtent (p : Plan) (dev : Nat) : Nat := (p.sends dev).foldl (fun m x => max m (x.srcOff + p.len)) 0

/-- The extent of a SHUFFLE's incoming object on a device (R358). -/
def Plan.inExtent (p : Plan) (dev : Nat) : Nat := (p.receives dev).foldl (fun m x => max m (x.dstOff + p.len)) 0

end Sys2Proof.Machine
end

