-- ==== Sys2Proof/Machine/Objects.lean ====
section
/-! DEFINITION. Allocating, freeing and reclaiming objects (R138 to R140), shades (R141, R142), copies (R144) and capability
fields (R145). -/

namespace Sys2Proof.Machine

/-- Step 3 of R33 for an instruction that R30 permits on some kinds: CAP_PERM otherwise, and PRIV for a DEBUG capability of a
domain that is not a supervisor; ENGONLY refuses everything (R31). -/
def State.permFor (s : State) (c : CReg) (ok : Bool) : Option Nat :=
  if ok && !engOnly c then none
  else if kindOf c = 6 ∧ !s.mayDebug c then some fPRIV
  else some fCAP_PERM

/-- Bounds of an `alloc` length (R138). -/
def allocLengthOk (level n : Nat) : Bool :=
  let top := if level < 2 then 262144 else if level = 2 then 8388608 else 2 ^ 40
  decide (1 ≤ n) && decide (n ≤ top) && (level != 1 || n % 128 == 0)

/-- Whether a request for a pool still waits (R222). -/
def State.asks (s : State) (r : Nat × Nat × Nat) : Bool :=
  let t := s.slotAt r.2.1 r.2.2
  t.state == .wait (.cleaning r.1) || (t.state == .ready && t.again)

/-- Whether no request for the pool waits before one of a slot (R222). -/
def State.firstRequest (s : State) (pool c i : Nat) : Bool :=
  (s.requests.takeWhile (fun r => r != (pool, c, i))).all (fun r => r.1 != pool || !s.asks r)

/-- The requests for a pool that wait before one of a slot, or, when it has not asked before, all of them (R222). -/
def State.requestsBefore (s : State) (pool c i : Nat) : List (Nat × Nat × Nat) :=
  (s.requests.takeWhile (fun r => !(s.cur.again && r == (pool, c, i)))).filter (fun r =>
    r.1 == pool && r != (pool, c, i) && s.asks r)

/-- A slot's request takes its place behind those that wait; one that has waited keeps its place (R222). -/
def State.request (s : State) (pool c i : Nat) : State :=
  if s.cur.again && s.requests.contains (pool, c, i) then s
  else { s with requests := s.requests.filter (fun r => r.2 != (c, i)) ++ [(pool, c, i)] }

/-- What `alloc` answers (R138, R222), its pool's requests being handled in order: an OWN of a new object, or plain 1 or 2. -/
def allocNow (c : CReg) (n : Nat) : Act CReg := do
  let s ← getS
  let pool := objOf c
  let wait : Act CReg := parkWith (fun s => s.request pool s.core s.slot) (.cleaning pool)
  if !(s.requestsBefore pool s.core s.slot).isEmpty then wait
  else
  modS (fun s => { s with requests := s.requests.filter (fun r => r.2 != (s.core, s.slot)) })
  match s.room pool n true with
  | none => if (s.room pool n false).isSome then wait else return plain 1
  | some base => match s.pickEntry s.dom.part 65535 with
    | none => return plain 2
    | some o =>
      modS (fun s => (s.makeObj o pool base n s.core s.cur.asid 65536).drawn)
      return (← getS).ownCap o (rbitsOf c) 0

/-- `alloc` (R138). -/
def execAlloc (d a b : CR) (s : State) : Out :=
  issue_ 4 (do
    if d.val = 0 then illegal
    dirs [a, b] [d]
    let c ← src a
    let x ← src b
    let s ← getS
    let p ← headed c (headCheck s c a.val 0 (fun _ => s.permFor c (kindOf c == 4)))
    if !allocLengthOk p.level x.lo then stopWith (capFault fCAP_BOUNDS 5 0 a.val)
    let _ ← capCheck c a.val (fun _ => none)
    effectV [c, x] 0 (allocNow c x.lo) (fun v => dst d v)) s

/-- `free` of a REMOTE object frees its home object too (R234; log 62). -/
def State.freeHome (s : State) (o : Nat) : State :=
  let e := s.objAt o
  if e.level = 5 then
    (s.inject s.dom.part e.homeDev s.dom.supv (s.homeCore e) s.core s.cur.asid (.release (s.devOf s.cur.asid) s.core s.cur.asid
      e.homeObj e.homeGen none)).getD s
  else s

/-- `free` (R139). -/
def execFree (a : CR) (s : State) : Out :=
  issue_ 4 (do
    dirs [a] []
    let c ← src a
    let s ← getS
    let _ ← capCheck c a.val (fun e => s.permFor c (kindOf c == 0 && !e.pinned))
    settle (objOf c)
    effect [c] 0 (do
      modS (fun s => s.freeHome (objOf c))
      let n ← bumpMe c a.val
      modS (fun s => s.freeObj n))
    setRaw a CReg.zero) s

/-- Whether a command of the device names an object. -/
def State.named (s : State) (o : Nat) : Bool := s.cores.any (fun k => k.2.ports.any (fun p => p.2.any (fun x => x.names o)))

/-- `creclaim` (R140): commands that name the object end CANCELLED, and have completed before the bump (R191). DESIGN CHOICE (log 55): the
OWN has the restriction bits of c[FA]. -/
def execCreclaim (d a : CR) (s : State) : Out :=
  issue_ 4 (do
    if d.val = 0 then illegal
    dirs [a] [d]
    let c ← src a
    let s ← getS
    let o := objOf c
    let e := s.objAt o
    if !s.confirmed then
      if !c.tag then stopWith (capFault fCAP_TAG 1 0 a.val)
      if !wellFormed c then stopWith (capFault fCAP_KIND 2 0 a.val)
      if !s.dom.supv then stopWith (capFault fPRIV 3 0 a.val)
      let live := e.entKind != 0 && !e.retired
      if 1 < kindOf c ∨ engOnly c ∨ (live && e.part != s.dom.part) then stopWith (capFault fCAP_PERM 3 0 a.val)
      if e.entKind = 0 ∨ e.retired then stopWith (capFault fCAP_GEN 4 0 a.val)
      until_ (!e.transit) (.transit o)
    effectV [c] 0 (do
      if (← getS).named o then
        parkWith (fun s => s.cores.foldl (fun s k => s.cancelCmds k.1 (fun x => x.names o)) s) (.cancelled o)
      until_ (!(← getS).loading o) (.entry o)
      modS (fun s => s.drainObj o)
      let n ← bumpMe c a.val
      let s ← getS
      putS ((s.setOwner n (s.devOf s.cur.asid) s.core s.cur.asid).modObj n (fun e =>
        { e with poisoned := false, held := 65536 }))
      return (← getS).ownCap n (rbitsOf c) 0)
      (fun v => do
        if isShade c then setRaw a CReg.zero
        dst d v)) s

/-- The rest of a shade after a `split`. -/
def splitRest (whole part_ : CReg) (left : Nat) : CReg :=
  if left = 0 then CReg.zero else mkCap 1 (rbitsOf whole) (left % 65536) (genOf part_) (objOf part_) (cursorOf whole)

/-- `split` (R141). -/
def execSplit (d a b : CR) (s : State) : Out :=
  issue_ 4 (do
    if d.val = 0 then illegal
    dirs [a, b] [d]
    let c ← src a
    let x ← src b
    let s ← getS
    let ok := (kindOf c == 0 || kindOf c == 1) && !noSplit c && d != a
    let _ ← headed c (headCheck s c a.val 0 (fun _ => s.permFor c ok))
    let h := if kindOf c = 0 then 65536 else fracOf c
    let f := x.lo
    if f = 0 ∨ h < f then stopWith (capFault fCAP_BOUNDS 5 0 a.val)
    let _ ← capCheck c a.val (fun _ => none)
    let put (v : CReg) : Act Unit := do
      setRaw a (splitRest c v (h - f))
      dst d v
    let shade (g o : Nat) : CReg := mkCap 1 (rbitsOf c) (f % 65536) g o (cursorOf c)
    if kindOf c = 0 then
      settle (objOf c)
      effectV [c, x] 0 (do
        modS (fun s => s.releaseObj s.core s.slot (objOf c))
        tickMe
        let n ← bumpMe c a.val
        let y ← myClock
        modS (fun s => s.tableRelease s.core s.cur.asid false n y)
        return shade ((← getS).objAt n).gen n) put
    else put (shade (genOf c) (objOf c))) s

/-- `join` (R142). -/
def execJoin (d a b : CR) (s : State) : Out :=
  issue_ 4 (do
    if d.val = 0 then illegal
    dirs [a, b] [d]
    let c ← src a
    let x ← src b
    let s ← getS
    let one := b.val == 0
    let ok := a != b && (one || objOf x == objOf c)
    let _ ← capCheck c a.val (fun _ => s.permFor c (kindOf c == 1 && (one || !x.tag || kindOf x != 1 || ok)))
    if !one then
      let _ ← capCheck x b.val (fun _ => s.permFor x (kindOf x == 1 && ok))
    let sum := fracOf c + (if one then 0 else fracOf x)
    let rb := rbitsOf c ||| (if one then 0 else rbitsOf x)
    until_ (!(← getS).anyCmd s.core s.cur.asid (fun k => k.borrows (objOf c))) (.engine (objOf c))
    if sum = 65536 then settle (objOf c)
    modS (fun s => s.tableAcquire s.core s.slot false (objOf c))
    let put (v : CReg) : Act Unit := do
      setRaw a CReg.zero
      if !one then setRaw b CReg.zero
      dst d v
    if sum = 65536 then
      effectV [c, x] 0 (do
        let n ← bumpMe c a.val
        let s ← getS
        putS ((s.setOwner n (s.devOf s.cur.asid) s.core s.cur.asid).modObj n (fun e => { e with held := 65536 }))
        return (← getS).ownCap n rb (cursorOf c)) put
    else put (mkCap 1 rb (sum % 65536) (genOf c) (objOf c) (cursorOf c))) s

/-- `cview` (R144). -/
def execCview (d a b : CR) (s : State) : Out :=
  issue_ 4 (do
    if d.val = 0 then illegal
    dirs [a, b] [d]
    let c ← src a
    let x ← src b
    let s ← getS
    let e ← headed c (headCheck s c a.val 0 (fun _ => s.permFor c (kindOf c == 0)))
    let y : Int := cursorOf c + x.slo
    if y < 0 ∨ (e.length : Int) < y then stopWith (capFault fCAP_BOUNDS 5 0 a.val (bitsN y 48))
    let _ ← capCheck c a.val (fun _ => none)
    dst d { setCursor c y.toNat with val := (setCursor c y.toNat).val ||| .ofNat 128 (2 ^ 123) }) s

/-! ### Capability fields (R145) -/

/-- `cget` of a field held in the capability's own bits. -/
def bitField (f : Field) (c : CReg) : Nat :=
  match f with
  | .kind => kindOf c
  | .rbits => rbitsOf c
  | .frac => if kindOf c = 1 then fracOf c else 0
  | .gen => genOf c
  | .objid => objOf c
  | .cursor => cursorOf c
  | .length => 0
  | .level => 0

/-- `cget` of LENGTH or LEVEL, which ENGONLY refuses (R31). -/
def tableField (f : Field) (c : CReg) (reg : Nat) : Act Nat := do
  let s ← getS
  let e ← headed c (headCheck s c reg 0 (fun _ => permIf (kindOf c != 7 && kindOf c != 4 && !engOnly c)))
  return if f = .length then e.length else e.level

/-- `cget` (R145). -/
def execCget (d a : CR) (f : Field) (s : State) : Out :=
  issue_ 4 (do
    dirs [a] [d]
    let c ← src a
    let x ← if f = .length ∨ f = .level then tableField f c a.val else pure (bitField f c)
    dst d (plain x)) s

/-- The adjusted capability goes to its destination; a SHADE leaves its source (R130, R145). -/
def adjusted (d a : CR) (c v : CReg) : Act Unit := do
  if isShade c && d != a then setRaw a CReg.zero
  dst d v

/-- CAP_TAG and CAP_KIND of `cset` and `cinc`, and CAP_PERM with ENGONLY (R31) and for the CURSOR of a POOL or PORT (R145). -/
def adjustable (c : CReg) (reg : Nat) (cursor : Bool) : Act Unit := do
  if !c.tag then stopWith (capFault fCAP_TAG 1 0 reg)
  if !wellFormed c then stopWith (capFault fCAP_KIND 2 0 reg)
  if engOnly c || cursor && (kindOf c == 4 || kindOf c == 7) then stopWith (capFault fCAP_PERM 3 0 reg)

/-- `cset` (R145). -/
def execCset (d a b : CR) (f : Field) (s : State) : Out :=
  issue_ 4 (do
    if d.val = 0 then illegal
    dirs [a, b] [d]
    let c ← src a
    let x ← src b
    adjustable c a.val (f == .cursor)
    let v := if f = .cursor then setCursor c (x.lo % 2 ^ 48) else { c with val := c.val ||| .ofNat 128 (field x.lo 121 3) }
    adjusted d a c v) s

/-- `cinc` (R145). -/
def execCinc (d a b : CR) (s : State) : Out :=
  issue_ 4 (do
    if d.val = 0 then illegal
    dirs [a, b] [d]
    let c ← src a
    let x ← src b
    adjustable c a.val true
    adjusted d a c (setCursor c (bitsN (cursorOf c + x.slo) 48))) s

/-- The bits of `ctest` (R145). -/
def State.testBits (s : State) (c : CReg) : Nat :=
  let e := s.objAt (objOf c)
  if !c.tag then 0
  else if !wellFormed c then 1
  else if kindOf c = 7 then 31
  else 3 + field (genCurrent e (genOf c)).toNat 2 1 + field (!e.poisoned).toNat 3 1 + field (!e.transit).toNat 4 1

/-- `ctest` (R145). -/
def execCtest (d a : CR) (s : State) : Out :=
  issue_ 4 (do
    dirs [a] [d]
    let c ← src a
    dst d (plain ((← getS).testBits c))) s

end Sys2Proof.Machine
end

