-- ==== Sys2Proof/Machine/Message.lean ====
section
/-! DEFINITION. Sending capabilities and messages (R143, R152, R153, R161), and binding handlers (R154). -/

namespace Sys2Proof.Machine

/-- CLASS, GRP and group of a port: step 3 of R33 for its use in a message (R32, R153). -/
def State.portPerm (s : State) (c : CReg) (cls : Nat) (grp : Bool) : Option Nat :=
  s.permFor c (kindOf c == 7 && portGrp c == grp && decide (portLo c ≤ cls) && decide (cls ≤ portHi c)
    && (cls != 63 || s.dom.supv)
    && (!grp || (lookT (s.partAt s.dom.part).groups (portTarget c)).isSome))

/-- The header as delivered (R152). -/
def headerOf (user dev core send count cls : Nat) : Word :=
  .ofNat 64 (field user 40 24 + field dev 24 16 + field core 11 13 + field send 10 1 + field count 6 4 + field cls 0 6)

/-- Wait while a stopped destination already has 8 messages of this device (R279). -/
def allowed (dev core ctx : Nat) : Act Unit := do
  let s ← getS
  until_ (!s.held_ dev core ctx || decide ((s.outbox.filter (fun m => m.goesTo dev core ctx)).length < 8)) (.allowance dev core ctx)

/-- A message from the strand. -/
def State.msgFrom (s : State) (dev core ctx : Nat) (hdr : Word) (pay : List CReg) (clk : Option Carried) (form : Nat) : Msg :=
  { srcDev := s.devOf s.cur.asid, srcCore := s.core, srcCtx := s.cur.asid, dstDev := dev, dstCore := core, dstCtx := ctx,
    hdr := hdr, pay := pay, clk := clk, form := form }

/-- Whether a destination is the sender's own domain. -/
def State.inDomain (s : State) (dev core ctx : Nat) : Bool :=
  core == s.core && ctx == s.cur.asid && dev == s.devOf s.cur.asid

/-- The release that an in-domain delivery makes, and the clock that it carries (R132, R299). -/
def domainEdge (inDom : Bool) : Act (Option Carried) := do
  if inDom then
    releaseMe .domain
    tickMe
    return some (← myClock)
  else return none

/-- The checks of a payload register of `send`, `msg` or `mcast` (R143, R153): kinds that travel, and no NOSEND. -/
def payCheck (c : CReg) (reg : Nat) (moves : Bool) : Act Unit := do
  let s ← getS
  let k := kindOf c
  let ok := (k == 2 || k == 4 || k == 7 || (moves && (k == 0 || k == 1))) && !noSend c && !engOnly c
  let _ ← capCheck c reg (fun _ => if s.confirmed then none else permIf ok)

/-- `send` (R143). A SHADE leaves its register. -/
def execSend (a p : CR) (hint : BitVec 2) (_ : Bool) (s : State) : Out :=
  issue_ 4 (do
    dirs [a, p] []
    let port ← src p
    let c ← src a
    let s ← getS
    let cls := portLo port
    let _ ← checked (headCheck s port p.val 0 (fun _ =>
      if noSend port then some fCAP_PERM else s.portPerm port cls false))
    payCheck c a.val true
    let dev := portDev port
    let core := portTarget port
    let ctx := portCtx port
    let inDom := s.inDomain dev core ctx
    allowed dev core ctx
    effect [c, port] 0 (do
      let (out, _) ← departs c a.val hint.toNat dev core ctx
      let clk ← domainEdge inDom
      let s ← getS
      let hdr := headerOf 0 (s.devOf s.cur.asid) s.core 1 2 cls
      modS (fun s => s.sendMsg (s.msgFrom dev core ctx hdr [out, CReg.zero] clk 2)))
    if isShade c then setRaw a CReg.zero) s

/-- The payload registers of a message (R153). -/
def payRegs (a : CR) (n : Nat) : List CR := (List.range n).map (fun j => ⟨(a.val + j) % 32, by omega⟩)

/-- Read registers in their order. -/
def srcs : List CR → Act (List CReg)
  | [] => pure []
  | k :: ks => do
    let v ← src k
    return v :: (← srcs ks)

/-- Check the tagged payloads in register order. -/
def payChecks (moves : Bool) : List (CR × CReg) → Act Unit
  | [] => pure ()
  | (k, v) :: ks => do
    if v.tag then payCheck v k.val moves
    payChecks moves ks

/-- The payloads leave for a destination: what the receiver gets. -/
def departAll (dev core ctx : Nat) : List (CR × CReg) → Act (List CReg)
  | [] => pure []
  | (k, v) :: ks => do
    let (out, _) ← departs v k.val 0 dev core ctx
    return out :: (← departAll dev core ctx ks)

/-- `msg` (R153). -/
def execMsg (p a h : CR) (n : Fin 9) (s : State) : Out :=
  issue_ 4 (do
    let regs := payRegs a n.val
    dirs (p :: h :: regs) []
    let port ← src p
    let hd ← src h
    let pay ← srcs regs
    let s ← getS
    let cls := bitsAt hd.lo 0 6
    let _ ← checked (headCheck s port p.val 0 (fun _ => s.portPerm port cls false))
    payChecks true (regs.zip pay)
    let dev := portDev port
    let core := portTarget port
    let ctx := portCtx port
    let inDom := s.inDomain dev core ctx
    allowed dev core ctx
    effect (port :: hd :: pay) 0 (do
      let out ← departAll dev core ctx (regs.zip pay)
      let clk ← domainEdge inDom
      let s ← getS
      let hdr := headerOf (bitsAt hd.lo 40 24) (s.devOf s.cur.asid) s.core 0 n.val cls
      modS (fun s => s.sendMsg (s.msgFrom dev core ctx hdr out clk 0)))
    for (k, v) in regs.zip pay do
      if isShade v then setRaw k CReg.zero) s

/-- The destinations of an `mcast`: the members of the group (R153). -/
def State.castTo (s : State) (port : CReg) : List (Nat × Nat) :=
  match lookT (s.partAt s.dom.part).groups (portTarget port) with
  | some g => g.members
  | none => []

/-- Wait for the allowance of every destination. -/
def allowedAll (ctx : Nat) : List (Nat × Nat) → Act Unit
  | [] => pure ()
  | (dev, core) :: ms => do
    allowed dev core ctx
    allowedAll ctx ms

/-- `mcast` (R153): the delivery to the sender's own core carries its clock; no other does. -/
def execMcast (p a h : CR) (n : Fin 9) (s : State) : Out :=
  issue_ 4 (do
    let regs := payRegs a n.val
    dirs (p :: h :: regs) []
    let port ← src p
    let hd ← src h
    let pay ← srcs regs
    let s ← getS
    let cls := bitsAt hd.lo 0 6
    let _ ← checked (headCheck s port p.val 0 (fun _ => s.portPerm port cls true))
    payChecks false (regs.zip pay)
    let ctx := portCtx port
    let ms := s.castTo port
    allowedAll ctx ms
    effect (port :: hd :: pay) 0 (do
      let clk ← domainEdge (ms.any (fun m => s.inDomain m.1 m.2 ctx))
      let s ← getS
      let hdr := headerOf (bitsAt hd.lo 40 24) (s.devOf s.cur.asid) s.core 0 n.val cls
      let one (s : State) (m : Nat × Nat) : State :=
        s.sendMsg (s.msgFrom m.1 m.2 ctx hdr pay (if s.inDomain m.1 m.2 ctx then clk else none) 1)
      modS (fun s => ms.foldl one s))) s

/-- Whether a context was launched in compatibility mode (R161). -/
def State.compat (s : State) (asid : Nat) : Bool :=
  match lookT s.ctxs asid with
  | some x => x.compat
  | none => false

/-- `cont` (R161): a pattern ILLEGAL outside compatibility mode and for n other than 1. DESIGN CHOICE (log 54): the port is checked before
the payload's tag, as `msg` does. -/
def execCont (p a h : CR) (n : Fin 9) (s : State) : Out :=
  issue_ 4 (do
    let t ← me
    if !(← getS).compat t.asid ∨ n.val ≠ 1 then illegal
    dirs [p, h, a] []
    let port ← src p
    let hd ← src h
    let v ← src a
    let s ← getS
    let cls := bitsAt hd.lo 0 6
    let _ ← checked (headCheck s port p.val 0 (fun _ => s.portPerm port cls false))
    if v.tag ∧ !s.confirmed then stopWith (capFault fCAP_PERM 3 0 a.val)
    let dev := portDev port
    let core := portTarget port
    let ctx := portCtx port
    let inDom := s.inDomain dev core ctx
    allowed dev core ctx
    effect [port, hd, v] 0 (do
      let clk ← domainEdge inDom
      let s ← getS
      let hdr := headerOf (bitsAt hd.lo 40 24) (s.devOf s.cur.asid) s.core 0 1 cls
      modS (fun s => s.sendMsg (s.msgFrom dev core ctx hdr [v] clk 3)))) s

/-! ### Handlers (R154) -/

/-- Held messages of a class become eligible, in the inbox and in the heap (R154, R278). A continuation stays. -/
def State.unhold (s : State) (core asid cls : Nat) : State :=
  let free (m : Msg) : Bool := m.form != 3 && m.cls == cls
  let s := s.modCore core (fun k =>
    { k with inbox := k.inbox.map (fun e => if e.msg.dstCtx == asid && free e.msg then { e with held := false } else e) })
  s.setHeap core asid (fun h => h.map (fun r => match r with
    | .message m h n => .message m (h && !free m) n
    | .work w => .work w))

/-- `bind` (R154). -/
def execBind (a : CR) (cls : BitVec 6) (s : State) : Out :=
  issue_ 4 (do
    dirs [a] []
    let c ← src a
    let s ← getS
    let perm : Option Nat :=
      if cls.toNat = 63 ∧ !s.dom.supv then some fPRIV else s.permFor c (kindOf c == 3)
    let _ ← headed c (headCheck s c a.val 0 (fun _ => perm))
    effect [c] 0 (modS (fun s =>
      (s.modCurDom (fun d => { d with bindings := putT d.bindings cls.toNat c })).unhold s.core s.cur.asid cls.toNat))) s

/-- `unbind` (R154). -/
def execUnbind (cls : BitVec 6) (s : State) : Out :=
  issue_ 4 (do
    if cls.toNat = 63 ∧ !(← myDom).supv then fault fPRIV
    effect [] 0 (modS (fun s => s.modCurDom (fun d => { d with bindings := dropT d.bindings cls.toNat })))) s

end Sys2Proof.Machine
end

