-- ==== Sys2Proof/Machine/Tags.lean ====
section
/-! DEFINITION. Completion tags (R158, R161), work lists (R159) and barriers (R160). -/

namespace Sys2Proof.Machine

/-! ### Tags (R158) -/

/-- Acquire the completion clock of each tag that is set in a mask (R158, R299). -/
def observe (m : Nat) : Act Unit := do
  let d ← myDom
  let seen := d.tagClks.filter (fun x => bit m x.1 && d.tags.getLsbD x.1)
  modS (fun s => seen.foldl (fun s x => s.acquire x.2) s)

/-- The oldest continuation that a core holds for a slot of a context (R161). -/
def Core.continuation (k : Core) (asid slot : Nat) : Option InboxEntry :=
  k.inbox.find? (fun e => e.msg.form == 3 && e.msg.dstCtx == asid && bitsAt e.msg.hdr.toNat 48 4 == slot)

/-- Whether an older continuation for a slot than an inbox entry lies in the domain's heap (R153, R161). -/
def Domain.olderContinuation (d : Domain) (slot order : Nat) : Bool :=
  d.heap.any (fun r => match r with
    | .message m _ n => m.form == 3 && bitsAt m.hdr.toNat 48 4 == slot && decide (n < order)
    | .work _ => false)

/-- `wany` with a zero mask in compatibility mode: the strand is suspended until a continuation has named it (R161). -/
def suspend : Act Unit := do
  let s ← getS
  let t ← me
  match t.given with
  | some _ => modS (fun s => s.modCur (fun t => { t with given := none }))
  | none => match (s.coreAt s.core).continuation t.asid s.slot with
    | none => waitFor .continuation
    | some e =>
      until_ (!s.dom.olderContinuation s.slot e.order) .continuation
      modS (fun s => s.modCore s.core (fun k => { k with inbox := k.inbox.erase e }))
      modS (fun s => s.modCur (fun t => t.setReg (bitsAt e.msg.hdr.toNat 40 5) (e.msg.pay.headD CReg.zero)))
      match e.msg.clk with
      | some x => acquireMe x
      | none => pure ()

/-- A wait on TAGS: what the trailing member of a pair learns of it comes from the leading member. -/
def waitTags (m : Nat) (holds : Nat → Bool) (w : Wait) : Act Unit := do
  let _ ← outside (do
    until_ (holds (← myDom).tags.toNat) w
    return CReg.zero)
  observe m

/-- `wany` (R158). -/
def execWany (a : CR) (s : State) : Out :=
  issue_ 4 (do
    dirs [a] []
    let x ← src a
    let m := x.lo
    if m = 0 then
      if (← getS).compat (← me).asid then suspend
    else waitTags m (fun t => t &&& m != 0) (.anyTag (.ofNat 64 m))) s

/-- `wall` (R158). -/
def execWall (a : CR) (s : State) : Out :=
  issue_ 4 (do
    dirs [a] []
    let x ← src a
    let m := x.lo
    waitTags m (fun t => t &&& m == m) (.allTags (.ofNat 64 m))) s

/-- `ffr` (R158). -/
def execFfr (d a : CR) (s : State) : Out :=
  issue_ 4 (do
    dirs [a] [d]
    let x ← src a
    let v ← outside (do
      let t := (← myDom).tags.toNat &&& x.lo
      return plain (ctzN t 0 64))
    observe x.lo
    dst d v) s

/-- `tclr` (R158). -/
def execTclr (a : CR) (s : State) : Out :=
  issue_ 4 (do
    dirs [a] []
    let x ← src a
    effect [x] 0 (modS (fun s => s.modCurDom (fun d => d.clearTags s.time x.lo)))) s

/-! ### Work lists (R159, R285) -/

/-- Work records in a domain's heap. -/
def Domain.workRecs (d : Domain) : Bool :=
  d.heap.any (fun r => match r with
    | .work _ => true
    | .message .. => false)

/-- An entry joins a core's list, or its domain's heap; none when the heap is full (R285). -/
def State.addWork (s : State) (core : Nat) (w : WorkEntry) : Option State :=
  let d := s.domAt core w.asid
  if (s.coreAt core).work.length < 32 ∧ !d.workRecs then
    some (s.modCore core (fun k => { k with work := k.work ++ [w] }))
  else if d.heap.length < d.heapSize then
    some ((s.setHeap core w.asid (fun h => h ++ [.work w])).count core w.asid 0x105 1)
  else none

/-- `post` (R159). DEDUCED (log 50): an ENGONLY value is refused. -/
def execPost (a : CR) (s : State) : Out :=
  issue_ 4 (do
    let b : CR := ⟨(a.val + 1) % 32, by omega⟩
    dirs [a, b] []
    let x ← src a
    let y ← src b
    let k := kindOf y
    if x.tag then stopWith (capFault fCAP_PERM 3 0 a.val)
    if y.tag ∧ (noSend y ∨ engOnly y ∨ k = 3 ∨ k = 5 ∨ k = 6) then stopWith (capFault fCAP_PERM 3 0 b.val)
    effect [x, y] 0 (do
      releaseMe .domain
      tickMe
      let clk ← myClock
      let s ← getS
      match s.addWork s.core ⟨s.cur.asid, .ofNat 64 x.lo, y, clk⟩ with
      | some s' => putS s'
      | none => fault fWORK_OVERFLOW)
    if isShade y then setRaw b CReg.zero) s

/-- `grab` (R159): the pair of registers of the oldest entry, or plain zeros. -/
def grabNow : Act (CReg × CReg) := do
  let s ← getS
  match (s.coreAt s.core).work.find? (fun w => w.asid == s.cur.asid) with
  | some w =>
    modS (fun s => s.modCore s.core (fun k => { k with work := k.work.erase w }))
    acquireMe w.clk
    return (⟨.ofNat 128 (2 ^ 64 + w.word.toNat), false⟩, w.reg)
  | none =>
    if s.dom.workRecs then waitFor .work
    else return (CReg.zero, CReg.zero)

/-- `grab` (R159). -/
def execGrab (d : CR) (s : State) : Out :=
  issue_ 4 (do
    let e : CR := ⟨(d.val + 1) % 32, by omega⟩
    dirs [] [d, e]
    let put (x y : CReg) : Act Unit := do
      dst d x
      dst e y
    effect [] 0 (do
      let (x, y) ← grabNow
      modS (fun s => (s.pushLvq s.core s.slot x).pushLvq s.core s.slot y)
      put x y)
    if (← me).pair = 2 then
      let x ← takeLvq
      let y ← takeLvq
      put x y) s

/-! ### Barriers (R160) -/

/-- Whether a domain is a member of a group (R44). -/
def Domain.memberOf (d : Domain) (g : Nat) : Bool :=
  (List.range 4).any (fun k =>
    let m := bitsAt d.groups.toNat (32 * k) 32
    bit m 31 && bitsAt m 23 8 == g)

/-- The clock that a domain's strands have joined into an instance. -/
def Group.joinedOf (g : Group) (dom : Nat) : Carried := (lookT g.joined dom).getD ⟨0, []⟩

/-- The strands of a group's context that wait at an instance: they acquire the joined clocks and retire (R160). -/
def State.passBarrier (s : State) (part n : Nat) (g : Group) : State :=
  let at_ (t : Slot) : Bool := t.barrier == some (n, g.inst) && s.partOf t.asid == part
  let mark (core : Nat) (t : Slot) : Slot :=
    if at_ t then { t with clock := s.merge core t.asid t.clock (g.joinedOf (domKey core t.asid)), state :=
      if t.state = .frozen then .frozen else .ready } else t
  let saved (k : Nat × Core) : Nat × Core :=
    if k.2.tcc.any (fun v => v.images.any at_) then
      (k.1, { k.2 with tcc := k.2.tcc.map (fun v => { v with images := v.images.map (mark k.1) }), l1 := k.2.l1.map s.reread })
    else k
  let ws : List (Nat × Nat) := s.cores.flatMap (fun k => (k.2.slots.filter (fun t => at_ t.2)).map (fun t => (k.1, t.1)))
  let go (s : State) (w : Nat × Nat) : State :=
    let t := s.slotAt w.1 w.2
    let s := s.acquireAt w.1 w.2 (g.joinedOf (domKey w.1 t.asid))
    if t.state = .wait (.barrier n g.inst) then
      (s.modSlot w.1 w.2 (fun t => { t with barrier := none })).finishAt w.1 w.2 4 (pure .next)
    else s
  ws.foldl go { s with cores := s.cores.map saved }

/-- The barrier of a group completes when every member has arrived and the counter is zero, in the cycle after that (R4, R160). DESIGN
CHOICE (log 71): the counter of a group of several devices is each device's own PENDING (R272), and none waits for another's. -/
def State.tryBarrier (s : State) (part n : Nat) : State :=
  match lookT (s.partAt part).groups n with
  | none => s
  | some g =>
    if g.pending = 0 ∧ g.members.all (fun m => g.arrived.contains m) ∧ !g.members.isEmpty then
      let next := { g with arrived := g.early, early := [], joined := [], inst := g.inst + 1 }
      (s.modPart part (fun p => { p with groups := putT p.groups n next })).passBarrier part n g
    else s

/-- A member of another device has arrived at an instance of a group's barrier: at this one, or at the next when this one is complete
there (R160). -/
def State.arriveFrom (s : State) (part n dev core inst : Nat) : State :=
  let add (l : List (Nat × Nat)) : List (Nat × Nat) := if l.contains (dev, core) then l else l ++ [(dev, core)]
  if (lookT (s.partAt part).groups n).isNone then s.modPart part (fun p => { p with comers := p.comers ++ [(n, dev, core, inst)] })
  else (s.modPart part (fun p => { p with groups := mapT p.groups n (fun g =>
    if inst = g.inst then { g with arrived := add g.arrived } else if inst = g.inst + 1 then { g with early := add g.early } else g) })).tryBarrier
    part n

/-- The arrival of a core at an instance goes to the other devices that have members of the group (R160; log 62). -/
def State.tellArrival (s : State) (part n : Nat) (g : Group) : State :=
  let here := s.jobDev part
  let devs := (g.members.filter (fun m => m.1 != here)).foldl (fun l m => if l.contains m.1 then l else l ++ [m.1]) ([] : List Nat)
  devs.foldl (fun s d =>
    (s.inject part d s.dom.supv 0 s.core s.cur.asid (.arrival s.core n g.inst)).getD s) s

/-- Arrive at a group's barrier with the strand's clock joined (R160, R299); the first arrival of the core at an instance counts. -/
def State.arriveAt (s : State) (part n : Nat) (x : Carried) : State :=
  let asid := s.cur.asid
  let dev := s.devOf asid
  let core := s.core
  let key := domKey core asid
  let epoch := (s.domAt core asid).epoch
  let s := match lookT (s.partAt part).groups n with
    | some g => if g.arrived.contains (dev, core) then s else s.tellArrival part n g
    | none => s
  s.modPart part (fun p => { p with groups := mapT p.groups n (fun g =>
    { g with
      arrived := if g.arrived.contains (dev, core) then g.arrived else g.arrived ++ [(dev, core)]
      joined := putT g.joined key (match lookT g.joined key with
        | some y => joinCarried epoch y x
        | none => x) }) })

/-- `bar` (R160). A strand that has been saved at a barrier goes on once its instance has completed (R291). -/
def execBar (g : BitVec 8) (s : State) : Out :=
  issue 4 (do
    let s ← getS
    let t ← me
    let n := g.toNat
    let part := s.dom.part
    if !s.dom.memberOf n ∧ !s.confirmed then stopWith (capFault fCAP_PERM 3 0 0)
    let g : Option Group := lookT (s.partAt part).groups n
    let inst : Nat := (g.map (fun x => x.inst)).getD 0
    match t.barrier with
    | some (m, i) =>
      if m = n ∧ i = inst then waitFor (.barrier n inst)
      else
        modS (fun s => s.modCur (fun t => { t with barrier := none }))
        return .next
    | none =>
      effect [] 0 (do
        releaseMe (groupRelease ((g.map (fun x => x.scope)).getD 0))
        tickMe
        let x ← myClock
        modS (fun s => s.arriveAt part n x))
      if t.pair = 2 then return .next
      modS (fun s => s.modCur (fun t => { t with barrier := some (n, inst) }))
      return .park (.barrier n inst)) s

/-- The counter of a group after an adjustment; none when it would pass its range (R160). -/
def Group.adjusted (g : Group) (d : Int) : Option Group :=
  let x : Int := g.pending + d
  if x < 0 ∨ 2 ^ 64 ≤ x then none else some { g with pending := x.toNat }

/-- Adjust the counter of a group of the strand's partition (R160). -/
def addPending (n : Nat) (d : Int) : Act Unit := do
  let s ← getS
  let part := s.dom.part
  match (lookT (s.partAt part).groups n).bind (fun g => g.adjusted d) with
  | some g => modS (fun s => s.modPart part (fun p => { p with groups := putT p.groups n g }))
  | none => stopWith { code := fBARRIER_OVERFLOW, arg := n }

/-- `bar.add` (R160). -/
def execBarAdd (a : CR) (g : BitVec 8) (s : State) : Out :=
  issue_ 4 (do
    dirs [a] []
    let x ← src a
    let s ← getS
    if !s.dom.memberOf g.toNat ∧ !s.confirmed then stopWith (capFault fCAP_PERM 3 0 0)
    effect [x] 0 (addPending g.toNat x.slo)) s

end Sys2Proof.Machine
end

