-- ==== Sys2Proof/Machine/Tile.lean ====
section
/-! DEFINITION. Tile queues and tile copies (R184 to R188). -/

namespace Sys2Proof.Machine

/-! ### Queues (R184, R185) -/

/-- Slots produced and not yet consumed (R185). -/
def Queue.filled (q : Queue) : Nat := (q.prod + 2 ^ 32 - q.read) % 2 ^ 32
/-- Slots consumed and not yet freed (R185). -/
def Queue.held (q : Queue) : Nat := (q.read + 2 ^ 32 - q.free) % 2 ^ 32
/-- Slots that may be produced (R185). -/
def Queue.room (q : Queue) : Nat := q.n - (q.prod + 2 ^ 32 - q.free) % 2 ^ 32

/-- The slot that a count names; the counts are of 32 bits (R185). -/
def Queue.slot (q : Queue) (c : Nat) : Nat := c % 2 ^ 32 % q.n

/-- The location of the row of count c (R185). -/
def Queue.row (q : Queue) (c : Nat) : Nat := cursorOf q.cap + 128 * q.slot c

/-- n slots are consumed (R185). -/
def Queue.consume (q : Queue) (n : Nat) : Queue := { q with read := (q.read + n) % 2 ^ 32 }

/-- n consumed slots are freed (R185). -/
def Queue.release (q : Queue) (n : Nat) : Queue := { q with free := (q.free + n) % 2 ^ 32 }

/-- n slots are produced, with their producer's clock (R185). -/
def Queue.produce (q : Queue) (n : Nat) (x : Carried) : Queue :=
  { q with
    prod := (q.prod + n) % 2 ^ 32
    clks := (List.range n).foldl (fun t j => putT t (q.slot (q.prod + j)) x) q.clks }

/-- The clocks of the next n slots to be consumed (R185). -/
def Queue.nextClks (q : Queue) (n : Nat) : List Carried :=
  (List.range n).filterMap (fun j => lookT q.clks (q.slot (q.read + j)))

/-- A queue of a core. -/
def State.queueAt (s : State) (c q : Nat) : Option Queue := lookT (s.coreAt c).mx.queues q

/-- Set a queue of a core. -/
def State.setQueue (s : State) (c q : Nat) (x : Queue) : State :=
  s.modCore c (fun k => { k with mx := { k.mx with queues := putT k.mx.queues q x } })

/-- Whether a domain holds the matrix unit of its core (R184). -/
def State.isHolder (s : State) (c asid : Nat) : Bool := (s.coreAt c).holder == some asid

/-- CAP_PERM for a queue that the strand's domain does not hold or that is undefined, CAP_GEN for a revoked one (R184 to R186). -/
def queueCheck (q : QR) : Act Queue := do
  let s ← getS
  if !s.isHolder s.core s.cur.asid ∧ !s.confirmed then stopWith (capFault fCAP_PERM 3 0 0)
  match s.queueAt s.core q.val with
  | none => stopWith (capFault fCAP_PERM 3 0 0)
  | some x =>
    if !genCurrent (s.objAt (objOf x.cap)) (genOf x.cap) ∧ !s.confirmed then stopWith (capFault fCAP_GEN 4 0 0)
    return x

/-- Whether an e0 command names a queue (R187): an MMA its rows and scales, a DRAIN with QM its destination. -/
def Cmd.namesQueue (k : Cmd) (q : Nat) : Bool :=
  let h := k.h.val.toNat
  let p := h / 2 ^ 64
  let code := h % 256
  (code == 1 && (bitsAt p 25 3 == q || (decide (3 ≤ bitsAt p 28 4) && bitsAt p 22 3 == q)))
    || (code == 4 && bit p 22 && bitsAt p 19 3 == q)

/-! ### Checks of the two sides (R186) -/

/-- Whether an object may be the TS side (R186): in TS, of this core. -/
def State.tileSide (s : State) (e : Obj) : Bool := e.level == 1 && s.homeCore e == s.core

/-- Whether an object may be the memory side (R186): LS of a core of the cluster, cluster store or HBM. -/
def State.memorySide (s : State) (e : Obj) : Bool :=
  (e.level == 0 && clusterOf (s.homeCore e) == clusterOf s.core) || e.level == 2 || e.level == 3

/-- Steps 1 to 6 of R33 of a side: the location. -/
def sideCheck (ts : Bool) (op : Op) (c : CReg) (reg n : Nat) : Act Nat := do
  let s ← getS
  let perm (e : Obj) : Option Nat :=
    let ok := if ts then s.tileSide e else s.memorySide e
    if kindOf c ≠ 6 && !ok then some fCAP_PERM else permit op c e.level s.dom.supv false
  let e ← headed c (headCheck s c reg 0 perm)
  checked (checkSpan c e 0 n (if ts then 128 else 64) 0 reg)

/-- Steps 7 and 8 of R33 of a side. -/
def sideReady (c : CReg) (reg loc : Nat) : Act Unit := do
  let s ← getS
  let e := s.objAt (objOf c)
  if !s.confirmed then
    checked (checkPoison e loc 0 reg)
    until_ (!e.transit) (.transit (objOf c))

/-! ### Copies -/

/-- The pages of n bytes at a location. -/
def spansFrom (o loc n : Nat) : Nat → Act (List (Nat × Nat × Nat))
  | 0 => pure []
  | fuel + 1 => do
    if n = 0 then return []
    let s ← getS
    let e := s.objAt o
    if e.level < 3 then return [(loc, s.localAddr e loc, n)]
    else
      let a ← flatAct o loc
      let k := min n (2 ^ 16 - (e.base + loc) % 2 ^ 16)
      return (loc, a, k) :: (← spansFrom o (loc + k) (n - k) fuel)

/-- The flat ranges of n bytes at a location, page by page: (location, flat address, length). A page that the TLBs lack parks the
strand. A location is translated for no bytes as well (R258). -/
def spans (o loc n fuel : Nat) : Act (List (Nat × Nat × Nat)) := do
  if n = 0 then
    let _ ← flatAct o loc
    return []
  else spansFrom o loc n fuel

/-- The race checks of ranges. -/
def State.sideRaces (s : State) (own : Bool) (o : Nat) (write : Bool) (xs : List (Nat × Nat × Nat)) : List (List Word) :=
  if own && s.cur.pair != 2 then xs.flatMap (fun x => s.racesIn (s.party s.core s.slot) o x.1 x.2.1 x.2.2 write) else []

/-- Every line of an instruction's ranges is checked before any byte moves (R304). -/
def raceLines (races : State → List (List Word)) : Act Unit := do
  let s ← getS
  raced (s.party s.core s.slot) (races s)

/-- The bytes of ranges as the strand's core sees them. -/
def State.spanBytes (s : State) (o : Nat) (xs : List (Nat × Nat × Nat)) : List Byte :=
  let level := (s.objAt o).level
  xs.flatMap (fun x => (List.range x.2.2).map (fun j => s.byteAt s.core o level (x.2.1 + j)))

/-- Write bytes into ranges, line by line, as the strand's stores. -/
def State.writeSpans (s : State) (own : Bool) (o : Nat) (xs : List (Nat × Nat × Nat)) (bs : List Byte) : State :=
  let clk := clkAt s.cur.clock s.slot
  let line (loc a : Nat) (s : State) (j : Nat) (bs : List Byte) : State :=
    (s.performStore s.core s.slot ⟨o, loc + 64 * j, a + 64 * j, ((bs.drop (64 * j)).take 64).map some, none, clk, own⟩).getD s
  let step (acc : State × List Byte) (x : Nat × Nat × Nat) : State × List Byte :=
    let here := acc.2.take x.2.2
    ((List.range ((x.2.2 + 63) / 64)).foldl (fun s j => line x.1 x.2.1 s j here) acc.1, acc.2.drop x.2.2)
  (xs.foldl step (s, bs)).1

/-- Copy between two sides once both have been checked (R186): the strand's earlier stores first. -/
def copySides (so : Nat) (sOwn : Bool) (src_ : List (Nat × Nat × Nat)) (o : Nat) (dOwn : Bool) (dst_ : List (Nat × Nat × Nat)) :
    Act Unit := do
  modS (fun s => s.drain s.core s.slot)
  raceLines (fun s => s.sideRaces sOwn so false src_ ++ s.sideRaces dOwn o true dst_)
  modS (fun s => s.writeSpans dOwn o dst_ (s.spanBytes so src_))

/-- The rows of a queue from a count, as ranges. -/
def queueSpans (q : Queue) (c n : Nat) : Act (List (Nat × Nat × Nat)) := do
  let s ← getS
  let e := s.objAt (objOf q.cap)
  return (List.range n).map (fun j => (q.row (c + j), s.localAddr e (q.row (c + j)), 128))

/-- A count of rows that the instruction takes (R186). -/
def countCheck (n limit reg : Nat) : Act Unit := if limit < n then stopWith (capFault fCAP_BOUNDS 5 0 reg) else pure ()

/-- The most rows that a copy with a queue may name: the queue's own N (R186). -/
def State.queueLimit (s : State) (q : QR) : Nat := (s.queueAt s.core q.val).elim 2048 (fun x => x.n)

/-- `tld` (R186). -/
def execTld (d a b : CR) (q : QR) (qm : Bool) (s : State) : Out :=
  issue_ 4 (do
    dirs (if qm then [a, b] else [d, a, b]) []
    let t ← if qm then pure CReg.zero else src d
    let c ← src a
    let n := (← src b).lo
    if qm then
      let loc ← sideCheck false .tileIn c a.val (128 * n)
      countCheck n ((← getS).queueLimit q) b.val
      let x ← queueCheck q
      sideReady x.cap 0 0
      sideReady c a.val loc
      let from_ ← spans (objOf c) loc (128 * n) 6
      effect [c, plain n] loc (do
        until_ (decide (n ≤ x.room)) (.room q.val n)
        let to_ ← queueSpans x x.prod n
        copySides (objOf c) (isOwn c) from_ (objOf x.cap) true to_
        tickMe
        let clk ← myClock
        modS (fun s => s.setQueue s.core q.val (x.produce n clk)))
    else
      let tl ← sideCheck true .tileOut t d.val (128 * n)
      let loc ← sideCheck false .tileIn c a.val (128 * n)
      countCheck n 2048 b.val
      sideReady t d.val tl
      sideReady c a.val loc
      let from_ ← spans (objOf c) loc (128 * n) 6
      let to_ ← spans (objOf t) tl (128 * n) 6
      effect [t, c, plain n] loc (copySides (objOf c) (isOwn c) from_ (objOf t) true to_)) s

/-- `tst` (R186, R258). -/
def execTst (d a b : CR) (q : QR) (qm : Bool) (s : State) : Out :=
  issue_ 4 (do
    dirs (if qm then [d, b] else [d, a, b]) []
    let c ← src d
    let t ← if qm then pure CReg.zero else src a
    let n := (← src b).lo
    if qm then
      let loc ← sideCheck false .tileOut c d.val (128 * n)
      countCheck n ((← getS).queueLimit q) b.val
      let x ← queueCheck q
      sideReady x.cap 0 0
      sideReady c d.val loc
      let to_ ← spans (objOf c) loc (128 * n) 6
      effect [c, plain n] loc (do
        until_ (decide (n ≤ x.filled)) (.filled q.val n)
        modS (fun s => (x.nextClks n).foldl (fun s k => s.acquire k) s)
        let from_ ← queueSpans x x.read n
        copySides (objOf x.cap) true from_ (objOf c) (isOwn c) to_
        modS (fun s => s.setQueue s.core q.val (x.consume n)))
    else
      let tl ← sideCheck true .tileIn t a.val (128 * n)
      let loc ← sideCheck false .tileOut c d.val (128 * n)
      countCheck n 2048 b.val
      sideReady t a.val tl
      sideReady c d.val loc
      let from_ ← spans (objOf t) tl (128 * n) 6
      let to_ ← spans (objOf c) loc (128 * n) 6
      effect [c, t, plain n] loc (copySides (objOf t) (isOwn t) from_ (objOf c) (isOwn c) to_)) s

/-! ### `tq.def`, `tq.adv`, `tq.rel`, `tq.wait` (R187, R188) -/

/-- `tq.def` (R187). -/
def execTqDef (a b : CR) (q : QR) (s : State) : Out :=
  issue_ 4 (do
    dirs [a, b] []
    let c ← src a
    let n := (← src b).lo
    let s ← getS
    if !s.isHolder s.core s.cur.asid ∧ !s.confirmed then stopWith (capFault fCAP_PERM 3 0 0)
    if n ≠ 0 then
      let e ← headed c (headCheck s c a.val 0 (fun e => s.permFor c (kindOf c == 0 && s.tileSide e)))
      let loc ← checked (checkSpan c e 0 (128 * n) 128 0 a.val)
      checked (checkPoison e loc 0 a.val)
      countCheck n 2048 b.val
      sideReady c a.val loc
    effect [c, plain n] 0 (do
      let s ← getS
      until_ (!s.anyCmd s.core s.cur.asid (fun k => k.namesQueue q.val)) (.queueBusy q.val)
      if n = 0 then
        modS (fun s => s.modCore s.core (fun k => { k with mx := { k.mx with queues := dropT k.mx.queues q.val } }))
      else modS (fun s => s.setQueue s.core q.val { cap := c, n := n, prod := 0, read := 0, free := 0, clks := [] }))) s

/-- `tq.adv` (R188). -/
def execTqAdv (b : CR) (q : QR) (s : State) : Out :=
  issue_ 4 (do
    dirs [b] []
    let n := (← src b).lo
    let x ← queueCheck q
    if !(← getS).confirmed then countCheck n x.room b.val
    effect [plain n] 0 (do
      tickMe
      let clk ← myClock
      modS (fun s => s.setQueue s.core q.val (x.produce n clk)))) s

/-- `tq.rel` (R188). -/
def execTqRel (b : CR) (q : QR) (s : State) : Out :=
  issue_ 4 (do
    dirs [b] []
    let n := (← src b).lo
    let x ← queueCheck q
    if !(← getS).confirmed then countCheck n x.held b.val
    effect [plain n] 0 (modS (fun s => s.setQueue s.core q.val (x.release n)))) s

/-- `tq.wait` (R188). -/
def execTqWait (b : CR) (q : QR) (s : State) : Out :=
  issue_ 4 (do
    dirs [b] []
    let n := (← src b).lo
    let x ← queueCheck q
    countCheck n x.n b.val
    effect [plain n] 0 (do
      until_ (decide (n ≤ x.filled)) (.filled q.val n)
      modS (fun s => (x.nextClks n).foldl (fun s k => s.acquire k) s))) s

end Sys2Proof.Machine
end

