-- ==== Sys2Proof/Machine/Ports.lean ====
section
/-! DEFINITION. Command records and engine ports (R189 to R195, R204, R209): the form of a record, and `epush`, `epop`, `estat`
and `aget`. -/

namespace Sys2Proof.Machine

/-! ### Fields of a record (R189) -/

/-- PARAM of a record. -/
def paramOf (h : CReg) : Nat := h.val.toNat / 2 ^ 64
/-- CMD of a record. -/
def Cmd.code_ (k : Cmd) : Nat := bitsAt k.h.val.toNat 0 8
/-- TAG. -/
def Cmd.tag (k : Cmd) : Nat := bitsAt k.h.val.toNat 58 6
/-- TE. -/
def Cmd.te (k : Cmd) : Bool := bit k.h.val.toNat 57
/-- RE. -/
def Cmd.re (k : Cmd) : Bool := bit k.h.val.toNat 56
/-- BGRP. -/
def Cmd.bgrp (k : Cmd) : Nat := bitsAt k.h.val.toNat 48 8
/-- BM. -/
def Cmd.bm (k : Cmd) : Bool := bit k.h.val.toNat 47
/-- PARAM. -/
def Cmd.param (k : Cmd) : Nat := paramOf k.h

/-- Rows of the tile of a format: 64, 66 or 68 (R196). -/
def tileRows (fmt : Nat) : Nat := if fmt < 3 then 64 else if fmt = 7 then 68 else 66
/-- The pairing class of a format (R196). -/
def pairClass (fmt : Nat) : Nat := if fmt = 0 then 1 else if fmt < 3 then 2 else if fmt = 7 then 4 else 3

/-- Where an operand must lie. -/
inductive Place where
  | tile | localMem | remote | pool
deriving DecidableEq, Repr

/-- The role and extent of an operand (R190): kinds, place, whether it is written, bytes from CURSOR, alignment, whether CURSOR
must be 0, an exact object length, and whether only a supervisor domain has it (R208). -/
structure Role where
  kinds : List Nat
  place : Place
  write : Bool
  n : Nat
  align : Nat := 1
  start : Bool := false
  exact_ : Option Nat := none
  supv : Bool := false
deriving DecidableEq, Repr

/-- A well-formed record: the roles of X and Y, and bytes(rec) (R190, R204). -/
structure Rec where
  x : Option Role
  y : Option Role
  bytes : Nat
deriving DecidableEq, Repr

/-- Rows and first row of a bank, within their limits (R197, R201). -/
def rowsOk (p : Nat) : Bool :=
  decide (1 ≤ bitsAt p 8 9) && decide (bitsAt p 8 9 + bitsAt p 0 8 ≤ 256)

/-- Plain zero. -/
def isZero (c : CReg) : Bool := c == CReg.zero

/-- TS rows that a DRAIN writes (R201). -/
def drainRows (p : Nat) : Nat :=
  let r := bitsAt p 8 9
  let f := bitsAt p 28 4
  if f = 0 then 2 * r else if f < 3 then r else (r + 1) / 2

/-- A record of e0 (R197 to R202). -/
def parseMatrix (code p : Nat) (x y z : CReg) : Option Rec :=
  let all0 := isZero x && isZero y && isZero z
  let fmt := bitsAt p 28 4
  if code = 1 then
    if all0 && bitsAt p 32 32 == 0 && bitsAt p 17 3 == 0 && decide (fmt < 9) && (decide (3 ≤ fmt) || bitsAt p 22 3 == 0) && rowsOk p
    then some ⟨none, none, 0⟩ else none
  else if code = 2 then
    if isZero y && isZero z && bitsAt p 32 32 == 0 && bitsAt p 0 27 == 0 && decide (fmt < 9) then
      let n := 128 * tileRows fmt
      if bit p 27 then some ⟨some { kinds := [0], place := .tile, write := false, n := n, start := true, exact_ := some n }, none, 0⟩
      else some ⟨some { kinds := [0, 1], place := .tile, write := false, n := n, align := 128 }, none, 0⟩
    else none
  else if code = 3 ∨ code = 6 then if all0 && p == 0 then some ⟨none, none, 0⟩ else none
  else if code = 4 then
    let n := 128 * drainRows p
    if bitsAt p 32 32 == 0 && decide (fmt ≤ 4) && decide (bitsAt p 25 3 ≤ 4) && (bit p 22 || bitsAt p 19 3 == 0) && !bit p 18
        && rowsOk p && isZero z && (bitsAt p 25 3 == 4 || isZero y) then
      if bit p 22 then (if isZero x then some ⟨none, none, n⟩ else none)
      else some ⟨some { kinds := [0], place := .tile, write := true, n := n, align := 128 }, none, n⟩
    else none
  else if code = 5 then if all0 && bitsAt p 18 46 == 0 && rowsOk p then some ⟨none, none, 0⟩ else none
  else none

/-- A record of e1 (R204 to R208). `xlen`: the length of the object of X. -/
def parseTransfer (code p : Nat) (x _y z : CReg) (xlen : Nat) : Option Rec :=
  let n := bitsAt p 0 41
  let lenOk := bitsAt p 41 23 == 0 && decide (n ≤ 2 ^ 40)
  let toMem (k : List Nat) (w : Bool) (m : Nat) : Role := { kinds := k, place := .localMem, write := w, n := m }
  if code = 0x10 then
    if lenOk && isZero z then some ⟨some (toMem [0, 1, 3, 5] false n), some (toMem [0, 5] true n), n⟩ else none
  else if code = 0x11 then
    if p == 0 && isZero z then
      some ⟨some (toMem [0] false 0), some { kinds := [4], place := .pool, write := false, n := 0 }, xlen⟩
    else none
  else if code = 0x12 then
    if lenOk && isZero x && !z.tag then some ⟨none, some (toMem [0, 5] true n), n⟩ else none
  else if code = 0x13 then
    let m := bitsAt p 0 36
    if bitsAt p 36 28 == 0 && decide (1 ≤ m) && decide (m ≤ 2 ^ 36 - 32) && !z.tag && decide (z.val.toNat < 256) then
      some ⟨some (toMem [5] false (m + 16)), some { toMem [0] true m with start := true }, m⟩
    else none
  else if code = 0x14 then
    if bitsAt p 48 16 == 0 && bitsAt p 41 4 == 0 && decide (n ≤ 2 ^ 40) && isZero z then
      some ⟨some { toMem [0, 1] false n with supv := true }, some { kinds := [0], place := .remote, write := true, n := n }, n⟩
    else none
  else none

/-- The size of an AREDUCE element. -/
def redSize (p : Nat) : Nat := let t := bitsAt p 52 4
  if t = 0 then 4 else if t = 2 then 2 else 8

/-- The members of a group of a partition. -/
def State.membersOf (s : State) (part g : Nat) : List (Nat × Nat) :=
  match lookT (s.partAt part).groups g with
  | some x => x.members
  | none => []

/-- The plan of an open, valid shuffle of a partition. -/
def State.planAt (s : State) (part id : Nat) : Option Plan :=
  match lookT (s.partAt part).shuffles id with
  | some x => if x.invalid then none else some (planOf x.plan)
  | none => none

/-- A record of e2 (R209 to R213). DEDUCED (log 15): a GRP that the core is no member of is a field outside its limits. DESIGN
CHOICE (log 75): a SHUFFLE pushed before its shuffle is open names no bytes of its objects. -/
def parseFabric (s : State) (d : Domain) (dev code p : Nat) (z : CReg) (core : Nat) : Option Rec :=
  let memory (k : List Nat) (w : Bool) (m : Nat) : Role := { kinds := k, place := .localMem, write := w, n := m }
  let n := bitsAt p 0 40
  let ms := s.membersOf d.part (bitsAt p 56 8)
  let member := d.memberOf (bitsAt p 56 8) && ms.contains (dev, core)
  if code = 0x20 then
    let m := n * redSize p
    if member && isZero z && decide (bitsAt p 52 4 ≤ 3) && decide (bitsAt p 50 2 ≤ 2) && decide (bitsAt p 47 3 ≤ 3)
        && bitsAt p 40 7 == 0 then
      some ⟨some (memory [0, 1] false m), some (memory [0] true m), m⟩
    else none
  else if code = 0x21 then
    if member && isZero z && bitsAt p 40 16 == 0 then
      some ⟨some (memory [0, 1] false n), some (memory [0] true (ms.length * n)), ms.length * n⟩
    else none
  else if code = 0x22 then
    let root := z.val.toNat
    if member && !z.tag && decide (root < 2 ^ 23) && decide (root < ms.length) && bitsAt p 40 16 == 0 then
      some ⟨if ms[root]? = some (dev, core) then some (memory [0, 1] false n) else none, some (memory [0] true n), n⟩
    else none
  else if code = 0x23 then
    let id := z.val.toNat
    if p == 0 && !z.tag && decide (id < 65536) then
      match s.planAt d.part id with
      | some q =>
        some ⟨some (memory [0, 1] false (q.outExtent dev)), some (memory [0] true (q.inExtent dev)),
          (q.receives dev).length * q.len⟩
      | none => some ⟨some (memory [0, 1] false 0), some (memory [0] true 0), 0⟩
    else none
  else if code = 0x24 then
    if bitsAt p 40 24 == 0 && isZero z then
      some ⟨some { memory [0, 1] false n with place := .remote }, some (memory [0] true n), n⟩
    else none
  else if code = 0x25 then
    if bitsAt p 40 24 == 0 && isZero z then
      some ⟨some (memory [0, 1] false n), some { memory [0] true n with place := .remote }, n⟩
    else none
  else none

/-- Whether a command may carry BM (R189). -/
def mayMark (code : Nat) : Bool := code = 4 || decide (0x10 ≤ code)

/-- The record of four registers for a port of a domain; none when it is malformed (R189). -/
def State.parse (s : State) (core asid port : Nat) (h x y z : CReg) : Option Rec :=
  let head := h.val.toNat % 2 ^ 64
  let code := head % 256
  let p := paramOf h
  let d := s.domAt core asid
  if bitsAt head 8 39 ≠ 0 ∨ (bit head 47 ∧ !mayMark code) then none
  else if port = 0 then parseMatrix code p x y z
  else if port = 1 then parseTransfer code p x y z (s.objAt (objOf x)).length
  else parseFabric s d (s.devOf asid) code p z core

/-! ### The checks of `epush` (R190) -/

/-- Whether an object lies where a role asks. -/
def State.placeOk (s : State) (r : Place) (e : Obj) : Bool :=
  match r with
  | .tile => e.level == 1 && s.homeCore e == s.core
  | .localMem => e.level != 1 && e.level != 5
  | .remote => e.level == 5
  | .pool => e.level != 1 && decide (e.level < 4)

/-- Step 3 of R33 for an operand. -/
def State.rolePerm (s : State) (r : Role) (c : CReg) (moves : Bool) (e : Obj) : Option Nat :=
  if r.kinds.contains (kindOf c) then
    if !s.placeOk r.place e || (moves && (e.pinned || e.level == 4)) then some fCAP_PERM
    else if r.supv && !s.dom.supv then some fPRIV else none
  else if kindOf c = 6 ∧ !s.dom.supv then some fPRIV
  else if kindOf c = 1 ∧ r.write ∧ s.placeOk r.place e then some fSHADE_WRITE
  else some fCAP_PERM

/-- Steps 1 to 7 of R33 on an operand. -/
def roleCheck (r : Option Role) (c : CReg) (reg opnd : Nat) (moves : Bool) : Act Unit := do
  match r with
  | none => pure ()
  | some r =>
    let s ← getS
    if s.confirmed then pure ()
    else
      let e ← headed c (headCheck s c reg opnd (s.rolePerm r c moves))
      let bad := (r.start && cursorOf c != 0) || (match r.exact_ with
        | some n => e.length != n
        | none => false)
      if bad then stopWith (capFault fCAP_BOUNDS 5 opnd reg (cursorOf c))
      let loc ← checked (checkSpan c e 0 r.n r.align opnd reg)
      checked (checkPoison e loc opnd reg)

/-- Commands that a port holds (R190). -/
def portSize (p : Nat) : Nat := if p = 0 then 16 else 8

/-- The commands of a port. -/
def Core.port (k : Core) (p : Nat) : List Cmd := (lookT k.ports p).getD []

/-- The scope of a push: system when an operand is of HOST, fabric when one is remote (R190). -/
def State.pushScope (s : State) (r : Rec) (x y : CReg) : Scope :=
  let level (o : Option Role) (c : CReg) : Nat := if o.isSome then (s.objAt (objOf c)).level else 0
  if level r.x x = 4 ∨ level r.y y = 4 then .system
  else if level r.x x = 5 ∨ level r.y y = 5 then .fabric
  else .device

/-- The command of a push, whose n bytes are in its group's counter when it carries BM (R190). -/
def State.pushed (s : State) (h x y z : CReg) (clk : Carried) (port n : Nat) : State :=
  let t := s.cur
  let seq := (lookT s.dom.pushes port).getD 0
  let k : Cmd :=
    { asid := t.asid, slot := s.slot, seq := seq % 65536, h := h, x := x, y := y, z := z, clk := clk, pc := t.pc, code := t.code,
      done := none, leave := 0, stopped := false, kind := t.kind, born := t.born, since := s.time, sent := false,
      marked := if bit h.val.toNat 47 then n else 0 }
  (s.modCore s.core (fun c => { c with ports := putT c.ports port (c.port port ++ [k]) })).modCurDom
    (fun d => { d with pushes := putT d.pushes port (seq + 1) })

/-- A push waits; the barrier's counter, when the push has just counted its bytes, stays raised (R190). -/
def awaitRaised (counted ok : Bool) (w : Wait) : Act Unit := do
  if ok then pure ()
  else if counted then
    let s ← getS
    let part := s.dom.part
    parkWith (fun s0 => (s0.modPart part (fun p => { p with groups := (s.partAt part).groups })).modCur (fun t => { t with raised := true })) w
  else waitFor w

/-- `epush` (R190). -/
def execEpush (a : CR) (e : EP) (strict : Bool) (s : State) : Out :=
  issue_ 4 (do
    let r (j : Nat) : CR := ⟨(a.val + j) % 32, by omega⟩
    dirs [r 0, r 1, r 2, r 3] []
    let h ← src (r 0)
    let x ← src (r 1)
    let y ← src (r 2)
    let z ← src (r 3)
    let s ← getS
    match s.parse s.core s.cur.asid e.val h x y z with
    | none => illegal
    | some rec =>
      if e.val = 0 ∧ !s.isHolder s.core s.cur.asid ∧ !s.confirmed then stopWith (capFault fCAP_PERM 3 0 0)
      roleCheck rec.x x ((a.val + 1) % 32) 1 (h.val.toNat % 256 == 0x11)
      roleCheck rec.y y ((a.val + 2) % 32) 2 false
      effect [h, x, y, z] 0 (do
        let b := bit h.val.toNat 47 && !s.cur.raised
        if b then addPending (bitsAt h.val.toNat 48 8) rec.bytes
        let sc := s.pushScope rec x y
        if strict && sc == .system && (s.partAt s.dom.part).tenantOnly then fault fSCOPE_CLIP
        awaitRaised b (decide (((s.coreAt s.core).port e.val).length < portSize e.val)) (.port e.val)
        awaitRaised b (!(sc.wide && s.owesRemote s.core s.cur.born)) .remote
        modS (fun s => (s.modCur (fun t => { t with raised := false })).releaseAll s.core s.slot sc)
        let u ← getS
        awaitRaised b (!u.mustRebase u.core u.slot) .rebase
        modS (fun s => s.tickAt s.core s.slot)
        let clk ← myClock
        modS (fun s => s.pushed h x y z clk e.val rec.bytes))) s

/-! ### `epop`, `estat`, `aget` (R193 to R195) -/

/-- Whether a command always queues an element: a LOADB with RING, and a MOVE (R199, R206). -/
def Cmd.always (k : Cmd) : Bool := (k.code_ == 2 && bit k.param 27) || k.code_ == 0x11

/-- Whether an outstanding command of a domain owes an element on a port (R193). -/
def State.elementDue (s : State) (core asid port : Nat) : Bool :=
  ((s.coreAt core).port port).any (fun k => k.asid == asid && (k.re || k.always))

/-- The elements of a domain's port. -/
def Domain.results (d : Domain) (port : Nat) : List Element := (lookT d.elements port).getD []

/-- `epop` (R193). -/
def execEpop (d : CR) (e : EP) (s : State) : Out :=
  issue_ 4 (do
    if d.val = 0 then illegal
    dirs [] [d]
    effectV [] e.val (do
      let s ← getS
      match s.dom.results e.val with
      | x :: xs =>
        acquireMe x.clk
        modS (fun s => s.modCurDom (fun d => { d with elements := putT d.elements e.val xs }))
        return x.val
      | [] =>
        until_ (!s.elementDue s.core s.cur.asid e.val) (.element e.val)
        return CReg.zero) (fun v => dst d v)) s

/-- The word of `estat` (R194). -/
def State.portWord (s : State) (core asid port : Nat) : Nat :=
  let d := s.domAt core asid
  let k := s.coreAt core
  field (((k.port port).filter (fun x => x.asid == asid)).length) 40 8 + field (d.results port).length 32 8
    + field ((lookT d.doneSeq port).getD 0) 16 16
    + (if port = 0 then field (!k.retiredCols.isEmpty).toNat 1 1 + (s.isHolder core asid).toNat else 0)

/-- `estat` (R194). -/
def execEstat (d : CR) (e : EP) (s : State) : Out :=
  issue_ 4 (do
    dirs [] [d]
    dst d (← outside (do
      let s ← getS
      return plain (s.portWord s.core s.cur.asid e.val)))) s

/-- Whether a command targets a bank: an MMA, a DRAIN or a ZERO (R195). -/
def Cmd.targets (k : Cmd) (b : Nat) : Bool :=
  let at_ := if k.code_ = 1 then bitsAt k.param 20 1 else bitsAt k.param 17 1
  (k.code_ == 1 || k.code_ == 4 || k.code_ == 5) && at_ == b

/-- `aget` (R195). -/
def execAget (d a : CR) (bank : Bool) (g : BitVec 4) (s : State) : Out :=
  issue_ 4 (do
    if d.val = 0 then illegal
    dirs [a] [d]
    let x ← src a
    let s ← getS
    if !s.isHolder s.core s.cur.asid ∧ !s.confirmed then stopWith (capFault fCAP_PERM 3 0 0)
    let b := bank.toNat
    dst d (← outside (do
      let s ← getS
      until_ (!((s.coreAt s.core).port 0).any (fun k => k.asid == s.cur.asid && k.targets b)) (.bank b)
      match lookT (s.coreAt s.core).mx.bankClks b with
      | some c => acquireMe c
      | none => pure ()
      return plainQ ((s.coreAt s.core).mx.group b (x.lo % 256) g.toNat)))) s

end Sys2Proof.Machine
end

