-- ==== Sys2Proof/Machine/Engine.lean ====
section
/-! DEFINITION. How an engine runs a command (R191, R192, R203, R407): which command, its accesses and races, its end and its
completion, and the grants that it waits for. -/

namespace Sys2Proof.Machine

/-! ### The command that runs -/

/-- The first command of each domain on a port, in push order (R191). -/
def heads : List Cmd → List Cmd → List Cmd
  | _, [] => []
  | seen, k :: ks => if seen.any (fun x => x.asid == k.asid) then heads seen ks else k :: heads (seen ++ [k]) ks

/-- Whether the engines of a core run (R338, R405, R410). -/
def State.enginesRun (s : State) (core : Nat) : Bool :=
  let k := s.clusterAt (clusterOf core)
  s.booted && !k.halted && k.power == 0 && !(s.coreAt core).outOfService

/-- The commands that a port may execute next with a code: each its domain's first, neither ended nor stopped at a race. -/
def State.ready (s : State) (core port code : Nat) : List Cmd :=
  if s.enginesRun core then
    (heads [] ((s.coreAt core).port port)).filter (fun k => k.code_ == code && k.done.isNone && !k.stopped && !k.sent)
  else []

/-- Change a command of a port. -/
def State.modCmd (s : State) (core port : Nat) (k : Cmd) (f : Cmd → Cmd) : State :=
  let go (x : Cmd) : Cmd := if x.asid == k.asid && x.seq == k.seq then f x else x
  s.modCore core (fun c => { c with ports := putT c.ports port ((c.port port).map go) })

/-- The bytes that a command still has in the counter of its group (R204). -/
def State.markedBy (s : State) (core port : Nat) (k : Cmd) : Nat :=
  (((s.coreAt core).port port).find? (fun x => x.asid == k.asid && x.seq == k.seq)).elim 0 (fun x => x.marked)

/-- The counter of a command's group falls by n of the bytes that the command has in it, and its barrier may complete (R160, R204). -/
def State.unmark (s : State) (core port : Nat) (k : Cmd) (n : Nat) : State :=
  let part := (s.domAt core k.asid).part
  let left := s.markedBy core port k
  let m := min n left
  let drop (p : Partition) : Partition :=
    { p with groups := mapT p.groups k.bgrp (fun g => { g with pending := g.pending - m }) }
  if m = 0 then s
  else ((s.modCmd core port k (fun x => { x with marked := left - m })).modPart part drop).tryBarrier part k.bgrp

/-- Bytes at the destination that a COUNT stands for: TS rows for a DRAIN (R204). -/
def Cmd.written (k : Cmd) (count : Nat) : Nat := if k.code_ = 4 then 128 * count else count

/-- A command ends with a status, COUNT, EVENTS and the element of its own that it has (R192); the bytes that it has written leave
its group's counter, those apart that left it when they were written. -/
def State.ends (s : State) (core port : Nat) (k : Cmd) (status count events : Nat) (el : Option CReg := none) : State :=
  (s.modCmd core port k (fun x => { x with done := some (status, count, events, el) })).unmark core port k (k.written count - k.wrote)

/-- A command ends with a status for what it has done so far (R192). -/
def State.endsNow (s : State) (core port : Nat) (k : Cmd) (status : Nat) : State :=
  s.ends core port k status k.soFar ((s.coreAt core).eventsOf k)

/-- A command has written its first n bytes: those that are new leave its group's counter (R204). -/
def State.wrote (s : State) (core port : Nat) (k : Cmd) (n : Nat) : State :=
  (s.modCmd core port k (fun x => { x with wrote := n })).unmark core port k (n - k.wrote)

def stDONE : Nat := 0
def stNOB : Nat := 1
def stFORMAT : Nat := 2
def stNOTOWN : Nat := 3
def stRINGCTX : Nat := 4
def stNOROOM : Nat := 5
def stXLATE : Nat := 6
def stECC : Nat := 7
def stPOISON : Nat := 8
def stGCM_TAG : Nat := 9
def stREMOTE : Nat := 0x0A
def stMISMATCH : Nat := 0x0B
def stCANCELLED : Nat := 0x0C
def stQUEUE : Nat := 0x0D
def stLINK : Nat := 0x0E

/-! ### Leave (R203, R204, R407) -/

/-- Bytes that a command writes at its destination (R204). -/
def State.bytesOf (s : State) (core port : Nat) (k : Cmd) : Nat :=
  match s.parse core k.asid port k.h k.x k.y k.z with
  | some r => r.bytes
  | none => 0

/-- Grants that a command needs before it runs (R407). -/
def State.leaveNeeded (s : State) (core port : Nat) (k : Cmd) : Nat :=
  if port = 0 then (if k.code_ = 1 ∧ 64 < bitsAt k.param 8 9 then 1 else 0)
  else
    let n := s.bytesOf core port k
    if 65536 < n then (n + 65535) / 65536 else 0

/-- Whether a command has the leave that it needs. -/
def State.hasLeave (s : State) (core port : Nat) (k : Cmd) : Bool := decide (s.leaveNeeded core port k ≤ k.leave)

/-- Whether a command that writes page tables waits for accesses that were translated before it (R241). -/
def State.awaitsRooted (s : State) (k : Cmd) : Bool :=
  k.y.tag && (s.objAt (objOf k.y)).ptab && (s.drainRooted (objOf k.y)).translated (objOf k.y)

/-- Whether the privileged channel that a CKPT names carries no other CKPT of its cluster (R12, R204); true of every other command. -/
def State.channelFree (s : State) (core : Nat) (k : Cmd) : Bool :=
  k.code_ != 0x14 || !s.cores.any (fun p => clusterOf p.1 == clusterOf core && (p.2.port 1).any (fun x =>
    x.code_ == 0x14 && x.done.isNone && (x.sent || decide (0 < x.wrote)) && bitsAt x.param 45 3 == bitsAt k.param 45 3 &&
      !(p.1 == core && x.asid == k.asid && x.seq == k.seq)))

/-- The commands that a port may execute next with a code, once each has its leave and its channel is free. -/
def State.runnables (s : State) (core port code : Nat) : List Cmd :=
  (s.ready core port code).filter (fun k => s.hasLeave core port k && !s.awaitsRooted k && s.channelFree core k)

/-- The first of them. -/
def State.runnable (s : State) (core port code : Nat) : Option Cmd := (s.runnables core port code).head?

/-- Whether no command of a core's die has waited longer for leave: the manager grants in request order (R407). -/
def State.leaveFirst (s : State) (core : Nat) (k : Cmd) : Bool :=
  s.cores.all (fun c => dieOf c.1 != dieOf core || (List.range 3).all (fun p => (heads [] (c.2.port p)).all (fun x =>
    x.done.isSome || s.hasLeave c.1 p x || decide (k.since ≤ x.since))))

/-- LEAVE_GRANT (R407): a command of a port that has waited longest for leave gets one grant. Its wait is counted (R385). -/
def execLeaveGrant (core : Nat) (e : EP) (s : State) : Out :=
  .next (match (heads [] ((s.coreAt core).port e.val)).find? (fun k => k.done.isNone && !s.hasLeave core e.val k && s.leaveFirst core k) with
    | none => s
    | some k =>
      if !s.grantOpen (dieOf core) (decide (0 < k.leave)) then s else
      let waited := s.time - k.since
      let s := if 0 < waited then s.count core k.asid 0x121 waited else s
      let s := if 0 < waited ∧ !k.waited then s.count core k.asid 0x120 1 else s
      (s.modCmd core e.val k (fun x => { x with leave := x.leave + 1, since := s.time, waited := x.waited || decide (0 < waited) })).giveLeave
        (dieOf core) (decide (0 < k.leave)))

/-! ### Accesses -/

/-- The engine identity of a port (R295). -/
def engineOf (port : Nat) : Nat := 16 + port

/-- A command as a party (R313). -/
def State.cmdParty (s : State) (core port : Nat) (k : Cmd) : Party :=
  ⟨core, k.asid, engineOf port, (s.domAt core k.asid).engineClk (engineOf port), true, port, k.seq, k.slot, k.pc, k.code⟩

/-- The flat ranges of n bytes at a location, page by page, up to the first page that is not mapped: (location, address,
length). -/
def State.spansNow (s : State) (asid : Nat) (e : Obj) : Nat → Nat → Nat → List (Nat × Nat × Nat)
  | 0, _, _ => []
  | fuel + 1, loc, n =>
    if n = 0 then []
    else if e.level < 3 then [(loc, s.localAddr e loc, n)]
    else match s.flatOf asid e loc with
      | .ok a =>
        let k := min n (2 ^ 16 - (e.base + loc) % 2 ^ 16)
        (loc, a, k) :: s.spansNow asid e fuel (loc + k) (n - k)
      | .error _ => []

/-- The ranges of n bytes at a location of an object, by its entry. -/
def State.spansIn (s : State) (asid : Nat) (e : Obj) (loc n : Nat) : List (Nat × Nat × Nat) :=
  s.spansNow asid e (n / 2 ^ 16 + 2) loc n

/-- The ranges of n bytes at a location. -/
def State.spansAt (s : State) (asid o loc n : Nat) : List (Nat × Nat × Nat) := s.spansIn asid (s.objAt o) loc n

/-- Whether an access of no bytes can be translated (R258). -/
def State.zeroOk (s : State) (asid o loc : Nat) : Bool :=
  match s.flatNow asid o loc with
  | .ok _ => true
  | .error _ => false

/-- Bytes of ranges. -/
def spanTotal (xs : List (Nat × Nat × Nat)) : Nat := xs.foldl (fun n x => n + x.2.2) 0

/-- Whether n bytes of an object can be translated: for an access of no bytes, its location (R258). -/
def State.mapped (s : State) (asid o loc n : Nat) : Bool :=
  if n = 0 then s.zeroOk asid o loc else decide (n ≤ spanTotal (s.spansAt asid o loc n))

/-- The bytes that ranges hold at their levels. -/
def State.engineBytes (s : State) (xs : List (Nat × Nat × Nat)) : List Byte :=
  xs.flatMap (fun x => Memory.read s.mem x.2.1 x.2.2)

/-- One range is written by an engine: the level, the L1 of the engine's core, and the record; an HBM line that the owner core's L1 holds
loses its attribution there (R305). A write to HOST leaves as posted
writes, and one into a PTAB object removes its translations first, the accesses that were translated before being performed (R241). -/
def State.engineWrite1 (s : State) (p : Party) (o : Nat) (x : Nat × Nat × Nat) (bs : List Byte) : State :=
  let e := s.objAt o
  let s := if e.ptab then (s.finishRooted o).purgeTlbs o else s
  if hostBase ≤ x.2.1 then
    { s.writeLevel x.2.1 bs with out := s.out ++ [.hostWrite (x.2.1 - hostBase) (bs.map some)] }
  else
    let s := (s.writeLevel x.2.1 bs).syncLines p.core x.2.1 x.2.2
    (if e.level = 3 ∧ e.ownCore ≠ p.core then s.unattribute e.ownCore x.2.1 x.2.2 else s).recordWrite p o x.1 x.2.1 x.2.2 (clkAt p.clk p.ident)

/-- Write bytes into ranges. -/
def State.engineWrite (s : State) (p : Party) (o : Nat) (xs : List (Nat × Nat × Nat)) (bs : List Byte) : State :=
  (xs.foldl (fun (acc : State × List Byte) x => (acc.1.engineWrite1 p o x (acc.2.take x.2.2), acc.2.drop x.2.2)) (s, bs)).1

/-- The races of an access to ranges, through an OWN (R131, R191). -/
def State.spanRaces (s : State) (p : Party) (own : Bool) (o : Nat) (write : Bool) (xs : List (Nat × Nat × Nat)) : List (List Word) :=
  if own then xs.flatMap (fun x => s.racesIn p o x.1 x.2.1 x.2.2 write) else []

/-- Whether the strand that pushed a command is in its slot. -/
def State.pusherHere (s : State) (core : Nat) (k : Cmd) : Bool :=
  let t := s.slotAt core k.slot
  t.born == k.born && t.state != .vacant && t.state != .swap

/-- The saved context of the strand that pushed a command. -/
def State.pusherSaved (s : State) (core : Nat) (k : Cmd) : Option Saved :=
  (s.coreAt core).tcc.find? (fun v => v.images.any (fun t => t.born == k.born && k.born != 0))

/-- The packet of a racing command whose strand has ended: PC 0 and the slot that it had (R316). -/
def State.endedRace (s : State) (core port : Nat) (k : Cmd) (r : List Word) : State :=
  let f : FaultInfo := { code := fRACE, engine := some (port, k.seq), record := r }
  let part := (s.domAt core k.asid).part
  s.sendPacket part part core
    [packetHead false false true true part core k.asid k.kind 0 k.slot fRACE, 0, 0, .ofNat 64 f.detail, .ofNat 64 s.time, 0, 0, 0] r

/-- PAIRINFO of a saved pair (R320). -/
def savedPair (v : Saved) : Nat :=
  match v.images.find? (fun t => t.pair == 1), v.images.find? (fun t => t.pair == 2) with
  | some l, some t => pairInfoOf l t
  | _, _ => 0

/-- A saved strand whose command races is frozen as it lies: it stands at a boundary (R290, R316). -/
def State.savedRace (s : State) (core port : Nat) (k : Cmd) (v : Saved) (r : List Word) : State :=
  let t := (v.images.find? (fun t => t.born == k.born)).getD Slot.vacant
  let f : FaultInfo := { code := fRACE, engine := some (port, k.seq), record := r }
  let part := (s.domAt core k.asid).part
  let freeze (t : Slot) : Slot := { t with state := .frozen, lastCode := fRACE }
  let s' := v.images.foldl (fun (s : State) t => if t.state = .frozen then s else s.traceSaved core t fRACE)
    (s.modCore core (fun c => c.setSaved { v with images := v.images.map freeze }))
  s'.sendPacket part (s.packetTarget core t) core
    [packetHead false t.frame.isSome false true part core k.asid t.kind (if t.pair = 0 then 0 else 1) k.slot fRACE,
     .ofNat 64 (field t.pc 0 48), 0, .ofNat 64 f.detail, .ofNat 64 s.time, 0, .ofNat 64 (savedPair v), 0] r

/-- A strand is to freeze with the race of its command at its next boundary (R316): at once, unless it has an access outstanding. -/
def State.raceStop (s : State) (c i : Nat) (r : RaceStop) : State :=
  let t := s.slotAt c i
  let s := s.modSlot c i (fun t => { t with pend := { t.pend with race := some r } })
  if t.state.outstanding ∨ t.state = .frozen then s else (s.withdraw c i).boundary c i

/-- The strand that pushed a racing command freezes, or, when it has ended, a packet says so (R316). -/
def State.tellRace (s : State) (core port : Nat) (k : Cmd) (r : List Word) : State :=
  if s.pusherHere core k then s.raceStop core k.slot ⟨fRACE, port, k.seq, 0, r⟩
  else match s.pusherSaved core k with
    | some v => s.savedRace core port k v r
    | none => s.endedRace core port k r

/-- The races of an access by a command (R191, R316): counted and reported, or, in precise mode, the command stops before it and its
strand freezes at its next boundary. False: the access may be made. A strand that is frozen already learns of the race when it
resumes. -/
def State.engineRace (s : State) (core port : Nat) (k : Cmd) (races : List (List Word)) : State × Bool :=
  let precise := (s.domAt core k.asid).mode == 1
  match s.judge (s.cmdParty core port k) (if precise then races.take 1 else races) with
  | (s', none) => (s', false)
  | (s', some r) =>
    let stop (s : State) : State := s.modCmd core port k (fun x => { x with stopped := true })
    let t := s.slotAt core k.slot
    if s.pusherHere core k && t.state == .frozen then (stop s, true)
    else if s.pusherHere core k && t.pend.race.isSome then (s, true)
    else ((stop s').tellRace core port k r, true)

/-- The races of an access to ranges, in order, with the number of bytes before each; the first `skip` bytes have been accessed. -/
def State.reachRaces (s : State) (p : Party) (o : Nat) (write : Bool) (skip : Nat) : Nat → List (Nat × Nat × Nat) → List (Nat × List Word)
  | _, [] => []
  | n, x :: xs =>
    (linesOf x.1 x.2.1 x.2.2).filterMap (fun l =>
      let before := n + (l.1 - x.1)
      if before < skip then none else (s.raceAt p o l.1 l.2 write).map (fun r => (before, r)))
      ++ s.reachRaces p o write skip (n + x.2.2) xs

/-- A command accesses ranges line by line (R304): the state when the lines that it reaches have been checked, and the bytes that it may
access. In precise mode it stops before the first line that races (R316). -/
def State.reach (s : State) (core port : Nat) (k : Cmd) (own : Bool) (o : Nat) (write : Bool) (skip : Nat) (xs : List (Nat × Nat × Nat)) :
    State × Nat :=
  let rs := if own then s.reachRaces (s.cmdParty core port k) o write skip 0 xs else []
  match s.engineRace core port k (rs.map (fun r => r.2)), rs with
  | (s', true), r :: _ => (s', r.1)
  | (s', _), _ => (s', spanTotal xs)

/-- The first n bytes of ranges. -/
def takeSpans : List (Nat × Nat × Nat) → Nat → List (Nat × Nat × Nat)
  | [], _ => []
  | x :: xs, n => if n = 0 then [] else if n ≤ x.2.2 then [(x.1, x.2.1, n)] else x :: takeSpans xs (n - x.2.2)

/-- Ranges without their first n bytes. -/
def dropSpans : List (Nat × Nat × Nat) → Nat → List (Nat × Nat × Nat)
  | [], _ => []
  | x :: xs, n => if x.2.2 ≤ n then dropSpans xs (n - x.2.2) else (x.1 + n, x.2.1 + n, x.2.2 - n) :: xs

/-- A command writes bytes to ranges from where it stands (R204, R304): the state, and whether it has come to the end. -/
def State.writeOn (s : State) (core port : Nat) (k : Cmd) (o : Nat) (xs : List (Nat × Nat × Nat)) (bs : List Byte) : State × Bool :=
  let (s, n) := s.reach core port k true o true k.wrote xs
  let s := s.engineWrite (s.cmdParty core port k) o (dropSpans (takeSpans xs n) k.wrote) (bs.drop k.wrote)
  if n < spanTotal xs then (s.wrote core port k n, false) else (s, true)

/-- Whether an operand of a command lies in HOST. -/
def State.onHost (s : State) (k : Cmd) : Bool := [k.x, k.y].any (fun c => c.tag && (s.objAt (objOf c)).level == 4)

/-- At its start an engine acquires the command's clock (R299); the accesses of e1 and e2 to HOST follow the lines of the host write buffer
(R255). -/
def State.engineStart (s : State) (core port : Nat) (k : Cmd) : State :=
  (if port ≠ 0 ∧ s.onHost k then s.hostClear else s).engineAcquire core k.asid (engineOf port) k.clk

/-- Whether an operand has been poisoned since it was checked (R192). -/
def State.spoiled (s : State) (c : CReg) : Bool := c.tag && kindOf c != 7 && (s.objAt (objOf c)).poisoned

/-- Whether the object that a capability of a command names is still at its generation (R225). -/
def State.current (s : State) (c : CReg) : Bool := genCurrent (s.objAt (objOf c)) (genOf c)

/-- Whether an operand of a command has been bumped by another command since the push (R191, R225). -/
def State.stale (s : State) (k : Cmd) : Bool := [k.x, k.y, k.z].any (fun c => c.tag && !s.current c)

/-- Run the command that a port runs next: what comes of one whose operand another command has bumped since the push (R225), or its start
and what it does. -/
def runCmdOr (core port code : Nat) (s : State) (stale go : Cmd → State → State) : Out :=
  .next (match s.runnable core port code with
    | none => s
    | some k => if s.stale k then stale k s else go k (s.engineStart core port k))

/-- Run a command. DESIGN CHOICE (log 26): one whose operand is stale ends CANCELLED (R225). -/
def runCmd (core port code : Nat) (s : State) (go : Cmd → State → State) : Out :=
  runCmdOr core port code s (fun k s => s.endsNow core port k stCANCELLED) go

/-! ### Completion (R191 to R193) -/

/-- The result element of a command that has ended (R192). -/
def resultOf (k : Cmd) (status count events : Nat) : CReg :=
  plainQ (field count 64 64 + field k.tag 58 6 + field k.code_ 50 8 + field events 32 8 + field k.seq 16 16 + status)

/-- Rows of a queue that a command frees or produces at its completion (R197, R201). -/
def State.settleQueues (s : State) (core : Nat) (k : Cmd) (status count : Nat) (x : Carried) : State :=
  let p := k.param
  let rows := bitsAt p 8 9
  let fmt := bitsAt p 28 4
  let free (s : State) (q n : Nat) : State := match s.queueAt core q with
    | some y => s.setQueue core q (y.release n)
    | none => s
  if status ≠ 0 then s
  else if k.code_ = 1 ∧ bit p 21 then
    let s := free s (bitsAt p 25 3) rows
    let c := pairClass fmt
    if c = 3 then free s (bitsAt p 22 3) ((rows + 31) / 32) else if c = 4 then free s (bitsAt p 22 3) ((rows + 15) / 16) else s
  else if k.code_ = 4 ∧ bit p 22 then
    match s.queueAt core (bitsAt p 19 3) with
    | some y => s.setQueue core (bitsAt p 19 3) (y.produce count x)
    | none => s
  else s

/-- The domain's TAGS bit of a command, with the clock of its completion: a tag that is set again keeps both (R299). -/
def State.setTagBit (s : State) (core asid tag : Nat) (x : Carried) : State :=
  let epoch := (s.domAt core asid).epoch
  (s.hardSet core asid tag).modDom core asid (fun d =>
    { d with
      tags := d.tags ||| .ofNat 64 (2 ^ tag)
      tagClks := putT d.tagClks tag (match lookT d.tagClks tag with
        | some y => joinCarried epoch y x
        | none => x) })

/-- The object of a MOVE or DECRYPT leaves transit when its command completes (R229). -/
def State.leaveTransit (s : State) (k : Cmd) (status : Nat) (el : Option CReg) : State :=
  let land (o : Nat) : State := s.modObj o (fun e => { e with transit := false })
  if status ≠ stDONE then s
  else if k.code_ = 0x11 then land (objOf (el.getD CReg.zero))
  else if k.code_ = 0x13 then land (objOf k.y)
  else s

/-- COMMAND_COMPLETION's work on a command that has ended. None: its element finds its queue full, and waits (R193), or its tick waits for
a sweep pass (R307). -/
def State.complete (s : State) (core port : Nat) (k : Cmd) : Option State :=
  match k.done with
  | none => none
  | some (status, count, events, el) =>
    let d := s.domAt core k.asid
    let claim := el.isSome
    let queues := k.re || claim || k.always
    if queues ∧ 16 ≤ (d.results port).length then none
    else if s.engineWaits core k.asid (engineOf port) then none
    else
      let s := s.tickEngine core k.asid (engineOf port)
      let x := s.engineCarry core k.asid (engineOf port)
      let s := (s.settleQueues core k status count x).leaveTransit k status el
      let s := if k.te then s.setTagBit core k.asid k.tag x else s
      let val := el.getD (resultOf k status count events)
      let s := if queues then
          s.modDom core k.asid (fun d => { d with elements := putT d.elements port (d.results port ++ [⟨val, x⟩]) })
        else s
      let s := if port = 0 ∧ k.targets 0 then s.modCore core (fun c => { c with mx := { c.mx with bankClks := putT c.mx.bankClks 0 x } })
        else if port = 0 ∧ k.targets 1 then s.modCore core (fun c => { c with mx := { c.mx with bankClks := putT c.mx.bankClks 1 x } })
        else s
      let s := s.modDom core k.asid (fun d => { d with doneSeq := putT d.doneSeq port k.seq })
      let s := s.unmark core port k (s.markedBy core port k)
      let s := s.trace 2 d.part core k.slot k.asid 0 ((resultOf k status count events).val.toNat % 2 ^ 64)
      let s := s.modDie (dieOf core) (fun y => { y with granted := y.granted - min 1 k.leave })
      let rest := ((s.coreAt core).port port).filter (fun y => !(y.asid == k.asid && y.seq == k.seq))
      let restart : List Cmd → List Cmd := fun ys =>
        match ys.find? (fun y => y.asid == k.asid) with
        | some z => ys.map (fun y => if y.asid == k.asid && y.seq == z.seq then { y with since := s.time } else y)
        | none => ys
      some (s.modCore core (fun c => { c with ports := putT c.ports port (restart rest) }))

/-- COMMAND_COMPLETION (R191): the first ended command of a domain on the port. -/
def execCommandCompletion (core : Nat) (e : EP) (s : State) : Out :=
  .next (((heads [] ((s.coreAt core).port e.val)).findSome? (fun k => s.complete core e.val k)).getD s)

/-- Whether a command waits for another device: its request is out, or it is a collective of a group with a member elsewhere. A CKPT waits
without limit (R208), and a SHUFFLE has bounds of its own (R363). -/
def State.waitsRemote (s : State) (core : Nat) (k : Cmd) : Bool :=
  let ms := s.membersOf (s.domAt core k.asid).part (bitsAt k.param 56 8)
  k.code_ != 0x14 && k.code_ != 0x23 && (k.sent || (decide (0x20 ≤ k.code_) && decide (k.code_ ≤ 0x22) && k.got.isEmpty && ms.any (fun m => m.1 != s.devOf k.asid)))

/-- COMMAND_REMOTE_TIMEOUT (R192): a command that waits for another device gets no reply within 100 µs and ends with REMOTE, which
is counted. -/
def execCommandRemoteTimeout (core : Nat) (e : EP) (s : State) : Out :=
  .next (match (heads [] ((s.coreAt core).port e.val)).find? (fun k =>
      k.done.isNone && !k.stopped && s.waitsRemote core k && decide (k.since + 100000 ≤ s.time)) with
    | some k => (s.endsNow core e.val k stREMOTE).count core k.asid 0x0C5 1
    | none => s)

end Sys2Proof.Machine
end

