-- ==== Sys2Proof/Machine/Matrix.lean ====
section
/-! DEFINITION. The matrix commands of e0 (R196 to R202, R98, R99, R334). -/

namespace Sys2Proof.Machine

/-! ### Elements (R83, R86, R196) -/

/-- A two's complement element with six fraction bits (R85). -/
def mxInt (x : Nat) : FVal := let v := sintN x 8
  .num (decide (v < 0)) v.natAbs (-6)

/-- The value of an element's pattern in a matrix format. -/
def mxValue (fmt x : Nat) : FVal :=
  if fmt = 0 then fmtBF16.unpack x
  else if fmt = 1 ∨ fmt = 3 then fmtE4M3.unpack x
  else if fmt = 2 ∨ fmt = 4 then fmtE5M2.unpack x
  else if fmt = 5 then fmtE3M2.unpack (x % 64)
  else if fmt = 6 then fmtE2M3.unpack (x % 64)
  else if fmt = 7 then fmtE2M1.unpack x
  else mxInt x

/-- Element i of a sequence of bytes in a format. -/
def mxAt (fmt : Nat) (bs : List Byte) (i : Nat) : FVal :=
  if fmt = 0 then mxValue fmt (leNat ((bs.drop (2 * i)).take 2))
  else if fmt = 7 then mxValue fmt ((bs.getD (i / 2) 0).toNat / 16 ^ (i % 2) % 16)
  else mxValue fmt (bs.getD i 0).toNat

/-- Slice depth (R196). -/
def depthOf (fmt : Nat) : Nat := if fmt = 0 then 64 else if fmt = 7 then 256 else 128

/-- The terms of a pass for one column (R98): `a` and `b` the elements of the row and the column, `xa` and `xb` the scales of their
blocks. -/
def passTerms (mx : Bool) (a b : List FVal) (xa xb : List Nat) : List FVal :=
  let ps := (a.zip b).map (fun x => mulVal x.1 x.2)
  if mx then
    (List.range (ps.length / 32)).map (fun k =>
      let x := xa.getD k 0
      let y := xb.getD k 0
      if x = 255 ∨ y = 255 then .nan false true 0
      else blockTerm ((ps.drop (32 * k)).take 32) ((x : Int) - 127 + ((y : Int) - 127)))
  else ps

/-- Column j of a tile (R196). -/
def latchCol (l : Latch) (j : Nat) : List FVal := (List.range (depthOf l.fmt)).map (fun k => mxAt l.fmt l.bytes (64 * k + j))

/-- The scales of column j of a tile (R196). -/
def latchScales (l : Latch) (j : Nat) : List Nat :=
  (List.range (depthOf l.fmt / 32)).map (fun b => (l.bytes.getD (8192 + 64 * b + j) 0).toNat)

/-- The scales of A row i among the scale rows (R196). -/
def rowScales (cls : Nat) (sc : List Byte) (i : Nat) : List Nat :=
  if cls = 3 then (List.range 4).map (fun b => (sc.getD (128 * (i / 32) + i % 32 * 4 + b) 0).toNat)
  else (List.range 8).map (fun b => (sc.getD (128 * (i / 16) + i % 16 * 8 + b) 0).toNat)

/-! ### Accumulators -/

/-- An accumulator element. -/
def MatrixState.accAt (m : MatrixState) (bank row col : Nat) : Nat := ((lookT m.acc (accKey bank row col)).getD 0).toNat

/-- Set an accumulator element; +0 is what an unlisted one reads as. -/
def MatrixState.setAcc (m : MatrixState) (bank row col x : Nat) : MatrixState :=
  let k := accKey bank row col
  { m with acc := if x % 2 ^ 32 = 0 then dropT m.acc k else putT m.acc k (.ofNat 32 x) }

/-- Rows of a bank become +0. -/
def MatrixState.clearRows (m : MatrixState) (bank row n : Nat) : MatrixState :=
  { m with acc := m.acc.filter (fun p => decide (p.1 < accKey bank row 0) || decide (accKey bank (row + n) 0 ≤ p.1)) }

/-! ### MMA (R197, R198, R334) -/

/-- What the passes of an MMA change: the accumulators, the passes run, the retired columns, EVENTS, reruns and retirements, and the
passcount at which a column was retired. -/
structure Passes where
  mx : MatrixState
  count : Nat
  retired : List Nat
  events : Nat
  reruns : Nat
  retires : Nat
  failedAt : Nat

/-- A NaN or an infinity among the values of a row (R197). -/
def rowEvents (vs : List Nat) : Nat :=
  let nan (x : Nat) : Bool := decide (fmtF32.inf < x % 2 ^ 31)
  let inf (x : Nat) : Bool := x % 2 ^ 31 == fmtF32.inf
  (if vs.any nan then 1 else 0) + (if vs.any inf then 2 else 0)

/-- One pass: the new values of a row, with the soft errors that strike it, and the checker's column, which they may strike as column 64
(R198). A rerun is of the whole pass: an error that persists strikes it too, in a column that is not compared as well. The checker's value
that stands is the right one (R216). DEDUCED (log 76): that value comes of the rerun that agreed, not of the soft error. -/
def onePass (bank row i : Nat) (us : List Upset) (right : List Nat) (x : Passes) : Passes :=
  let c := x.count % 64
  let hit (j : Nat) : Option Upset := us.find? (fun u => u.row == i && u.col == j)
  let first (j v : Nat) : Nat := ((hit j).map (fun u => u.first.toNat)).getD v
  let again (j v : Nat) : Nat := (((hit j).bind (fun u => u.again)).map (fun u => u.toNat)).getD v
  let vals1 := (List.range 64).map (fun j => first j (right.getD j 0))
  let vals2 := (List.range 64).map (fun j => again j (right.getD j 0))
  let check1 := first 64 (right.getD c 0)
  let check2 := again 64 (right.getD c 0)
  let differs := x.retired.isEmpty && vals1.getD c 0 != check1
  let fails := differs && vals2.getD c 0 != check2
  let vals := if fails then vals2.set c (right.getD c 0) else if differs then vals2
    else x.retired.foldl (fun v c => v.set c (right.getD c 0)) vals1
  let m := (List.range 64).foldl (fun (m : MatrixState) j => m.setAcc bank row j (vals.getD j 0)) x.mx
  let ev := x.events ||| rowEvents vals ||| (if differs && !fails then 4 else 0) ||| (if fails then 8 else 0)
  { mx := m, count := x.count + 1, retired := if fails then [c] else x.retired, events := ev,
    reruns := x.reruns + (if differs && !fails then 1 else 0), retires := x.retires + (if fails then 1 else 0),
    failedAt := if fails then x.count else x.failedAt }

/-- The passes of an MMA over some of its rows (R197). -/
def passes (bank arow : Nat) (rows : List Nat) (fmt : Nat) (l : Latch) (a sc : List Byte) (us : List Upset) (x : Passes) : Passes :=
  let cls := pairClass fmt
  let mx := decide (3 ≤ cls)
  let cols := (List.range 64).map (fun j => (latchCol l j, latchScales l j))
  rows.foldl (fun (x : Passes) i =>
    let row := (List.range (depthOf fmt)).map (fun k => mxAt fmt (a.drop (128 * i)) k)
    let xa := rowScales cls sc i
    let right := ((List.range 64).zip cols).map (fun p =>
      accAdd (x.mx.accAt bank (arow + i) p.1) (passSum 44 (passTerms mx row p.2.1 xa p.2.2)))
    onePass bank (arow + i) i us right x) x

/-- A queue that a matrix command may use: defined and not revoked (R185, R192). -/
def State.liveQueue (s : State) (core q : Nat) : Option Queue :=
  (s.queueAt core q).filter (fun x => genCurrent (s.objAt (objOf x.cap)) (genOf x.cap))

/-- Rows of a queue from a count, as ranges of its object. -/
def State.rowSpans (s : State) (q : Queue) (c n : Nat) : List (Nat × Nat × Nat) :=
  let e := s.objAt (objOf q.cap)
  (List.range n).map (fun j => (q.row (c + j), s.localAddr e (q.row (c + j)), 128))

/-- A column has been retired at a passcount: the supervisor is told, once (R322, R334). -/
def State.matrixCheck (s : State) (core : Nat) (k : Cmd) (at_ : Nat) : State :=
  s.informPacket (s.domAt core k.asid).part core k.asid k.kind k.slot
    { code := fMATRIX_CHECK, arg := 64 + at_ % 64, addr := at_ % 2 ^ 48, engine := some (0, k.seq) }

/-- The races of an MMA's reads with the row at which each is reached, in order (R304): of each row of A and, with the first row that uses
it, of each scale row. -/
def State.rowRaces (s : State) (core : Nat) (k : Cmd) (perScale : Nat) (x y : Queue) (as_ ss : List (Nat × Nat × Nat)) :
    List (Nat × List Word) :=
  let p := s.cmdParty core 0 k
  let ra := (s.reachRaces p (objOf x.cap) false 0 0 as_).map (fun r => (r.1 / 128, r.2))
  let rs := (s.reachRaces p (objOf y.cap) false 0 0 ss).map (fun r => (r.1 / 128 * perScale, r.2))
  ((List.range as_.length).drop k.wrote).flatMap (fun i => (ra ++ rs).filter (fun r => r.1 == i))

/-- MMA on its queues. It stops before the pass whose row races, the passes before it having been made (R191, R316). -/
def State.mmaRun (s : State) (core : Nat) (k : Cmd) (us : List Upset) (x y : Queue) (sr : Nat) : State :=
  let p := k.param
  let fmt := bitsAt p 28 4
  let rows := bitsAt p 8 9
  let q := bitsAt p 25 3
  let sq := bitsAt p 22 3
  let s := (x.nextClks rows ++ (if sr = 0 then [] else y.nextClks sr)).foldl
    (fun s c => s.engineAcquire core k.asid (engineOf 0) c) s
  match (s.coreAt core).mx.latch with
  | none => s.endsNow core 0 k stNOB
  | some l =>
    if pairClass fmt ≠ pairClass l.fmt then s.endsNow core 0 k stFORMAT
    else
      let as_ := s.rowSpans x x.read rows
      let ss := s.rowSpans y y.read sr
      if s.spoiled x.cap ∨ (sr ≠ 0 ∧ s.spoiled y.cap) then s.endsNow core 0 k stPOISON
      else
        let races := s.rowRaces core k (if pairClass fmt = 3 then 32 else 16) x y as_ ss
        let (s, stop) := s.engineRace core 0 k (races.map (fun r => r.2))
        let m := if stop then (races.head?.map (fun r => r.1)).getD rows else rows
        let c := s.coreAt core
        let r := passes (bitsAt p 20 1) (bitsAt p 0 8) ((List.range m).drop k.wrote) fmt l (s.engineBytes as_) (s.engineBytes ss) us
          ⟨c.mx, c.passes, c.retiredCols, c.eventsOf k, 0, 0, 0⟩
        let s := s.modCore core (fun c => { c with mx := r.mx, passes := r.count % 2 ^ 64, retiredCols := r.retired })
        let s := if r.retires = 0 then s
          else { s with flash := { s.flash with retmap := putT s.flash.retmap core (2 ^ (r.retired.headD 0)) } }
        let s := (s.count core k.asid 0x0A0 (m - k.wrote)).count core k.asid 0x0A1 r.reruns
        let s := if r.retires = 0 then s else (s.count core k.asid 0x0A2 r.retires).matrixCheck core k r.failedAt
        if m < rows then s.modCmd core 0 k (fun c => { c with wrote := m, events := r.events })
        else
          let s := s.setQueue core q (x.consume rows)
          let s := if sr = 0 then s else match s.queueAt core sq with
            | some y => s.setQueue core sq (y.consume sr)
            | none => s
          s.ends core 0 k stDONE rows r.events

/-- MMA (R197, R198). -/
def execMma (core : Nat) (upsets : List Upset) (s : State) : Out :=
  runCmd core 0 1 s (fun k s =>
    let p := k.param
    let rows := bitsAt p 8 9
    let c := pairClass (bitsAt p 28 4)
    let sr := if c = 3 then (rows + 31) / 32 else if c = 4 then (rows + 15) / 16 else 0
    match s.liveQueue core (bitsAt p 25 3), s.liveQueue core (if sr = 0 then bitsAt p 25 3 else bitsAt p 22 3) with
    | some x, some y => if x.filled < rows ∨ (sr ≠ 0 ∧ y.filled < sr) then s else s.mmaRun core k upsets x y sr
    | _, _ => s.endsNow core 0 k stQUEUE)

/-! ### LOADB and the ring (R199, R200) -/

/-- A latch loaded from rows of an object. -/
def State.latchOf (s : State) (fmt o : Nat) (own : Bool) (rbits a n : Nat) : Latch :=
  { fmt := fmt, bytes := Memory.read s.mem a n, tags := (List.range (n / 16)).map (fun i => s.tagAt (a + 16 * i)), obj := o,
    gen := (s.objAt o).gen, own := own, rbits := rbits }

/-- The snake position of a core in its cluster (R200): the core number is 6 × row + column. -/
def snakePos (k : Nat) : Nat := let r := k / 6
  if r % 2 = 0 then k else 6 * r + 5 - k % 6

/-- The core number at a snake position. -/
def snakeAt (p : Nat) : Nat := let r := p / 6
  if r % 2 = 0 then p else 6 * r + 5 - p % 6

/-- The ring successor of a core (R200). -/
def ringNext (core : Nat) : Nat := core / 32 * 32 + snakeAt ((snakePos (core % 32) + 1) % 24)

/-- The tile in the ring input is claimed (R199): the travelling object takes the landing object's space, whose entry is freed, and
leaves transit at a new generation, owned by the domain; its OWN keeps the restriction bits that it was latched with (R31). DESIGN CHOICE
(log 26): a claim that no entry is free for at GEN 0xFFFF has no effect and ends CANCELLED (R227). DESIGN CHOICE (log 74): the tile takes the
landing object's length and the claim's format, whatever its own were. -/
def State.claimTile (s : State) (core : Nat) (k : Cmd) (r : RingTile) : State :=
  let l := objOf k.x
  let land := s.objAt l
  let fmt := bitsAt k.param 28 4
  let o := r.latch.obj
  let e := s.objAt o
  match s.bump l with
  | none => s.ends core 0 k stCANCELLED 0 0
  | some (s1, ln) => match s1.bump o with
    | none => s.ends core 0 k stCANCELLED 0 0
    | some (s, n) =>
      let s := s.giveBack e
      let s := s.writeEntry n { s.objAt n with base := land.base, key := land.key, poolId := land.poolId, level := land.level, length := land.length }
      let s := s.writeEntry ln { Obj.free with gen := (s.objAt ln).gen, ownCtx := land.ownCtx }
      let s := (s.setOwner n (s.devOf k.asid) core k.asid).modObj n (fun e => { e with transit := false })
      let a := s.localAddr (s.objAt n) 0
      let s := ({ s with mem := Memory.write s.mem a r.latch.bytes }).clearTags a r.latch.bytes.length
      let s := ((List.range r.latch.tags.length).zip r.latch.tags).foldl (fun (s : State) p => s.setTag (a + 16 * p.1) p.2) s
      let s := s.inheritLines a r.latch.bytes.length (s.epochOf n)
      let t : Latch := { r.latch with fmt := fmt, obj := n, gen := (s.objAt n).gen, own := true }
      let s := s.modCore core (fun c => { c with ring := none, mx := { c.mx with latch := some t } })
      s.ends core 0 k stDONE (tileRows fmt) 0 (some (s.ownCap n r.latch.rbits 0))

/-- A LOADB from the ring input: it waits for a tile, and for checked loads of the two objects that it bumps (R226). -/
def State.ringLoad (s : State) (core : Nat) (k : Cmd) : State :=
  match (s.coreAt core).ring with
  | none => s
  | some r =>
    if r.asid ≠ k.asid then s.ends core 0 k stRINGCTX 0 0
    else if s.spoiled k.x then s.ends core 0 k stPOISON 0 0
    else if s.loading (objOf k.x) ∨ s.loading r.latch.obj then s
    else
      let races := s.spanRaces (s.cmdParty core 0 k) true (objOf k.x) true
        (s.spansAt k.asid (objOf k.x) 0 (128 * tileRows (bitsAt k.param 28 4)))
      match s.engineRace core 0 k races with
      | (s, true) => s
      | (s, false) => s.claimTile core k r

/-- LOADB (R199). -/
def execLoadb (core : Nat) (s : State) : Out :=
  runCmd core 0 2 s (fun k s =>
    if bit k.param 27 then s.ringLoad core k
    else
      let fmt := bitsAt k.param 28 4
      let n := 128 * tileRows fmt
      let xs := s.spansAt k.asid (objOf k.x) (cursorOf k.x) n
      if s.spoiled k.x then s.ends core 0 k stPOISON 0 0
      else match s.engineRace core 0 k (s.spanRaces (s.cmdParty core 0 k) (isOwn k.x) (objOf k.x) false xs) with
        | (s, true) => s
        | (s, false) =>
          let l := s.latchOf fmt (objOf k.x) (isOwn k.x) (rbitsOf k.x) (s.localAddr (s.objAt (objOf k.x)) (cursorOf k.x)) n
          (s.modCore core (fun c => { c with mx := { c.mx with latch := some l } })).ends core 0 k stDONE (tileRows fmt) 0)

/-- RING_CLAIM (R199). -/
def execRingClaim (core : Nat) (s : State) : Out :=
  runCmd core 0 2 s (fun k s => if bit k.param 27 then s.ringLoad core k else s)

/-- PASSB (R200): the tile waits for room in the successor's ring input. A tile that was latched from a NOSEND capability does not leave
the domain (R31): NOTOWN (DEDUCED, log 65). DESIGN CHOICE (log 26): one that no entry is free for at GEN
0xFFFF has no effect and ends CANCELLED (R227). -/
def execPassb (core : Nat) (s : State) : Out :=
  runCmd core 0 3 s (fun k s =>
    match (s.coreAt core).mx.latch with
    | none => s.ends core 0 k stNOB 0 0
    | some l =>
      let e := s.objAt l.obj
      if !l.own ∨ bit l.rbits 2 ∨ !genCurrent e l.gen ∨ e.ownCore ≠ core ∨ e.ownCtx ≠ k.asid ∨ e.transit then s.ends core 0 k stNOTOWN 0 0
      else if s.loading l.obj ∨ (s.coreAt (ringNext core)).ring.isSome then s
      else
        match ((s.drainObj l.obj).writeBackObj core l.obj).bump l.obj with
        | none => s.ends core 0 k stCANCELLED 0 0
        | some (s, n) =>
          let s := s.writeEntry n { s.objAt n with transit := true }
          let t : RingTile := { latch := { l with obj := n, gen := (s.objAt n).gen }, asid := k.asid }
          let s := s.modCore core (fun c => { c with mx := { c.mx with latch := none } })
          (s.modCore (ringNext core) (fun c => { c with ring := some t })).ends core 0 k stDONE (tileRows l.fmt) 0)

/-! ### DRAIN, ZERO, MARK (R201, R202) -/

/-- The format of a DRAIN. -/
def drainFmt (d : Nat) : FFmt :=
  if d = 0 then fmtF32 else if d = 1 then fmtBF16 else if d = 2 then fmtF16 else if d = 3 then fmtE4M3 else fmtE5M2

/-- EVENTS of a value's flags (R201): IX, OF, NV, SA. -/
def drainEvents (fl : Nat) : Nat :=
  (if fl &&& flIX = 0 then 0 else 1) + (if fl &&& flOF = 0 then 0 else 2) + (if fl &&& flNV = 0 then 0 else 4)
    + (if fl &&& flSA = 0 then 0 else 8)

/-- Convert accumulators in order, stepping the generator once for each under RM 4: the patterns and the flags (R92, R201). -/
def drainValues (f : FFmt) (rm : Nat) (sat_ : Bool) : List Nat → Nat → List Nat × Nat
  | [], _ => ([], 0)
  | x :: xs, g =>
    let g' := if rm = 4 then xorStep g else g
    let l := convFF fmtF32 f ⟨rm, sat_, false, 2, randOf g'⟩ x
    let r := drainValues f rm sat_ xs g'
    (l.pat :: r.1, l.flags ||| r.2)

/-- The bytes of a DRAIN, a whole number of TS rows (R201). -/
def drainBytes (d : Nat) (ps : List Nat) (rows : Nat) : List Byte :=
  let w := (drainFmt d).width / 8
  let bs := ps.flatMap (fun p => leBytes w p)
  bs ++ List.replicate (128 * rows - bs.length) 0

/-- DRAIN (R201). -/
def execDrain (core : Nat) (s : State) : Out :=
  runCmd core 0 4 s (fun k s =>
    let p := k.param
    let d := bitsAt p 28 4
    let rows := bitsAt p 8 9
    let arow := bitsAt p 0 8
    let bank := bitsAt p 17 1
    let n := drainRows p
    let go (s : State) (c : CReg) (xs : List (Nat × Nat × Nat)) : State :=
      let m := (s.coreAt core).mx
      let vs := (List.range rows).flatMap (fun i => (List.range 64).map (fun j => m.accAt bank (arow + i) j))
      let r := drainValues (drainFmt d) (bitsAt p 25 3) (bit p 24) vs k.y.lo
      match s.writeOn core 0 k (objOf c) xs (drainBytes d r.1 n) with
      | (s, false) => s
      | (s, true) =>
        let s := if bit p 23 then s.modCore core (fun c => { c with mx := c.mx.clearRows bank arow rows }) else s
        s.ends core 0 k stDONE n (drainEvents r.2)
    if bit p 22 then
      match s.liveQueue core (bitsAt p 19 3) with
      | none => s.ends core 0 k stQUEUE 0 0
      | some q =>
        if s.spoiled q.cap then s.ends core 0 k stPOISON 0 0
        else if q.room < n then s else go s q.cap (s.rowSpans q q.prod n)
    else if s.spoiled k.x then s.ends core 0 k stPOISON 0 0
    else go s k.x (s.spansAt k.asid (objOf k.x) (cursorOf k.x) (128 * n)))

/-- ZERO (R202). -/
def execZero (core : Nat) (s : State) : Out :=
  runCmd core 0 5 s (fun k s =>
    let p := k.param
    let rows := bitsAt p 8 9
    (s.modCore core (fun c => { c with mx := c.mx.clearRows (bitsAt p 17 1) (bitsAt p 0 8) rows })).ends core 0 k stDONE rows 0)

/-- MARK (R202). -/
def execMark (core : Nat) (s : State) : Out := runCmd core 0 6 s (fun k s => s.ends core 0 k stDONE 0 0)

end Sys2Proof.Machine
end

