-- ==== Sys2Proof/Machine/Crypto.lean ====
section
/-! DEFINITION. The standard functions that the spec names: SHA-512 (R358, R381, R408, R410), AES-GCM-256 (R207, R383) and Ed25519
verification (R389, R390, R408 to R410). PRESUMED: their definitions are those of the published standards (log 5). -/

namespace Sys2Proof.Machine

/-! ### SHA-512 -/

/-- The round constants: the first 64 bits of the fractional parts of the cube roots of the first 80 primes. -/
def shaK : List (BitVec 64) :=
  [0x428A2F98D728AE22, 0x7137449123EF65CD, 0xB5C0FBCFEC4D3B2F, 0xE9B5DBA58189DBBC,
   0x3956C25BF348B538, 0x59F111F1B605D019, 0x923F82A4AF194F9B, 0xAB1C5ED5DA6D8118,
   0xD807AA98A3030242, 0x12835B0145706FBE, 0x243185BE4EE4B28C, 0x550C7DC3D5FFB4E2,
   0x72BE5D74F27B896F, 0x80DEB1FE3B1696B1, 0x9BDC06A725C71235, 0xC19BF174CF692694,
   0xE49B69C19EF14AD2, 0xEFBE4786384F25E3, 0x0FC19DC68B8CD5B5, 0x240CA1CC77AC9C65,
   0x2DE92C6F592B0275, 0x4A7484AA6EA6E483, 0x5CB0A9DCBD41FBD4, 0x76F988DA831153B5,
   0x983E5152EE66DFAB, 0xA831C66D2DB43210, 0xB00327C898FB213F, 0xBF597FC7BEEF0EE4,
   0xC6E00BF33DA88FC2, 0xD5A79147930AA725, 0x06CA6351E003826F, 0x142929670A0E6E70,
   0x27B70A8546D22FFC, 0x2E1B21385C26C926, 0x4D2C6DFC5AC42AED, 0x53380D139D95B3DF,
   0x650A73548BAF63DE, 0x766A0ABB3C77B2A8, 0x81C2C92E47EDAEE6, 0x92722C851482353B] ++
  [0xA2BFE8A14CF10364, 0xA81A664BBC423001, 0xC24B8B70D0F89791, 0xC76C51A30654BE30,
   0xD192E819D6EF5218, 0xD69906245565A910, 0xF40E35855771202A, 0x106AA07032BBD1B8,
   0x19A4C116B8D2D0C8, 0x1E376C085141AB53, 0x2748774CDF8EEB99, 0x34B0BCB5E19B48A8,
   0x391C0CB3C5C95A63, 0x4ED8AA4AE3418ACB, 0x5B9CCA4F7763E373, 0x682E6FF3D6B2B8A3,
   0x748F82EE5DEFB2FC, 0x78A5636F43172F60, 0x84C87814A1F0AB72, 0x8CC702081A6439EC,
   0x90BEFFFA23631E28, 0xA4506CEBDE82BDE9, 0xBEF9A3F7B2C67915, 0xC67178F2E372532B,
   0xCA273ECEEA26619C, 0xD186B8C721C0C207, 0xEADA7DD6CDE0EB1E, 0xF57D4F7FEE6ED178,
   0x06F067AA72176FBA, 0x0A637DC5A2C898A6, 0x113F9804BEF90DAE, 0x1B710B35131C471B,
   0x28DB77F523047D84, 0x32CAAB7B40C72493, 0x3C9EBE0A15C9BEBC, 0x431D67C49C100D4C,
   0x4CC5D4BECB3E42B6, 0x597F299CFC657E2A, 0x5FCB6FAB3AD6FAEC, 0x6C44198C4A475817]

/-- The initial value: the first 64 bits of the fractional parts of the square roots of the first 8 primes. -/
def shaInit : List (BitVec 64) :=
  [0x6A09E667F3BCC908, 0xBB67AE8584CAA73B, 0x3C6EF372FE94F82B, 0xA54FF53A5F1D36F1,
   0x510E527FADE682D1, 0x9B05688C2B3E6C1F, 0x1F83D9ABFB41BD6B, 0x5BE0CD19137E2179]

/-- The value of bytes, the most significant first. -/
def beNat (bs : List Byte) : Nat := leNat bs.reverse

/-- The n low bytes of a value, the most significant first. -/
def beBytes (n x : Nat) : List Byte := (leBytes n x).reverse

/-- The message with its padding: a one bit, zeros, and its length in bits, in blocks of 128 bytes. -/
def shaPad (m : List Byte) : List Byte :=
  m ++ 0x80 :: List.replicate ((239 - m.length % 128) % 128) 0 ++ beBytes 16 (8 * m.length)

/-- The sixteen newest words of the message schedule, moved on by one word. -/
def shaNext (w : List (BitVec 64)) : List (BitVec 64) :=
  let at_ (i : Nat) := w.getD i 0
  let s0 := (at_ 1).rotateRight 1 ^^^ (at_ 1).rotateRight 8 ^^^ at_ 1 >>> 7
  let s1 := (at_ 14).rotateRight 19 ^^^ (at_ 14).rotateRight 61 ^^^ at_ 14 >>> 6
  w.drop 1 ++ [at_ 0 + s0 + at_ 9 + s1]

/-- One round on the eight working words. -/
def shaRound (v : List (BitVec 64)) (k w : BitVec 64) : List (BitVec 64) :=
  let at_ (i : Nat) := v.getD i 0
  let a := at_ 0
  let e := at_ 4
  let t1 := at_ 7 + (e.rotateRight 14 ^^^ e.rotateRight 18 ^^^ e.rotateRight 41) + (e &&& at_ 5 ^^^ ~~~e &&& at_ 6) + k + w
  let t2 := (a.rotateRight 28 ^^^ a.rotateRight 34 ^^^ a.rotateRight 39) + (a &&& at_ 1 ^^^ a &&& at_ 2 ^^^ at_ 1 &&& at_ 2)
  [t1 + t2, a, at_ 1, at_ 2, at_ 3 + t1, e, at_ 5, at_ 6]

/-- One block. -/
def shaBlock (h : List (BitVec 64)) (b : List Byte) : List (BitVec 64) :=
  let w := (List.range 16).map (fun i => BitVec.ofNat 64 (beNat ((b.drop (8 * i)).take 8)))
  let r := shaK.foldl (fun (x : List (BitVec 64) × List (BitVec 64)) k => (shaRound x.1 k (x.2.getD 0 0), shaNext x.2)) (h, w)
  List.zipWith (fun x y => x + y) h r.1

/-- Blocks, at most n of them. -/
def shaBlocks : Nat → List (BitVec 64) → List Byte → List (BitVec 64)
  | 0, h, _ => h
  | n + 1, h, bs => if bs.isEmpty then h else shaBlocks n (shaBlock h (bs.take 128)) (bs.drop 128)

/-- SHA-512: the digest's first byte is bits 511:504 (R358 takes bits 511:448). -/
@[irreducible] def sha512 (m : List Byte) : BitVec 512 :=
  let p := shaPad m
  .ofNat 512 ((shaBlocks (p.length / 128) shaInit p).foldl (fun n x => n * 2 ^ 64 + x.toNat) 0)

/-! ### AES-256 -/

/-- Multiplication by x of the AES field. -/
def aesTimes (a : BitVec 8) : BitVec 8 := a <<< 1 ^^^ if a.msb then 0x1B else 0

/-- The product of the AES field. -/
def aesMul (a b : BitVec 8) : BitVec 8 :=
  ((List.range 8).foldl (fun (x : BitVec 8 × BitVec 8) i => (if b.getLsbD i then x.1 ^^^ x.2 else x.1, aesTimes x.2)) (0, a)).1

/-- The substitution of a byte: its inverse of the field, and the affine map. -/
def aesSub (a : BitVec 8) : BitVec 8 :=
  let sq (x : BitVec 8) := aesMul x x
  let a2 := sq a
  let a4 := sq a2
  let a8 := sq a4
  let a16 := sq a8
  let a32 := sq a16
  let a64 := sq a32
  let b := [a2, a4, a8, a16, a32, a64, sq a64].foldl aesMul 1
  b ^^^ b.rotateLeft 1 ^^^ b.rotateLeft 2 ^^^ b.rotateLeft 3 ^^^ b.rotateLeft 4 ^^^ 0x63

/-- The next eight words of the key schedule, from the last eight; rc is the round constant. -/
def aesKeyNext (k : List (List Byte)) (rc : Byte) : List (List Byte) :=
  let xor (a b : List Byte) := List.zipWith (fun x y => x ^^^ y) a b
  let last := k.getD 7 []
  let t := match (last.drop 1 ++ last.take 1).map aesSub with
    | b :: bs => (b ^^^ rc) :: bs
    | [] => []
  let w0 := xor (k.getD 0 []) t
  let w1 := xor (k.getD 1 []) w0
  let w2 := xor (k.getD 2 []) w1
  let w3 := xor (k.getD 3 []) w2
  let w4 := xor (k.getD 4 []) (w3.map aesSub)
  let w5 := xor (k.getD 5 []) w4
  let w6 := xor (k.getD 6 []) w5
  [w0, w1, w2, w3, w4, w5, w6, xor (k.getD 7 []) w6]

/-- The key schedule: 15 round keys of 16 bytes. -/
def aesKeys (key : BitVec 256) : List (List Byte) :=
  let k0 := (List.range 8).map (fun i => (beBytes 32 key.toNat).drop (4 * i) |>.take 4)
  let ks := ((List.range 7).foldl (fun (x : List (List Byte) × List (List Byte) × Byte) _ =>
    let n := aesKeyNext x.2.1 x.2.2
    (x.1 ++ n, n, aesTimes x.2.2)) (k0, k0, 1)).1
  (List.range 15).map (fun i => ((ks.drop (4 * i)).take 4).flatten)

/-- The rows of the state moved: byte r + 4c comes from column c + r. -/
def aesShift (s : List Byte) : List Byte := (List.range 16).map (fun i => s.getD (i % 4 + 4 * ((i / 4 + i % 4) % 4)) 0)

/-- The columns of the state mixed. -/
def aesMix (s : List Byte) : List Byte :=
  (List.range 16).map (fun i =>
    let at_ (j : Nat) := s.getD (4 * (i / 4) + (i + j) % 4) 0
    aesTimes (at_ 0) ^^^ aesTimes (at_ 1) ^^^ at_ 1 ^^^ at_ 2 ^^^ at_ 3)

/-- AES-256 of one block under its round keys. -/
def aesBlock (ks : List (List Byte)) (b : List Byte) : List Byte :=
  let add (k : Nat) (s : List Byte) := List.zipWith (fun x y => x ^^^ y) s (ks.getD k [])
  let s := (List.range 13).foldl (fun s r => add (r + 1) (aesMix (aesShift (s.map aesSub)))) (add 0 b)
  add 14 (aesShift (s.map aesSub))

/-! ### GCM -/

/-- The product of the GCM field: the first bit of a block is its most significant. -/
def gcmMul (a b : BitVec 128) : BitVec 128 :=
  ((List.range 128).foldl (fun (x : BitVec 128 × BitVec 128) i =>
    (if a.getMsbD i then x.1 ^^^ x.2 else x.1, x.2 >>> 1 ^^^ if x.2.getLsbD 0 then 0xE1#128 <<< 120 else 0)) (0, b)).1

/-- The hash of a text cut into blocks, the last padded with zeros; at most n blocks. -/
def gcmHash (h : BitVec 128) : Nat → BitVec 128 → List Byte → BitVec 128
  | 0, y, _ => y
  | n + 1, y, bs =>
    if bs.isEmpty then y
    else
      let b := bs.take 16
      gcmHash h n (gcmMul (y ^^^ .ofNat 128 (beNat (b ++ List.replicate (16 - b.length) 0))) h) (bs.drop 16)

/-- A text under the counter blocks from ctr on; at most n blocks. -/
def gcmText (ks : List (List Byte)) (iv : BitVec 96) : Nat → BitVec 32 → List Byte → List Byte
  | 0, _, _ => []
  | n + 1, ctr, bs =>
    if bs.isEmpty then []
    else List.zipWith (fun x y => x ^^^ y) (bs.take 16) (aesBlock ks (beBytes 16 (iv.toNat * 2 ^ 32 + ctr.toNat))) ++
      gcmText ks iv n (ctr + 1) (bs.drop 16)

/-- AES-GCM-256 decryption with no additional data (R207): none when the tag fails. The first byte of the key is its most
significant; the tag is a number whose first byte is its least significant (R45). -/
@[irreducible] def gcmOpen (key : BitVec 256) (iv : BitVec 96) (c : List Byte) (tag : BitVec 128) : Option (List Byte) :=
  let ks := aesKeys key
  let h := BitVec.ofNat 128 (beNat (aesBlock ks (List.replicate 16 0)))
  let y := gcmHash h (c.length / 16 + 1) 0 c
  let z := gcmMul (y ^^^ .ofNat 128 (8 * c.length % 2 ^ 64)) h
  let t := List.zipWith (fun x y => x ^^^ y) (aesBlock ks (beBytes 16 (iv.toNat * 2 ^ 32 + 1))) (beBytes 16 z.toNat)
  if leNat t = tag.toNat then some (gcmText ks iv (c.length / 16 + 1) 2 c) else none

/-! ### Ed25519 -/

/-- The prime of the field. -/
def edP : Nat := 2 ^ 255 - 19

/-- The order of the base point. -/
def edL : Nat := 2 ^ 252 + 27742317777372353535851937790883648493

/-- A power of the field, by the low n bits of the exponent. -/
def edPow (b : Nat) : Nat → Nat → Nat
  | 0, _ => 1
  | n + 1, e => let x := edPow (b * b % edP) n (e / 2); if e % 2 = 1 then b * x % edP else x

/-- The inverse of the field. -/
def edInv (x : Nat) : Nat := edPow x 255 (edP - 2)

/-- The curve's constant d, −121665 / 121666. -/
def edD : Nat := (edP - 121665) * edInv 121666 % edP

/-- A point in extended coordinates. -/
structure EdPoint where
  x : Nat
  y : Nat
  z : Nat
  t : Nat
  deriving DecidableEq, Repr

/-- The neutral point. -/
def edZero : EdPoint := ⟨0, 1, 1, 0⟩

/-- The sum of two points. -/
def edAdd (p q : EdPoint) : EdPoint :=
  let a := (p.y + edP - p.x) * (q.y + edP - q.x) % edP
  let b := (p.y + p.x) * (q.y + q.x) % edP
  let c := 2 * p.t * q.t * edD % edP
  let d := 2 * p.z * q.z % edP
  let e := b + edP - a
  let f := d + edP - c
  let g := d + c
  let h := b + a
  ⟨e * f % edP, g * h % edP, f * g % edP, e * h % edP⟩

/-- A multiple of a point, by the low n bits of the number. -/
def edMul (p : EdPoint) : Nat → Nat → EdPoint
  | 0, _ => edZero
  | n + 1, k => let q := edMul (edAdd p p) n (k / 2); if k % 2 = 1 then edAdd p q else q

/-- Whether two points are one. -/
def edEq (p q : EdPoint) : Bool := (p.x * q.z) % edP == (q.x * p.z) % edP && (p.y * q.z) % edP == (q.y * p.z) % edP

/-- The point that 32 bytes encode, as a number: y, and the sign of x in the top bit. -/
def edPoint (n : Nat) : Option EdPoint :=
  let y := n % 2 ^ 255
  let u := (y * y + edP - 1) % edP
  let v := (edD * y * y + 1) % edP
  let w := u * edInv v % edP
  let r := edPow w 255 ((edP + 3) / 8)
  let x := if r * r % edP = w then some r
    else
      let q := r * edPow 2 255 ((edP - 1) / 4) % edP
      if q * q % edP = w then some q else none
  match x with
  | none => none
  | some x =>
    if edP ≤ y ∨ (x = 0 ∧ n / 2 ^ 255 % 2 = 1) then none
    else
      let x := if x % 2 = n / 2 ^ 255 % 2 then x else edP - x
      some ⟨x, y, 1, x * y % edP⟩

/-- Ed25519 verification: public key, message, signature; key and signature are numbers whose first byte is the least significant. -/
@[irreducible] def ed25519 (key : BitVec 256) (m : List Byte) (sig : BitVec 512) : Bool :=
  let r := sig.toNat % 2 ^ 256
  let s := sig.toNat / 2 ^ 256
  let base := edPoint (4 * edInv 5 % edP)
  match edPoint key.toNat, edPoint r, base with
  | some a, some p, some b =>
    let k := leNat (beBytes 64 (sha512 (leBytes 32 r ++ leBytes 32 key.toNat ++ m)).toNat) % edL
    decide (s < edL) && edEq (edMul b 256 (8 * s)) (edAdd (edMul p 4 8) (edMul a 256 (8 * k)))
  | _, _, _ => false

end Sys2Proof.Machine
end

