-- ==== Sys2Proof/Machine/Transfer.lean ====
section
/-! DEFINITION. The transfer commands of e1 (R204 to R208, R383), and the remote accesses of engines (R212). -/

namespace Sys2Proof.Machine

/-! ### Copies (R205) -/

/-- How far a command comes of n bytes, of which m can be translated, with the mishap that strikes it: COUNT and STATUS. -/
def howFar (n m : Nat) (mishap : Option Mishap) (known : List Nat) : Nat × Nat :=
  let k := min n m
  match mishap.filter (fun x => known.contains x.status && decide (x.after < k)) with
  | some x => (x.after, x.status)
  | none => if k < n then (k, stXLATE) else (n, stDONE)

/-- The bytes of FILL's pattern (R205). -/
def fillBytes (z : CReg) (n : Nat) : List Byte :=
  let p := leBytes 16 z.val.toNat
  (List.range n).map (fun i => p.getD (i % 16) 0)

/-- The supervisor learns of an uncorrectable error in data that a command read (R329). -/
def State.eccInfo (s : State) (core port : Nat) (k : Cmd) : State :=
  s.informPacket (s.domAt core k.asid).part core k.asid k.kind k.slot { code := fECC_UNCORR, arg := 2, engine := some (port, k.seq) }

/-- The object that a command writes, if any (R197 to R213): a MOVE's is the one that it moves. -/
def Cmd.dest (k : Cmd) : Option CReg :=
  let c := k.code_
  if c = 4 ∨ c = 2 ∧ bit k.param 27 ∨ c = 0x11 then some k.x else if c < 0x10 then none else some k.y

/-- An uncorrectable error in data read poisons the destination object (R192, R329, R335). -/
def State.poisonDest (s : State) (core port : Nat) (k : Cmd) (status : Nat) : State :=
  if status = stECC then
    (match k.dest.filter (fun (c : CReg) => c.tag) with
      | some c => s.poison (objOf c)
      | none => s).eccInfo core port k
  else s

/-- A COPY reads its source from where it stands, line by line (R205, R304): the state, the command, and whether it has read m bytes. -/
def State.readOn (s : State) (core port : Nat) (k : Cmd) (m : Nat) : State × Cmd × Bool :=
  let xs := takeSpans (s.spansAt k.asid (objOf k.x) (cursorOf k.x) m) m
  let (s, n) := s.reach core port k (isOwn k.x) (objOf k.x) false k.got.length xs
  let bs := k.got ++ s.engineBytes (dropSpans (takeSpans xs n) k.got.length)
  (s.modCmd core port k (fun x => { x with got := bs }), { k with got := bs }, decide (n = spanTotal xs))

/-- Write at Y what X, or a pattern, holds (R205): every byte is read before any is written. A write of no bytes is translated, and leaves
for a HOST window with no byte enables (R258). -/
def State.copyRun (s : State) (core port : Nat) (k : Cmd) (n : Nat) (fromX : Bool) (mishap : Option Mishap) : State :=
  let x := objOf k.x
  let y := objOf k.y
  if (fromX && s.spoiled k.x) || s.spoiled k.y then s.endsNow core port k stPOISON
  else if n = 0 then
    if (fromX && !s.zeroOk k.asid x (cursorOf k.x)) || !s.zeroOk k.asid y (cursorOf k.y) then s.ends core port k stXLATE 0 0
    else
      let s := match s.flatNow k.asid y (cursorOf k.y) with
        | .ok a => if hostBase ≤ a then { s with out := s.out ++ [Output.hostWrite (a - hostBase) []] } else s
        | .error _ => s
      s.ends core port k stDONE 0 0
  else
    let ys := s.spansAt k.asid y (cursorOf k.y) n
    let m := if fromX then min (spanTotal (s.spansAt k.asid x (cursorOf k.x) n)) (spanTotal ys) else spanTotal ys
    let known := if fromX ∧ (s.objAt x).level = 4 then [stECC, stPOISON, stREMOTE] else [stECC, stPOISON]
    let (count, status) := howFar n m mishap known
    let (s, k, read) := if fromX then s.readOn core port k count else (s, { k with got := fillBytes k.z count }, true)
    if !read then s
    else match s.writeOn core port k y (takeSpans ys count) (k.got.take count) with
      | (s, false) => s
      | (s, true) => (s.poisonDest core port k status).ends core port k status count 0

/-- COPY (R205). -/
def execCopy (core : Nat) (mishap : Option Mishap) (s : State) : Out :=
  runCmd core 1 0x10 s (fun k s => s.copyRun core 1 k (bitsAt k.param 0 41) true mishap)

/-- FILL (R205). -/
def execFill (core : Nat) (mishap : Option Mishap) (s : State) : Out :=
  runCmd core 1 0x12 s (fun k s => s.copyRun core 1 k (bitsAt k.param 0 41) false mishap)

/-! ### MOVE (R206) -/

/-- MOVE (R206): it waits for loads of the object that are on their way (R226). Its object is in transit until the command completes
(R229). DESIGN CHOICE (log 26): a MOVE of an object that no entry is free for at GEN 0xFFFF has no effect and ends CANCELLED (R227). DESIGN CHOICE (log 73): one that meets a translation
fault ends XLATE with COUNT 0, no bump and no change. -/
def execMove (core : Nat) (s : State) : Out :=
  runCmd core 1 0x11 s (fun k s =>
    let o := objOf k.x
    let e := s.objAt o
    let pool := objOf k.y
    let p := s.objAt pool
    if s.spoiled k.x then s.ends core 1 k stPOISON 0 0
    else if s.loading o then s
    else match s.room pool e.length true with
      | none => s.ends core 1 k stNOROOM 0 0
      | some base =>
        let xs := s.spansAt k.asid o 0 e.length
        let ys := s.spansIn k.asid { e with level := p.level, key := p.key, base := base, poolId := pool } 0 e.length
        if spanTotal xs < e.length ∨ spanTotal ys < e.length then s.ends core 1 k stXLATE 0 0
        else match s.engineRace core 1 k (s.spanRaces (s.cmdParty core 1 k) true o false xs) with
          | (s, true) => s
          | (s, false) =>
            match (((s.drainObj o).writeBackObj core o).dropAllLines o).bump o with
            | none => s.ends core 1 k stCANCELLED 0 0
            | some (s, n) =>
              let s := (s.rehome n pool base k.asid).modObj n (fun e => { e with transit := true })
              s.ends core 1 k stDONE e.length 0 (some (s.ownCap n (rbitsOf k.x) (cursorOf k.x))))

/-! ### DECRYPT (R207, R383) -/

/-- The IV: the salt, then the counter, most significant bytes first (R383). -/
def ivOf (salt : BitVec 32) (counter : Nat) : BitVec 96 := .ofNat 96 (salt.toNat * 2 ^ 64 + counter % 2 ^ 64)

/-- The invocation counter of a decrypt stream advances (R207). -/
def State.stepStream (s : State) (part id : Nat) (st : DStream) : State :=
  s.modPart part (fun p => { p with streams := putT p.streams id { st with counter := st.counter + 1 } })

/-- DECRYPT on a stream that can be used: the stream's counter advances whatever comes of it (R207). DEDUCED (log 26): the bump by which
the object goes into transit (R224, R229) is made when the plaintext is written; a source or destination that cannot be translated leaves
the object as it was, and so does an error in what is read (R192, R375); and where no entry is free for it at GEN 0xFFFF, the command has
no effect and ends CANCELLED (R227). -/
def State.decryptRun (s : State) (core : Nat) (k : Cmd) (id : Nat) (st : DStream) (mishap : Option Mishap) : State :=
  let n := bitsAt k.param 0 36
  let part := (s.domAt core k.asid).part
  let o := objOf k.y
  let xs := s.spansAt k.asid (objOf k.x) (cursorOf k.x) (n + 16)
  let ys := s.spansAt k.asid o 0 n
  let known := if (s.objAt (objOf k.x)).level = 4 then [stECC, stPOISON, stREMOTE] else [stECC, stPOISON]
  let step (s : State) : State := s.stepStream part id st
  if s.spoiled k.x || s.spoiled k.y then (step s).ends core 1 k stPOISON 0 0
  else if spanTotal xs < n + 16 ∨ spanTotal ys < n then (step s).ends core 1 k stXLATE 0 0
  else if s.loading o then s
  else match mishap.filter (fun x => known.contains x.status && decide (x.after < n + 16)) with
  | some x => ((step s).poisonDest core 1 k x.status).ends core 1 k x.status 0 0
  | none => match s.engineRace core 1 k (s.spanRaces (s.cmdParty core 1 k) true o true ys) with
    | (s, true) => s
    | (s, false) =>
      match ((step s).drainObj o).bump o with
      | none => (step s).ends core 1 k stCANCELLED 0 0
      | some (s, m) =>
        let s := s.modObj m (fun e => { e with transit := true })
        let y := s.ownCap m (rbitsOf k.y) 0
        let s := s.modCmd core 1 k (fun x => { x with y := y })
        let bs := s.engineBytes xs
        match gcmOpen st.key (ivOf st.salt st.counter) (bs.take n) (.ofNat 128 (leNat (bs.drop n))) with
        | some t =>
          let s := (s.engineWrite (s.cmdParty core 1 k) m ys t).setOwner m (s.devOf k.asid) core k.asid
          let s := ys.foldl (fun s x => if (s.objAt m).level < 3 then s.inheritLines x.2.1 x.2.2 (s.epochOf m) else s) s
          s.ends core 1 k stDONE n 0
        | none =>
          let s := (s.poison m).revokeFree m
          let s := s.informPacket part core k.asid k.kind k.slot
            { code := fGCM_TAG_FAIL, arg := id, engine := some (1, k.seq) }
          s.ends core 1 k stGCM_TAG 0 0

/-- The stream of a DECRYPT, where the host link lets it be used (R207, R383). -/
def State.streamOf (s : State) (core : Nat) (k : Cmd) : Option DStream :=
  let p := s.partAt (s.domAt core k.asid).part
  (lookT p.streams (k.z.val.toNat % 256)).filter (fun st =>
    p.tdi = 2 && (s.domAt core k.asid).part != 0 && decide (st.counter < 2 ^ 64 - 1))

/-- DECRYPT with what its read meets (R207, R375): the counter of its stream advances though an operand is stale. -/
def State.runDecrypt (s : State) (core : Nat) (mishap : Option Mishap) : Out :=
  runCmdOr core 1 0x13 s
    (fun k s => match s.streamOf core k with
      | some st => (s.stepStream (s.domAt core k.asid).part (k.z.val.toNat % 256) st).endsNow core 1 k stCANCELLED
      | none => s.endsNow core 1 k stCANCELLED)
    (fun k s => match s.streamOf core k with
      | some st => s.decryptRun core k (k.z.val.toNat % 256) st mishap
      | none => s.ends core 1 k stLINK 0 0)

/-- DECRYPT (R207). A mishap of its read comes as a turn of its own (log 1). -/
def execDecrypt (core : Nat) (s : State) : Out := s.runDecrypt core none

/-! ### Remote accesses of engines (R208, R212, R352) -/

/-- A command ends because another device fails it: an error completion, a refusal, or silence (R192), which is counted (R385). -/
def State.remoteEnds (s : State) (core port : Nat) (k : Cmd) (status : Nat) : State :=
  let s := s.endsNow core port k status
  if status = stREMOTE then s.count core k.asid 0x0C5 1 else s

/-- A request of a command leaves for another device; an identifier that is not mapped ends it (R352). -/
def State.ask (s : State) (core port : Nat) (k : Cmd) (dev : Nat) (priv : Bool) (b : Body) : State :=
  match s.inject (s.domAt core k.asid).part dev priv 0 core k.asid b with
  | none => s.remoteEnds core port k stREMOTE
  | some s' => s'.modCmd core port k (fun x => { x with sent := true, since := s.time })

/-- The most bytes that one packet carries: 64 payload flits (R347). -/
def packetMax : Nat := 4096

/-- The status with which a command ends before its next packet, of m bytes of which t can be translated: that of a mishap that strikes
within it, or XLATE where none can: of no bytes, where their location cannot (R258). -/
def packetEnd (k : Cmd) (m t : Nat) (zeroOk : Bool) (mishap : Option Mishap) : Option Nat :=
  match mishap.filter (fun x => [stECC, stPOISON].contains x.status && decide (x.after < k.wrote + m)) with
  | some x => some x.status
  | none => if t = 0 ∧ (0 < m ∨ !zeroOk) then some stXLATE else none

/-- Send the next packet of n bytes at X to the remote object of Y (R208, R212, R347), of lines that are checked as they are reached (R304).
Each packet is acknowledged before the next is sent (log 26). -/
def State.remoteWrite (s : State) (core port : Nat) (k : Cmd) (n : Nat) (priv : Bool) (mishap : Option Mishap) : State :=
  let y := s.objAt (objOf k.y)
  let m := min packetMax (n - k.wrote)
  if s.spoiled k.x || s.spoiled k.y then s.endsNow core port k stPOISON
  else
    let xs := s.spansAt k.asid (objOf k.x) (cursorOf k.x + k.wrote) m
    match packetEnd k m (spanTotal xs) (s.zeroOk k.asid (objOf k.x) (cursorOf k.x + k.wrote)) mishap with
    | some status => (s.poisonDest core port k status).endsNow core port k status
    | none =>
      match s.reach core port k (isOwn k.x) (objOf k.x) false 0 xs with
      | (s, r) =>
        if r < spanTotal xs then s
        else
          let bs := s.engineBytes xs
          (s.modCmd core port k (fun x => { x with got := bs })).ask core port k y.homeDev priv
            (.ewrite core port k.seq y.homeObj y.homeGen (cursorOf k.y + k.wrote) bs)

/-- CKPT (R208): on its privileged channel, with no timeout. -/
def execCkpt (core : Nat) (mishap : Option Mishap) (s : State) : Out :=
  runCmd core 1 0x14 s (fun k s => s.remoteWrite core 1 k (bitsAt k.param 0 41) true mishap)

/-- RPUT (R212). -/
def execRput (core : Nat) (mishap : Option Mishap) (s : State) : Out :=
  runCmd core 2 0x25 s (fun k s => s.remoteWrite core 2 k (bitsAt k.param 0 40) (s.domAt core k.asid).supv mishap)

/-- RGET (R212): it asks for the bytes of the next packet, of which none has been written; they are checked when they are (R303). -/
def execRget (core : Nat) (mishap : Option Mishap) (s : State) : Out :=
  runCmd core 2 0x24 s (fun k s =>
    let m := min packetMax (bitsAt k.param 0 40 - k.wrote)
    let x := s.objAt (objOf k.x)
    let ys := s.spansAt k.asid (objOf k.y) (cursorOf k.y + k.wrote) m
    if s.spoiled k.x || s.spoiled k.y then s.endsNow core 2 k stPOISON
    else match packetEnd k m (spanTotal ys) (s.zeroOk k.asid (objOf k.y) (cursorOf k.y + k.wrote)) mishap with
      | some status => (s.poisonDest core 2 k status).endsNow core 2 k status
      | none =>
        s.ask core 2 k x.homeDev (s.domAt core k.asid).supv
          (.eread core 2 k.seq x.homeObj x.homeGen (cursorOf k.x + k.wrote) (spanTotal ys)))

/-- The command that an answer is for. -/
def State.sentCmd (s : State) (core asid port seq : Nat) : Option Cmd :=
  ((s.coreAt core).port port).find? (fun k => k.sent && k.asid == asid && k.seq == seq && k.done.isNone)

/-- A packet of a command has been acknowledged: the command ends, or asks again (R192, R204). -/
def State.packetDone (s : State) (core port : Nat) (k : Cmd) (n : Nat) : State :=
  let s := (s.wrote core port k (k.wrote + n)).modCmd core port k (fun x => { x with sent := false, got := [] })
  if s.bytesOf core port k ≤ k.wrote + n then
    s.ends core port { k with wrote := k.wrote + n } stDONE (s.bytesOf core port k) 0
  else s

/-- The bytes of an RGET are written from where it stands, line by line; a race stops it before the line, which it asks for again. -/
def State.rgetWrite (s : State) (core port : Nat) (k : Cmd) (b : List Byte) : State :=
  let ys := takeSpans (s.spansAt k.asid (objOf k.y) (cursorOf k.y + k.wrote) b.length) b.length
  let (s, n) := s.reach core port k true (objOf k.y) true 0 ys
  let s := s.engineWrite (s.cmdParty core port k) (objOf k.y) (takeSpans ys n) b
  if n < spanTotal ys then (s.wrote core port k (k.wrote + n)).modCmd core port k (fun x => { x with sent := false })
  else s.packetDone core port k n

/-- An EACK: a packet of the command is in place; a refusal for poison gives POISON, any other REMOTE (R192, R208). -/
def State.eack (s : State) (core asid port seq : Nat) (code : Option Nat) (b : List Byte) : State :=
  match s.sentCmd core asid port seq with
  | none => s
  | some k =>
    match code with
    | some c => s.remoteEnds core port k (if c = 3 then stPOISON else stREMOTE)
    | none => if k.code_ = 0x24 then s.rgetWrite core port k b else s.packetDone core port k k.got.length

end Sys2Proof.Machine
end

