-- ==== Sys2Proof/Machine/Collective.lean ====
section
/-! DEFINITION. The collectives of e2 (R209 to R211): the members of a group that lie on this device run theirs in one step; what the
members of other devices bring comes with the step. -/

namespace Sys2Proof.Machine

/-- A local member of a collective: rank, core and command. -/
structure Local where
  rank : Nat
  core : Nat
  cmd : Cmd

/-- The commands of a group's members on this device; none while one of them has not come to its command. -/
def State.localMembers (s : State) (asid code g : Nat) (ms : List (Nat × Nat)) : Option (List Local) :=
  let here := ((List.range ms.length).zip ms).filter (fun m => m.2.1 == s.devOf asid)
  let cmd (c : Nat) : Option Cmd :=
    (s.runnables c 2 code).find? (fun k => k.asid == asid && bitsAt k.param 56 8 == g && k.got.isEmpty)
  let found := here.filterMap (fun m => (cmd m.2.2).map (fun k => (⟨m.1, m.2.2, k⟩ : Local)))
  if found.length = here.length then some found else none

/-- What the members of other devices bring; none while one is missing. -/
def farMembers (dev : Nat) (ms : List (Nat × Nat)) (others : List Member) : Option (List Member) :=
  let ranks := ((List.range ms.length).zip ms).filter (fun m => m.2.1 != dev)
  let found := ranks.filterMap (fun m => others.find? (fun o => o.rank == m.1))
  if found.length = ranks.length then some found else none

/-! ### The fold of AREDUCE (R210) -/

/-- The floating format of a TYPE. -/
def arFmt (ty : Nat) : FFmt := if ty = 0 then fmtF32 else if ty = 1 then fmtF64 else fmtBF16

/-- Combine two elements: the result and its flags. -/
def redStep (p x y : Nat) : Nat × Nat :=
  let ty := bitsAt p 52 4
  let op := bitsAt p 50 2
  if ty = 3 then
    (if op = 0 then (x + y) % 2 ^ 64
     else if (decide (sintN x 64 ≤ sintN y 64)) == (op == 1) then x else y, 0)
  else
    let c : Ctl := ⟨bitsAt p 47 3, false, false, 2, 0⟩
    let l := if op = 0 then fAdd (arFmt ty) c false x y else fSel (arFmt ty) c (op == 2) x y
    (l.pat, l.flags)

/-- Element e of a member's source. -/
def redElem (p : Nat) (bs : List Byte) (e : Nat) : Nat := leNat ((bs.drop (redSize p * e)).take (redSize p))

/-- The left fold of one element over the members in rank order. -/
def redFold (p : Nat) (xs : List Nat) : Nat × Nat :=
  match xs with
  | [] => (0, 0)
  | x :: ys => ys.foldl (fun acc y => let r := redStep p acc.1 y
      (r.1, acc.2 ||| r.2)) (x, 0)

/-- The result of AREDUCE, and EVENTS: IX, OF, NV. -/
def redAll (p : Nat) (srcs : List (List Byte)) : List Byte × Nat :=
  let rs := (List.range (bitsAt p 0 40)).map (fun e => redFold p (srcs.map (fun b => redElem p b e)))
  let fl := rs.foldl (fun a r => a ||| r.2) 0
  (rs.flatMap (fun r => leBytes (redSize p) r.1), drainEvents fl % 8)

/-! ### A collective (R209) -/

/-- Bytes that a member reads at X. -/
def sourceLen (code p : Nat) : Nat := if code = 0x20 then bitsAt p 0 40 * redSize p else bitsAt p 0 40

/-- Every local member ends with a status. -/
def State.endAll (s : State) (ls : List Local) (status count events : Nat) : State :=
  ls.foldl (fun s l => s.ends l.core 2 l.cmd status count events) s

/-- The ranges that a local member reads: at a BCAST only the root does. -/
def State.readsOf (s : State) (code : Nat) (l : Local) : List (Nat × Nat × Nat) :=
  if code = 0x22 ∧ l.cmd.z.val.toNat ≠ l.rank then []
  else s.spansAt l.cmd.asid (objOf l.cmd.x) (cursorOf l.cmd.x) (sourceLen code l.cmd.param)

/-- The ranges that a local member writes. -/
def State.writesOf (s : State) (l : Local) : List (Nat × Nat × Nat) :=
  s.spansAt l.cmd.asid (objOf l.cmd.y) (cursorOf l.cmd.y) (s.bytesOf l.core 2 l.cmd)

/-- The races of the local members' reads, each checked once: the first that stops, stops its command before anything is written (R191,
R308). -/
def State.memberRaces (s : State) (code : Nat) : List Local → State × Bool
  | [] => (s, false)
  | l :: ls =>
    let p := s.cmdParty l.core 2 l.cmd
    if l.cmd.read then s.memberRaces code ls
    else match s.engineRace l.core 2 l.cmd (s.spanRaces p (isOwn l.cmd.x) (objOf l.cmd.x) false (s.readsOf code l)) with
    | (s', true) => (s', true)
    | (s', false) => (s'.modCmd l.core 2 l.cmd (fun x => { x with read := true })).memberRaces code ls

/-- A member writes the result, line by line, from where it stands (R304), and ends when it is all there (R209). -/
def State.putResult (s : State) (core : Nat) (k : Cmd) (res : List Byte) (events : Nat) : State :=
  let s := s.modCmd core 2 k (fun x => { x with got := res, events := events })
  let k := { k with got := res, events := events }
  let ys := s.spansAt k.asid (objOf k.y) (cursorOf k.y) (s.bytesOf core 2 k)
  match s.writeOn core 2 k (objOf k.y) ys res with
  | (s, false) => s
  | (s, true) => s.ends core 2 k stDONE (s.bytesOf core 2 k) events

/-- The result of a collective from its members' bytes in rank order, and EVENTS. -/
def collected (code p root : Nat) (srcs : List (List Byte)) : List Byte × Nat :=
  if code = 0x20 then redAll p srcs
  else if code = 0x21 then (srcs.flatMap (fun b => b), 0)
  else (srcs.getD root [], 0)

/-- A collective whose members have all come (R209): parameters first, then every read, then the writes. -/
def State.collect (s : State) (code : Nat) (ls : List Local) (far : List Member) (n : Nat) : State :=
  let params := ls.map (fun l => (l.cmd.param, l.cmd.z.val.toNat)) ++ far.map (fun m => (m.param.toNat, m.z.toNat))
  let (p, root) := params.headD (0, 0)
  if params.any (fun x => x != (p, root)) then s.endAll ls stMISMATCH 0 0
  else if ls.any (fun l => s.spoiled l.cmd.x || s.spoiled l.cmd.y) then s.endAll ls stPOISON 0 0
  else if ls.any (fun l => s.stale l.cmd) then s.endAll ls stCANCELLED 0 0
  else
    let short (l : Local) : Bool :=
      let r := s.readsOf code l
      (code != 0x22 || root == l.rank) && decide (spanTotal r < sourceLen code p) || decide (spanTotal (s.writesOf l) < s.bytesOf l.core 2 l.cmd)
    if ls.any short then s.endAll ls stXLATE 0 0
    else match s.memberRaces code ls with
      | (s, true) => s
      | (s, false) =>
        let bytes (r : Nat) : List Byte :=
          match ls.find? (fun l => l.rank == r), far.find? (fun m => m.rank == r) with
          | some l, _ => s.engineBytes (s.readsOf code l)
          | none, some m => m.bytes
          | none, none => []
        let res := collected code p root ((List.range n).map bytes)
        ls.foldl (fun s l => s.putResult l.core l.cmd res.1 res.2) s

/-- A collective command of a core: it waits until every member has come, and is none while it waits; one that has its result goes on
writing it. -/
def State.runMember (s : State) (core code : Nat) (others : List Member) (k : Cmd) : Option State :=
  if !k.got.isEmpty then some (s.putResult core k k.got k.events)
  else
    let g := bitsAt k.param 56 8
    let ms := s.membersOf (s.domAt core k.asid).part g
    match s.localMembers k.asid code g ms, farMembers (s.devOf k.asid) ms others with
    | some ls, some far => some ((ls.foldl (fun s l => s.engineStart l.core 2 l.cmd) s).collect code ls far ms.length)
    | _, _ => none

/-- The first collective of a code on a core, of any of its domains, that can run. -/
def runCollective (core code : Nat) (others : List Member) (s : State) : Out :=
  .next (((s.runnables core 2 code).findSome? (fun k => s.runMember core code others k)).getD s)

/-- AREDUCE (R210). -/
def execAreduce (core : Nat) (others : List Member) (s : State) : Out := runCollective core 0x20 others s

/-- AGATHER (R211). -/
def execAgather (core : Nat) (others : List Member) (s : State) : Out := runCollective core 0x21 others s

/-- BCAST (R211). -/
def execBcast (core : Nat) (others : List Member) (s : State) : Out := runCollective core 0x22 others s

end Sys2Proof.Machine
end

