-- ==== Sys2Proof/Machine/Vector.lean ====
section
/-! DEFINITION. Vector arithmetic, compares, predicates, permutes and reductions (R162 to R171). -/

namespace Sys2Proof.Machine

/-! ### Integer arithmetic (R165) -/

/-- An integer vector instruction of two sources. -/
def vecInt (d a b : VR) (p : PR) (t : ITy) (f : Nat → Nat → Nat) (s : State) : Out :=
  issue_ 4 (do
    vectorUnit
    let r ← me
    let w := laneW t
    let x := r.vreg a.val
    let y := r.vreg b.val
    let v := mapActive (r.preg p.val) w (r.vreg d.val) (fun i => f (lane x w i) (lane y w i))
    modS (fun s => s.modCur (fun t => t.setV d.val v))) s

/-- val of a lane (R165). -/
def valOf (t : ITy) (x : Nat) : Int := intVal (laneW t) t.signed x

/-- A result of integer arithmetic that wraps (R165). -/
def wrapped (t : ITy) (f : Int → Int → Int) (x y : Nat) : Nat := bitsN (f (valOf t x) (valOf t y)) (laneW t)

/-- A result of integer arithmetic that saturates (R165). -/
def saturated (t : ITy) (f : Int → Int → Int) (x y : Nat) : Nat :=
  bitsN (sat (f (valOf t x) (valOf t y)) (intLo (laneW t) t.signed) (intHi (laneW t) t.signed)) (laneW t)

/-- `vadd` (R165). -/
def execVadd (d a b : VR) (p : PR) (t : ITy) (s : State) : Out := vecInt d a b p t (wrapped t (fun x y => x + y)) s
/-- `vsub` (R165). -/
def execVsub (d a b : VR) (p : PR) (t : ITy) (s : State) : Out := vecInt d a b p t (wrapped t (fun x y => x - y)) s
/-- `vmul` (R165). -/
def execVmul (d a b : VR) (p : PR) (t : ITy) (s : State) : Out := vecInt d a b p t (wrapped t (fun x y => x * y)) s
/-- `vmin` (R165). -/
def execVmin (d a b : VR) (p : PR) (t : ITy) (s : State) : Out :=
  vecInt d a b p t (wrapped t (fun x y => if x ≤ y then x else y)) s
/-- `vmax` (R165). -/
def execVmax (d a b : VR) (p : PR) (t : ITy) (s : State) : Out :=
  vecInt d a b p t (wrapped t (fun x y => if x ≤ y then y else x)) s
/-- `vand` (R165). -/
def execVand (d a b : VR) (p : PR) (t : ITy) (s : State) : Out := vecInt d a b p t (fun x y => x &&& y) s
/-- `vor` (R165). -/
def execVor (d a b : VR) (p : PR) (t : ITy) (s : State) : Out := vecInt d a b p t (fun x y => x ||| y) s
/-- `vxor` (R165). -/
def execVxor (d a b : VR) (p : PR) (t : ITy) (s : State) : Out := vecInt d a b p t (fun x y => x ^^^ y) s
/-- `vshl` (R165). -/
def execVshl (d a b : VR) (p : PR) (t : ITy) (s : State) : Out :=
  vecInt d a b p t (fun x y => x * 2 ^ (y % laneW t) % 2 ^ laneW t) s
/-- `vshr` (R165). -/
def execVshr (d a b : VR) (p : PR) (t : ITy) (s : State) : Out :=
  vecInt d a b p t (fun x y => bitsN (valOf t x / (2 ^ (y % laneW t) : Nat)) (laneW t)) s
/-- `vabs` (R165). -/
def execVabs (d a : VR) (p : PR) (t : ITy) (s : State) : Out :=
  vecInt d a a p t (wrapped t (fun x _ => x.natAbs)) s
/-- `vneg` (R165). -/
def execVneg (d a : VR) (p : PR) (t : ITy) (s : State) : Out := vecInt d a a p t (wrapped t (fun x _ => -x)) s
/-- `vadds` (R165). -/
def execVadds (d a b : VR) (p : PR) (t : ITy) (s : State) : Out := vecInt d a b p t (saturated t (fun x y => x + y)) s
/-- `vsubs` (R165). -/
def execVsubs (d a b : VR) (p : PR) (t : ITy) (s : State) : Out := vecInt d a b p t (saturated t (fun x y => x - y)) s
/-- `vmulh` (R165). -/
def execVmulh (d a b : VR) (p : PR) (t : ITy) (s : State) : Out :=
  vecInt d a b p t (wrapped t (fun x y => x * y / (2 ^ laneW t : Nat))) s
/-- `vavg` (R165). -/
def execVavg (d a b : VR) (p : PR) (t : ITy) (s : State) : Out :=
  vecInt d a b p t (wrapped t (fun x y => (x + y + 1) / 2)) s

/-! ### Floating arithmetic (R163, R166) -/

/-- The lanes in their order, each with the random value of its step when the instruction rounds stochastically (R92, R163): what
they come to, and the strand's generator afterwards. -/
def runLanes (steps : Bool) (f : Nat → Nat → Lane) : List Nat → Slot → List (Nat × Lane) × Slot
  | [], t => ([], t)
  | i :: is, t =>
    let (u, t1) := if steps then t.roll else (0, t)
    let (r, t2) := runLanes steps f is t1
    ((i, f i u) :: r, t2)

/-- The flags of lanes (R88). -/
def laneFlags (ls : List (Nat × Lane)) : Nat := ls.foldl (fun a l => a ||| l.2.flags) 0

/-- How element-wise lanes of a format handle subnormals (R93). -/
def Slot.subnOf (t : Slot) (f : FFmt) : Nat :=
  if f = fmtF64 ∨ f = fmtF32 then (if bit t.fpmode.toNat 4 then 1 else 0) else 2

/-- An element-wise floating instruction: active lanes, or the assist for all of them (R93, R163). -/
def vecFp (d : VR) (p : PR) (t : FTy) (rounds : Bool) (f : FFmt → Ctl → (Nat → Nat) → Nat → Lane) (srcs_ : Slot → Nat → Nat → Nat)
    (s : State) : Out :=
  issue 4 (do
    vectorUnit
    let r ← me
    let fm := laneFmt t
    let subn := r.subnOf fm
    let is := activeLanes (r.preg p.val) fm.width (laneCount fm.width)
    let one (i u : Nat) : Lane := f fm (r.ctl subn u) (srcs_ r i) i
    let (ls, r') := runLanes (rounds && r.stochastic) one is r
    if subn = 1 && ls.any (fun l => l.2.assist) then enterAssist 4
    else
      let v := setLanes fm.width (r.vreg d.val) (ls.map (fun l => (l.1, l.2.pat)))
      modS (fun s => s.modCur (fun _ => (r'.raise (laneFlags ls)).setV d.val v))
      return .next) s

/-- The lanes of VA (0), VB (1) and the old VD (2). -/
def lanesOf3 (d a b : VR) (t : FTy) (r : Slot) (i k : Nat) : Nat :=
  lane (r.vreg (if k = 0 then a.val else if k = 1 then b.val else d.val)) (laneFmt t).width i

/-- `vfadd` (R166). -/
def execVfadd (d a b : VR) (p : PR) (t : FTy) (s : State) : Out :=
  vecFp d p t true (fun f c x _ => fAdd f c false (x 0) (x 1)) (lanesOf3 d a b t) s
/-- `vfsub` (R166). -/
def execVfsub (d a b : VR) (p : PR) (t : FTy) (s : State) : Out :=
  vecFp d p t true (fun f c x _ => fAdd f c true (x 0) (x 1)) (lanesOf3 d a b t) s
/-- `vfmul` (R166). -/
def execVfmul (d a b : VR) (p : PR) (t : FTy) (s : State) : Out :=
  vecFp d p t true (fun f c x _ => fMul f c (x 0) (x 1)) (lanesOf3 d a b t) s
/-- `vfdiv` (R166). -/
def execVfdiv (d a b : VR) (p : PR) (t : FTy) (s : State) : Out :=
  vecFp d p t true (fun f c x _ => fDiv f c (x 0) (x 1)) (lanesOf3 d a b t) s
/-- `vfma` (R166). -/
def execVfma (d a b : VR) (p : PR) (t : FTy) (s : State) : Out :=
  vecFp d p t true (fun f c x _ => fMa f c (x 0) (x 1) (x 2)) (lanesOf3 d a b t) s
/-- `vfmin` (R166). -/
def execVfmin (d a b : VR) (p : PR) (t : FTy) (s : State) : Out :=
  vecFp d p t false (fun f c x _ => fSel f c false (x 0) (x 1)) (lanesOf3 d a b t) s
/-- `vfmax` (R166). -/
def execVfmax (d a b : VR) (p : PR) (t : FTy) (s : State) : Out :=
  vecFp d p t false (fun f c x _ => fSel f c true (x 0) (x 1)) (lanesOf3 d a b t) s
/-- `vfabs` (R166). -/
def execVfabs (d a : VR) (p : PR) (t : FTy) (s : State) : Out :=
  vecFp d p t false (fun f c x _ => fSign f c true (x 0)) (lanesOf3 d a a t) s
/-- `vfneg` (R166). -/
def execVfneg (d a : VR) (p : PR) (t : FTy) (s : State) : Out :=
  vecFp d p t false (fun f c x _ => fSign f c false (x 0)) (lanesOf3 d a a t) s
/-- `vfsqrt` (R166). -/
def execVfsqrt (d a : VR) (p : PR) (t : FTy) (s : State) : Out :=
  vecFp d p t true (fun f c x _ => fSqrt f c (x 0)) (lanesOf3 d a a t) s

/-! ### Compares, predicates, select (R167 to R169) -/

/-- Whether an order, −1, 0 or 1, satisfies a relation. -/
def relHolds (r : VRel) (o : Int) : Bool :=
  match r with
  | .eq => o == 0
  | .ne => o != 0
  | .lt => decide (o < 0)
  | .le => decide (o ≤ 0)
  | .gt => decide (0 < o)
  | .ge => decide (0 ≤ o)

/-- The predicate whose bits are those of the lanes listed (R167). -/
def predOf (w : Nat) (is : List Nat) : PReg :=
  .ofNat 32 (is.foldl (fun x i => x + (2 ^ (w / 8) - 1) * 2 ^ (w * i / 8)) 0)

/-- `vcmp` (R167). -/
def execVcmp (d : PR) (a b : VR) (p : PR) (t : ITy) (r : VRel) (s : State) : Out :=
  issue_ 4 (do
    vectorUnit
    let m ← me
    let w := laneW t
    let cmp (i : Nat) : Int :=
      let x := valOf t (lane (m.vreg a.val) w i)
      let y := valOf t (lane (m.vreg b.val) w i)
      if x < y then -1 else if x = y then 0 else 1
    let is := (activeLanes (m.preg p.val) w (laneCount w)).filter (fun i => relHolds r (cmp i))
    modS (fun s => s.modCur (fun t => t.setP d.val (predOf w is)))) s

/-- NV of a compare (R167): a signalling NaN, or any NaN in an ordering relation. -/
def cmpFlags (f : FFmt) (r : VRel) (x y : Nat) : Nat :=
  let a := f.unpack x
  let b := f.unpack y
  let ordering := match r with
    | .eq | .ne => false
    | .lt | .le | .gt | .ge => true
  if (a.isNan || b.isNan) && ordering then flNV else a.sig ||| b.sig

/-- `vfcmp` (R167). An unordered pair satisfies `ne` alone. -/
def execVfcmp (d : PR) (a b : VR) (p : PR) (t : FTy) (r : VRel) (s : State) : Out :=
  issue_ 4 (do
    vectorUnit
    let m ← me
    let f := laneFmt t
    let x (i : Nat) : Nat := lane (m.vreg a.val) f.width i
    let y (i : Nat) : Nat := lane (m.vreg b.val) f.width i
    let holds (i : Nat) : Bool :=
      let o := fCmp f (x i) (y i)
      if o = 2 then r == .ne else relHolds r o
    let act := activeLanes (m.preg p.val) f.width (laneCount f.width)
    let fl := act.foldl (fun z i => z ||| cmpFlags f r (x i) (y i)) 0
    modS (fun s => s.modCur (fun t => (t.raise fl).setP d.val (predOf f.width (act.filter holds))))) s

/-- `vsel` (R168). -/
def execVsel (d a b : VR) (p : PR) (t : ITy) (s : State) : Out :=
  issue_ 4 (do
    vectorUnit
    let m ← me
    let w := laneW t
    let x := m.vreg a.val
    modS (fun s => s.modCur (fun t => t.setV d.val (mapActive (m.preg p.val) w (m.vreg b.val) (fun i => lane x w i))))) s

/-- A predicate instruction (R169). -/
def predOp (d a b : PR) (f : PReg → PReg → PReg) (s : State) : Out :=
  issue_ 4 (do
    vectorUnit
    modS (fun s => s.modCur (fun t => t.setP d.val (f (t.preg a.val) (t.preg b.val))))) s

/-- `pand` (R169). -/
def execPand (d a b : PR) (s : State) : Out := predOp d a b (fun x y => x &&& y) s
/-- `por` (R169). -/
def execPor (d a b : PR) (s : State) : Out := predOp d a b (fun x y => x ||| y) s
/-- `pxor` (R169). -/
def execPxor (d a b : PR) (s : State) : Out := predOp d a b (fun x y => x ^^^ y) s

/-! ### Permute and lane access (R170) -/

/-- `vperm` (R170). -/
def execVperm (d a b : VR) (p : PR) (t : ITy) (s : State) : Out :=
  issue_ 4 (do
    vectorUnit
    let m ← me
    let w := laneW t
    let x := m.vreg a.val
    let y := m.vreg b.val
    let v := mapActive (m.preg p.val) w (m.vreg d.val) (fun i => lane x w (lane y w i % laneCount w))
    modS (fun s => s.modCur (fun t => t.setV d.val v))) s

/-- `vbcast` (R170). -/
def execVbcast (d : VR) (a : CR) (p : PR) (t : ITy) (s : State) : Out :=
  issue_ 4 (do
    dirs [a] []
    vectorUnit
    let x ← src a
    let m ← me
    let v := mapActive (m.preg p.val) (laneW t) (m.vreg d.val) (fun _ => x.lo)
    modS (fun s => s.modCur (fun t => t.setV d.val v))) s

/-- `vins` (R170). -/
def execVins (d : VR) (a b : CR) (p : PR) (t : ITy) (s : State) : Out :=
  issue_ 4 (do
    dirs [a, b] []
    vectorUnit
    let x ← src a
    let y ← src b
    let m ← me
    let w := laneW t
    let k := y.lo % laneCount w
    if active (m.preg p.val) w k then
      modS (fun s => s.modCur (fun t => t.setV d.val (setLane w (m.vreg d.val) k x.lo)))) s

/-- A lane as `vext` delivers it (R170). -/
def extLane (t : ITy) (x : Nat) : CReg := plain (bitsN (valOf t x) 64)

/-- `vext` (R170). -/
def execVext (d : CR) (a : VR) (b : CR) (t : ITy) (s : State) : Out :=
  issue_ 4 (do
    dirs [b] [d]
    vectorUnit
    let y ← src b
    let m ← me
    dst d (extLane t (lane (m.vreg a.val) (laneW t) (y.lo % laneCount (laneW t))))) s

/-! ### Reductions (R171, R100) -/

/-- An integer reduction. -/
def redInt (d : CR) (a : VR) (p : PR) (t : ITy) (f : List Int → Int) (s : State) : Out :=
  issue_ 4 (do
    dirs [] [d]
    vectorUnit
    let m ← me
    let w := laneW t
    let xs := (activeLanes (m.preg p.val) w (laneCount w)).map (fun i => valOf t (lane (m.vreg a.val) w i))
    dst d (plain (bitsN (f xs) 64))) s

/-- `vredadd` (R171). -/
def execVredadd (d : CR) (a : VR) (p : PR) (t : ITy) (s : State) : Out :=
  redInt d a p t (fun xs => xs.foldl (fun x y => x + y) 0) s

/-- `vredmin` (R171). -/
def execVredmin (d : CR) (a : VR) (p : PR) (t : ITy) (s : State) : Out :=
  redInt d a p t (fun xs => xs.foldl (fun x y => if x ≤ y then x else y) (intHi (laneW t) t.signed)) s

/-- `vredmax` (R171). -/
def execVredmax (d : CR) (a : VR) (p : PR) (t : ITy) (s : State) : Out :=
  redInt d a p t (fun xs => xs.foldl (fun x y => if x ≤ y then y else x) (intLo (laneW t) t.signed)) s

/-- The format d of a floating reduction (R171). -/
def redFmt (t : FTy) : FFmt := if t = .f64 then fmtF64 else fmtF32

/-- A value widened exactly to d; a NaN moves as a conversion moves it (R94, R171). -/
def widen (f g : FFmt) (c : Ctl) (x : Nat) : Lane :=
  match f.unpack x with
  | .nan neg q p => ⟨nancOf g c (convNan f g neg p), if q then 0 else flNV, false⟩
  | .inf neg => ⟨g.sign neg + g.inf, 0, false⟩
  | .num neg m e => ⟨(roundTo g c neg m e).1, 0, false⟩

/-- The lesser or the greater of lanes, in their order (R171). -/
def redSel (f g : FFmt) (c : Ctl) (greater : Bool) (xs : List Nat) : Lane :=
  match xs with
  | [] => ⟨g.sign greater + g.inf, 0, false⟩
  | x :: xs =>
    let r := xs.foldl (fun (r : Nat × Nat) y =>
      let l := fSel f c greater r.1 y
      (l.pat, r.2 ||| l.flags)) (x, 0)
    let w := widen f g c r.1
    ⟨w.pat, r.2 ||| w.flags, false⟩

/-- The sum of lanes (R100): an invalid sum, or the first NaN, or `round_to` of S. -/
def redSum (f g : FFmt) (c : Ctl) (xs : List Nat) : Lane :=
  let vs := xs.map f.unpack
  let fl := vs.foldl (fun z v => z ||| v.sig) 0
  let win := if g = fmtF64 then 108 else 44
  if vs.contains (.inf false) && vs.contains (.inf true) then ⟨g.nan, fl ||| flNV, false⟩
  else match firstNan vs with
    | some p =>
      let w := widen f g c p
      ⟨w.pat, fl ||| w.flags, false⟩
    | none => match passSum win vs with
      | .nan => ⟨g.nan, fl ||| flNV, false⟩
      | .inf neg => ⟨g.sign neg + g.inf, fl, false⟩
      | .num neg m e =>
        let l := roundLane g c (neg, m, e) fl false
        { l with assist := false }

/-- A floating reduction. -/
def redFp (d : CR) (a : VR) (p : PR) (t : FTy) (steps : Bool) (f : FFmt → FFmt → Ctl → List Nat → Lane) (s : State) : Out :=
  issue_ 4 (do
    dirs [] [d]
    vectorUnit
    let m ← me
    let fm := laneFmt t
    let xs := (activeLanes (m.preg p.val) fm.width (laneCount fm.width)).map (fun i => lane (m.vreg a.val) fm.width i)
    let (u, m') := if steps && m.stochastic then m.roll else (0, m)
    let r := f fm (redFmt t) (m.ctl 2 u) xs
    modS (fun s => s.modCur (fun t => { t with seed := m'.seed }.raise r.flags))
    dst d (plain r.pat)) s

/-- `vfredadd` (R100, R171). -/
def execVfredadd (d : CR) (a : VR) (p : PR) (t : FTy) (s : State) : Out := redFp d a p t true redSum s

/-- `vfredmin` (R171). -/
def execVfredmin (d : CR) (a : VR) (p : PR) (t : FTy) (s : State) : Out :=
  redFp d a p t false (fun f g c xs => redSel f g c false xs) s

/-- `vfredmax` (R171). -/
def execVfredmax (d : CR) (a : VR) (p : PR) (t : FTy) (s : State) : Out :=
  redFp d a p t false (fun f g c xs => redSel f g c true xs) s

end Sys2Proof.Machine
end

