-- ==== Sys2Proof/Machine/Convert.lean ====
section
/-! DEFINITION. Conversions (R95 to R97, R172 to R175): `vcvt`, and the MX blocks of `vmxq` and `vmxd`. All are governed by
p7. -/

namespace Sys2Proof.Machine

/-- A format of a conversion (R62): floating, or an integer of a width with or without sign. MXINT8 elements stand apart. -/
inductive Kind where
  | fp (f : FFmt)
  | int (w : Nat) (signed : Bool)
deriving DecidableEq, Repr

/-- The format of a code (R62, R86). MXINT8 is an 8-bit integer that counts in steps of 2^−6. -/
def kindOfFmt (f : Fmt) : Kind :=
  match f with
  | .f64 => .fp fmtF64 | .f32 => .fp fmtF32 | .f16 => .fp fmtF16 | .bf16 => .fp fmtBF16
  | .e4m3 => .fp fmtE4M3 | .e5m2 => .fp fmtE5M2 | .e2m3 => .fp fmtE2M3 | .e3m2 => .fp fmtE3M2 | .e2m1 => .fp fmtE2M1
  | .mxi8 => .int 8 true
  | .i8 => .int 8 true | .n8 => .int 8 false | .i4 => .int 4 true | .n4 => .int 4 false
  | .i64 => .int 64 true | .n64 => .int 64 false

/-- The lane width of a format: 6-bit elements take 8-bit lanes (R27). -/
def fmtLane (f : Fmt) : Nat :=
  match kindOfFmt f with
  | .int w _ => w
  | .fp f => if f.width = 6 then 8 else f.width

/-- One lane of `vcvt` (R95). -/
def convLane (to_ from_ : Kind) (c : Ctl) (x : Nat) : Lane :=
  match from_, to_ with
  | .fp f, .fp g => convFF f g c x
  | .fp f, .int w sg => convFI f w sg c x
  | .int w sg, .fp g => convIF w sg g c x
  | .int w sg, .int w' sg' => clampInt w' sg' (intVal w sg x) 0

/-- `vcvt` (R173): the lesser count of lanes; destination lanes beyond it become zero; FP32 to FP64 and back may enter the assist
(R93). -/
def execVcvt (d a : VR) (to_ from_ : Fmt) (s : State) : Out :=
  issue 4 (do
    vectorUnit
    let r ← me
    let ws := fmtLane from_
    let wd := fmtLane to_
    let n := min (laneCount ws) (laneCount wd)
    let wide := (from_ == .f32 && to_ == .f64) || (from_ == .f64 && to_ == .f32)
    let subn := if wide then r.subnOf fmtF32 else 2
    let x := r.vreg a.val
    let one (i u : Nat) : Lane := convLane (kindOfFmt to_) (kindOfFmt from_) (r.ctl subn u) (lane x ws i)
    let (ls, r') := runLanes r.stochastic one (activeLanes (r.preg 7) ws n) r
    if subn = 1 && ls.any (fun l => l.2.assist) then enterAssist 4
    else
      let rest := ((List.range (laneCount wd)).filter (fun i => decide (n ≤ i))).map (fun i => (i, 0))
      let v := setLanes wd (setLanes wd (r.vreg d.val) rest) (ls.map (fun l => (l.1, l.2.pat)))
      modS (fun s => s.modCur (fun _ => (r'.raise (laneFlags ls)).setV d.val v))
      return .next) s

/-! ### MX blocks (R96, R97, R174, R175) -/

/-- The exponent of an element format's largest normal value (R96). -/
def emaxOf (f : Fmt) : Int :=
  match f with
  | .e4m3 => 8 | .e5m2 => 15 | .e3m2 => 4 | .e2m3 => 2 | .e2m1 => 2
  | .f64 | .f32 | .f16 | .bf16 | .mxi8 | .i8 | .n8 | .i4 | .n4 | .i64 | .n64 => 0

/-- Where element i of a block stands in a group of r registers: which register, and which lane (R174). -/
def blockSpot (r i : Nat) : Nat × Nat := (i / (32 / r), i % (32 / r))

/-- A register of a group, its members taken modulo 16 (R181). -/
def groupReg (v : VR) (k : Nat) : Nat := (v.val + k) % 16

/-- An element that is rounded and then kept within its format (R91, R96). DESIGN CHOICE (log 56): R96 gives MXINT8 no smallest normal
number, so an inexact MXINT8 element raises IX and never UF. -/
def mxElement (to_ : Fmt) (c : Ctl) (neg : Bool) (m : Nat) (e : Int) : Lane :=
  let c := { c with subn := 2 }
  match kindOfFmt to_ with
  | .fp f =>
    let l := roundLane f { c with sat := true } (neg, m, e) 0 false
    { l with assist := false }
  | .int w _ =>
    let (k, ix) := roundMag c neg m e (-6)
    let top := 2 ^ (w - 1) - 1
    if top < k then ⟨bitsN (if neg then -(top : Int) else top) w, flOF ||| flIX ||| flSA, false⟩
    else ⟨bitsN (if neg then -(k : Int) else k) w, if ix then flIX else 0, false⟩

/-- Signed zero of an element (R96); MXINT8 has one zero. -/
def mxZero (to_ : Fmt) (neg : Bool) : Nat :=
  match kindOfFmt to_ with
  | .fp f => f.sign neg
  | .int _ _ => 0

/-- The exponent of the leading bit of a magnitude. -/
def floorLog (m : Nat) (e : Int) : Int := (Nat.log2 m : Int) + e

/-- The scale of a block that is neither special nor zero (R96). -/
def mxScale (to_ : Fmt) (lead : Int) : Nat :=
  let x := lead - emaxOf to_ + 127
  (sat x 0 254).toNat

/-- A quantised block (R96): the scale, each element, and the flags. `us` are the random values of the elements' steps. -/
def quantise (to_ : Fmt) (c : Ctl) (vs : List FVal) (us : List Nat) : Nat × List Nat × Nat :=
  let special := vs.any (fun v => match v with
    | .nan _ _ _ => true
    | .inf _ => true
    | .num _ _ _ => false)
  if special then (255, vs.map (fun _ => 0), flNV)
  else match maxLead vs with
    | none => (127, vs.map (fun v => mxZero to_ (isNegZero v)), 0)
    | some lead =>
      let x := mxScale to_ lead
      let one (p : FVal × Nat) : Lane := match p.1 with
        | .num neg m e => if m = 0 then ⟨mxZero to_ neg, 0, false⟩ else mxElement to_ { c with u := p.2 } neg m (e - ((x : Int) - 127))
        | .inf _ => ⟨0, 0, false⟩
        | .nan _ _ _ => ⟨0, 0, false⟩
      let els := (vs.zip us).map one
      (x, els.map (fun l => l.pat), els.foldl (fun z l => z ||| l.flags) 0)

/-- Generator steps for a list of elements: a random value for each that is active (R96). -/
def stepsFor : List Bool → Slot → List Nat × Slot
  | [], t => ([], t)
  | b :: bs, t =>
    let (u, t1) := if b then t.roll else (0, t)
    let (us, t2) := stepsFor bs t1
    (u :: us, t2)

/-- Whether element i of a block in a group of r registers of lanes of width w is active (R172, R174). -/
def blockActive (p : PReg) (r w i : Nat) : Bool := active p w (blockSpot r i).2

/-- `vmxq` (R174). -/
def execVmxq (d a : VR) (to_ from_ : Fmt) (s : State) : Out :=
  issue_ 4 (do
    vectorUnit
    let t ← me
    let r := from_.group
    let w := fmtLane from_
    let f := match kindOfFmt from_ with
      | .fp f => f
      | .int _ _ => fmtF32
    let act := (List.range 32).map (fun i => blockActive (t.preg 7) r w i)
    let vs := (List.range 32).map (fun i =>
      if act.getD i false then f.unpack (lane (t.vreg (groupReg a (blockSpot r i).1)) w (blockSpot r i).2) else .num false 0 0)
    let (us, t') := if t.stochastic then stepsFor act t else (act.map (fun _ => 0), t)
    let (x, els, fl) := quantise to_ (t.ctl 2 0) vs us
    let we := fmtLane to_
    let v := setLanes we 0 ((List.range 32).zip els)
    modS (fun s => s.modCur (fun _ => ((t'.raise fl).setV (groupReg d 0) v).setV (groupReg d 1) (.ofNat 256 x)))) s

/-- One element decoded (R97). -/
def mxDecode (to_ from_ : Fmt) (c : Ctl) (x e : Nat) : Lane :=
  let g := match kindOfFmt to_ with
    | .fp g => g
    | .int _ _ => fmtF32
  let q : Int := (x : Int) - 127
  if x = 255 then ⟨g.nan, flNV, false⟩
  else match kindOfFmt from_ with
    | .fp f => match f.unpack e with
      | .nan neg quiet p => ⟨nancOf g c (convNan f g neg p), if quiet then 0 else flNV, false⟩
      | .inf neg => ⟨g.sign neg + g.inf, 0, false⟩
      | .num neg m k => roundLane g c (neg, m, k + q) 0 false
    | .int w _ =>
      let v := sintN e w
      roundLane g c (decide (v < 0), v.natAbs, q - 6) 0 false

/-- `vmxd` (R175). -/
def execVmxd (d a : VR) (to_ from_ : Fmt) (s : State) : Out :=
  issue_ 4 (do
    vectorUnit
    let t ← me
    let r := to_.group
    let w := fmtLane to_
    let els := t.vreg (groupReg a 0)
    let x := lane (t.vreg (groupReg a 1)) 8 0
    let is := (List.range 32).filter (fun i => blockActive (t.preg 7) r w i)
    let (ls, t') := runLanes t.stochastic (fun i u => mxDecode to_ from_ (t.ctl 2 u) x (lane els (fmtLane from_) i)) is t
    let put (t : Slot) (l : Nat × Lane) : Slot :=
      let k := groupReg d (blockSpot r l.1).1
      t.setV k (setLane w (t.vreg k) (blockSpot r l.1).2 l.2.pat)
    modS (fun s => s.modCur (fun _ => ls.foldl put (t'.raise (laneFlags ls))))) s

end Sys2Proof.Machine
end

