-- ==== Sys2Proof/Machine/Strand.lean ====
section
/-! DEFINITION. Helper strands and pairs (R155 to R157). -/

namespace Sys2Proof.Machine

/-- A handle (R155). -/
def handleOf (serial : Nat) (isPair : Bool) (slot : Nat) : CReg :=
  plain (field serial 8 24 + field isPair.toNat 6 2 + field slot 0 4)

/-- The argument registers of a start: none for FB 0 (R155). -/
def argRegs (b : CR) : List CR := if b.val = 0 then [] else payRegs b 4

/-- The registers of a helper (R18, R89): the arguments in c1 to c4, FPMODE of the parent, and the given generator state. -/
def helperSlot (t : Slot) (args : List CReg) (code : CReg) (seed serial : Nat) : Slot :=
  let regs := ((List.range 4).zip args).foldl (fun r (i, v) => putT r (i + 1) v) ([] : Tab CReg)
  { Slot.vacant with kind := 1, asid := t.asid, c := regs, code := code, fpmode := t.fpmode, seed := .ofNat 64 seed,
                     serial := serial }

/-- `hstart` and `pair` as an action; `granted`: it is the turn of a start that has waited (R155, R277). -/
def startAct (d a b : CR) (isPair granted : Bool) : Act Flow := do
  let regs := argRegs b
  dirs (a :: regs) [d]
  let c ← src a
  let args ← srcs regs
  let s ← getS
  let t := s.cur
  if t.pair ≠ 0 then stopWith (capFault fCAP_PERM 3 0 0)
  let _ ← headed c (headCheck s c a.val 0 (fun _ => s.permFor c (kindOf c == 3)))
  let k := s.coreAt s.core
  let need := if isPair then 2 else 1
  match k.open_ with
  | [] => parkWith (fun s => s.modCore s.core (fun k => { k with starts := k.starts ++ [s.slot] })) .helper
  | i :: rest =>
    if 10 < k.helpers + need ∨ (isPair ∧ rest.isEmpty) ∨ (!granted ∧ !k.starts.isEmpty) then
      parkWith (fun s => s.modCore s.core (fun k => { k with starts := k.starts ++ [s.slot] })) .helper
    releaseMe .domain
    tickMe
    let x ← myClock
    let serial := (← myDom).serial % 2 ^ 24
    let g1 := xorStep t.seed.toNat
    modS (fun s => s.modCur (fun t => { t with seed := .ofNat 64 (xorStep g1) }))
    let h := helperSlot t args c g1 serial
    if isPair then
      let j := rest.headD 0
      modS (fun s => (s.startIn s.core i (some x) { h with pair := 1, partner := j }).startIn s.core j (some x)
        { h with pair := 2, partner := i })
    else modS (fun s => s.startIn s.core i (some x) h)
    modS (fun s => s.modCurDom (fun d =>
      { d with serial := (d.serial + 1) % 2 ^ 24, handles := d.handles ++ [⟨serial, isPair, i, none⟩] }))
    for (r, v) in regs.zip args do
      if isShade v then setRaw r CReg.zero
    dst d (handleOf serial isPair i)
    return .next

/-- `hstart` (R155). -/
def execHstart (d a b : CR) (s : State) : Out := issue 4 (startAct d a b false false) s

/-- `pair` (R155). -/
def execPair (d a b : CR) (s : State) : Out := issue 4 (startAct d a b true false) s

/-- The start that a slot's instruction is. -/
def startOf (i : Instr) : Option (Act Flow) :=
  match i with
  | .hstart d a b => some (startAct d a b false true)
  | .pair d a b => some (startAct d a b true true)
  | _ => none

/-- HELPER_START's work: the first waiting start takes its position and slot, if it can (R155, R277). -/
def State.startWaiting (s : State) (c : Nat) : State :=
  match (s.coreAt c).starts with
  | [] => s
  | i :: rest =>
    match (s.insnAt c i).bind startOf with
    | some act =>
      let k := s.coreAt c
      let need := match s.insnAt c i with
        | some (.pair ..) => 2
        | _ => 1
      if k.helpers + need ≤ 10 ∧ need ≤ k.open_.length then
        (s.modCore c (fun k => { k with starts := rest })).finishAt c i 4 act
      else s
    | none => s.modCore c (fun k => { k with starts := rest })

/-- A handle that a register names (R155, R156). DESIGN CHOICE (log 52): bits 63:32 of the register are not compared; bits 5:4 are. -/
def Domain.handleAt (d : Domain) (x : Nat) : Option Handle :=
  d.handles.find? (fun h => x % 2 ^ 32 == (handleOf h.serial h.isPair h.slot).lo)

/-- `hwait` (R156). -/
def execHwait (d a : CR) (s : State) : Out :=
  issue_ 4 (do
    if d.val = 0 then illegal
    dirs [a] [d]
    let x ← src a
    let v ← outside (do
      match (← myDom).handleAt x.lo with
      | none => return CReg.zero
      | some h => match h.ended with
        | none => waitFor (.handle h.serial)
        | some (r, clk) =>
          acquireMe clk
          modS (fun s => s.modCurDom (fun d => { d with handles := d.handles.filter (fun y => y.serial != h.serial) }))
          return r)
    dst d v) s

/-- The strand of a live helper is killed, in its slot or saved (R157, R291). -/
def State.killHelper (s : State) (c asid serial : Nat) : State :=
  let mine (t : Slot) : Bool := t.kind == 1 && t.asid == asid && t.serial == serial && t.pair != 2
  match (List.range 16).find? (fun i => (s.slotAt c i).state != .vacant && mine (s.slotAt c i)) with
  | some i => s.requestKill c i
  | none => match (s.coreAt c).tcc.find? (fun v => v.images.any mine) with
    | some v => s.killSaved c v.handle
    | none => s

/-- `hkill` (R157). -/
def execHkill (a : CR) (s : State) : Out :=
  issue_ 4 (do
    dirs [a] []
    let x ← src a
    effect [x] 0 (do
      let t ← me
      match (← myDom).handleAt x.lo with
      | some h => if h.ended.isNone then modS (fun s => s.killHelper s.core t.asid h.serial)
      | none => pure ())) s

end Sys2Proof.Machine
end

