-- ==== Sys2Proof/Machine/Turn.lean ====
section
/-! DEFINITION. What a turn does before the instruction's own meaning: cycles pass and are counted (R5, R274, R386), a
slot is chosen (R19), its instruction is fetched (R46, R112) and decoded. -/

namespace Sys2Proof.Machine

/-! ### Cycles (R274, R386) -/

/-- The counter class of a slot's state, as the base number of its counter (R274, R385). -/
def slotClass (x : SlotState) : Nat :=
  match x with
  | .ready => 0x010
  | .wait w => match w with
    | .reply _ _ | .line _ _ _ | .walk _ _ _ | .check _ | .tlb _ _ | .code _ | .edge _ | .transit _ | .commit => 0x020
    | .deferred _ | .retry _ | .anyTag _ | .allTags _ | .barrier _ _ | .port _ | .element _ | .bank _ | .engine _
    | .filled _ _ | .room _ _ | .queueBusy _ | .loop | .helper | .handle _ | .stores | .cleaning _ | .work
    | .allowance _ _ _ | .shuffle _ _ | .continuation | .pairing | .rebase | .contexts | .entry _ | .translation _
    | .scatter _ _ | .remote | .cancelled _ => 0x030
  | .frozen => 0x030
  | .vacant => 0x040
  | .swap => 0x040

/-- Count n cycles of one slot for one domain of its core: the class in which the slot began the cycle, or SLOT_ISSUED (R274, R386). s15
counts for a domain in the cycles in which it issues for it, and is vacant to every domain in the others (R386). -/
def State.countSlot (s : State) (c asid i n : Nat) : State :=
  let t := s.slotAt c i
  let issued := t.lastIssue == some s.time
  if i = 15 then s.count c asid ((if issued && (s.coreAt c).spilt.contains asid then 0x000 else 0x040) + i) n
  else if t.asid = asid then s.count c asid ((if issued then 0x000 else t.opening) + i) n
  else s.count c asid (0x040 + i) n

/-- Slots that hold READY strands of a domain: of s15, in a cycle in which it issues for the domain (R386). -/
def State.readyOf (s : State) (c asid : Nat) : Nat :=
  ((List.range 15).filter (fun i => (s.slotAt c i).asid == asid && (s.slotAt c i).opening == 0x010)).length
    + (if (s.slotAt c 15).lastIssue == some s.time && (s.coreAt c).spilt.contains asid then 1 else 0)

/-- Count n cycles of a domain: its sixteen slots and its READY histogram (R386). -/
def State.countDomain (s : State) (c asid n : Nat) : State :=
  let ready := s.readyOf c asid
  ((List.range 16).foldl (fun s i => s.countSlot c asid i n) s).count c asid (0x050 + ready) n

/-- Count n cycles of every domain. -/
def State.countAll (s : State) (n : Nat) : State :=
  s.domains.foldl (fun s d => s.countDomain (d.1 / 4096) (d.1 % 4096) n) s

/-! ### Eligible slots (R19, R118, R330) -/

/-- Whether a strand stands at a word of its loop (R183). -/
def Slot.inReplay (t : Slot) : Bool := t.loop.any (fun l => l.stopped)

/-- Whether the queues of a pair let a member issue: the leading one has room for values and effects, and the trailing one has not come
level with it, or has come level with it at an effect (R330, R331). -/
def State.pairFree (s : State) (c : Nat) (t : Slot) : Bool :=
  if t.pair = 1 then decide (t.lvq.length < 64) && decide (t.held.length < 32)
  else if t.pair = 2 then
    let l := s.slotAt c t.partner
    decide (t.retired < l.retired)
      || (t.retired == l.retired && l.state == .wait .pairing && l.held.getLast?.any (fun h => h.store.isNone))
  else true

/-- Whether a strand has cooled down since its last issue (R19). -/
def State.cool (s : State) (t : Slot) : Bool :=
  match t.lastIssue with
  | some x => decide (x + 4 ≤ s.time)
  | none => true

/-- Whether a slot is eligible in this cycle (R19): it holds a strand that was READY when the cycle began, and has cooled down. A slot
that awaits its swap issues nothing more (R290), nor does a strand that stands at a word of its loop. -/
def State.eligible (s : State) (c : Nat) (t : Slot) : Bool :=
  t.state == .ready && t.opening == 0x010 && !t.again && s.cool t && t.pend.out.isNone && !t.inReplay && s.pairFree c t

/-! ### Cycles (R5, R274, R386) -/

/-- Change every slot of every core. -/
def State.mapSlots (s : State) (f : Nat → Slot → Slot) : State :=
  { s with cores := s.cores.map (fun k => (k.1, { k.2 with slots := k.2.slots.map (fun t => (t.1, f k.1 t.2)) })) }

/-- A slot at the end of a cycle: a yield is spent by a slot that was eligible in it, whether it has issued or not, but for the one that
issued the yield in it (R118). -/
def State.spent (s : State) (c : Nat) (t : Slot) : Slot :=
  { t with yielded := t.yielded && (!s.eligible c t || t.lastIssue == some s.time) }

/-- A slot as it begins the next cycle: the class of its state; a member of a pair that its queues hold back has left the rotation (R20,
R330). -/
def State.opened (s : State) (c : Nat) (t : Slot) : Slot :=
  { t with opening := if t.state == .ready && !s.pairFree c t then 0x030 else slotClass t.state }

/-! ### s15 (R17, R18, R275, R282 to R285) -/

/-- Whether a record of a message can leave the heap: a held one needs its binding, its strand, or room in the held area (R283, R336). -/
def State.canReplay (s : State) (c : Nat) (r : HeapRec) : Bool :=
  match r with
  | .message m _ _ =>
    decide ((s.coreAt c).heldCount < 16) || s.carriesPoison m
      || (if m.form = 3 then (s.continueAt m).isSome else (s.domAt c m.dstCtx).bound m.cls)
  | .work _ => false

/-- Records of messages that a domain may replay: it is not stopped, the inbox has 16 free entries, and one of them can move (R283). -/
def State.replays (s : State) (c asid : Nat) : Bool :=
  let d := s.domAt c asid
  decide ((s.coreAt c).inbox.length ≤ 48) && !d.stopped && d.heap.any (s.canReplay c)

/-- Work records that a domain may replay: the list has room (R285). -/
def State.replaysWork (s : State) (c asid : Nat) : Bool := (s.domAt c asid).workRecs && decide ((s.coreAt c).work.length < 32)

/-- The domains of a core. -/
def State.domainsOf (s : State) (c : Nat) : List Nat := (s.domains.filter (fun d => d.1 / 4096 == c)).map (fun d => d.1 % 4096)

/-- The held messages at a core's network port that find the held area full (R278, R282). -/
def State.overflowing (s : State) (c : Nat) : List Msg :=
  if (s.coreAt c).heldCount < 16 then []
  else (s.arrivals c).filter (fun m => s.placed m && s.hasDom c m.dstCtx && !s.carriesPoison m
    && (if m.form = 3 then (s.continueAt m).isNone else !(s.domAt c m.dstCtx).bound m.cls))

/-- The oldest message of the inbox that has lost its binding before it claimed a slot, while the held area has no room for it (R278). -/
def State.unheld (s : State) (c : Nat) : Option InboxEntry :=
  if (s.coreAt c).heldCount < 16 then none
  else oldest ((s.coreAt c).inbox.filter (fun e =>
    !e.held && e.msg.form != 3 && !(s.domAt c e.msg.dstCtx).bound e.msg.cls && !(s.domAt c e.msg.dstCtx).stopped && !s.carriesPoison e.msg))

/-- A spill-out episode ends when at most 48 entries are in the inbox and no held message waits for room (R282). -/
def State.endEpisode (s : State) (c : Nat) : State :=
  if (s.coreAt c).episode ∧ (s.coreAt c).inbox.length ≤ 48 ∧ (s.overflowing c).isEmpty ∧ (s.unheld c).isNone then
    s.modCore c (fun k => { k with episode := false })
  else s

/-- The operation that s15 would issue: in an episode a spill, else a replay (R275, R282). -/
def State.spillOp (s : State) (c : Nat) : Option Instr :=
  if (s.coreAt c).episode then some (.spillOut c)
  else match (s.domainsOf c).find? (fun a => s.replays c a) with
    | some a => some (.spillReplay c a)
    | none => ((s.domainsOf c).find? (fun a => s.replaysWork c a)).map (fun a => .workReplay c a)

/-- Whether s15 has, or may yet have, something to do: an episode is on, or a heap holds records (R17, R275). -/
def State.spillBusy (s : State) (c : Nat) : Bool :=
  (s.coreAt c).episode || (s.domainsOf c).any (fun a => !(s.domAt c a).heap.isEmpty)

/-- The spill strand of a domain as the launch path has recorded it (R18, R89, R275): its heap's capability in c1, and in c2 the indices
of the heap, which are the numbers of records in it (log 61). -/
def State.spillStrand (s : State) (c asid : Nat) : Slot :=
  let d := s.domAt c asid
  { Slot.vacant with state := .ready, kind := 3, asid := asid, c := [(1, d.heapCap), (2, plain d.heap.length)], seed := 1 }

/-- s15 of a core starts when there is something to spill or to replay, and returns to idle when there is nothing (R17, R119, R275). It
is the strand of the first domain that has records, or of the oldest entry's. An episode that is over ends (R282). -/
def State.setSpill (s : State) (c : Nat) : State :=
  let s := s.endEpisode c
  let t := s.slotAt c 15
  if s.spillBusy c then
    if t.state = .vacant then
      let asid := ((s.domainsOf c).find? (fun a => !(s.domAt c a).heap.isEmpty)).getD
        (((s.coreAt c).inbox.head?.map (fun e => e.msg.dstCtx)).getD 0)
      s.modSlot c 15 (fun old => old.enter (s.spillStrand c asid))
    else s
  else if t.state = .ready then s.modSlot c 15 Slot.emptied
  else s

/-- s15 is eligible as any slot is, and when it has an operation to issue. -/
def State.spillReady (s : State) (c : Nat) : Bool := s.eligible c (s.slotAt c 15) && (s.spillOp c).isSome

/-! ### The choice of a slot (R19, R118) -/

/-- The slots after the last that issued, in rotation order (R19). -/
def rotation (last : Nat) : List Nat := (List.range 16).map (fun i => (last + 1 + i) % 16)

/-- Whether a core runs: it is in service, its cluster is powered and not halted, and the device has booted (R12, R338, R405). -/
def State.running (s : State) (c : Nat) : Bool :=
  let k := s.clusterAt (clusterOf c)
  s.booted && !(s.coreAt c).outOfService && k.power == 0 && !k.halted

/-- Whether a core may issue: it runs, and has not issued in this cycle (R19). -/
def State.mayIssue (s : State) (c : Nat) : Bool :=
  s.running c && (s.coreAt c).slots.all (fun p => p.2.lastIssue != some s.time)

/-- The slot that issues (R19): s15 when it is eligible and a spill is pending; else the first eligible slot in rotation order that does
not yield, or the first of all when every one yields (R118; DESIGN CHOICE for two of them, log 47). -/
def State.pickSlot (s : State) (c : Nat) : Option Nat :=
  let k := s.coreAt c
  let can (i : Nat) : Bool := if i = 15 then s.spillReady c else s.eligible c (k.slotAt i)
  if k.episode && s.spillReady c then some 15
  else
    let order := (rotation k.last).filter can
    match order.filter (fun i => !(k.slotAt i).yielded) with
    | j :: _ => some j
    | [] => order.head?

/-- A slot whose instruction has issued and is to be taken up again, its wait having ended (R20, R261). That is no issue. -/
def State.redoSlot (s : State) (c : Nat) : Option Nat :=
  (List.range 15).find? (fun i =>
    let t := s.slotAt c i
    t.again && t.state == .ready && t.lastIssue != some s.time && t.pend.out.isNone && !t.inReplay)

/-! ### Fetch (R46, R112) -/

/-- One parcel's address. -/
def fetchParcel (c : CReg) (e : Obj) (pc : Nat) (n : Nat) : Act Nat := do
  if e.length < pc + n then stopWith (capFault fCAP_BOUNDS 5 4 0 pc)
  if pc % 2 ≠ 0 then stopWith (capFault fALIGN 6 4 0 pc)
  checked (checkPoison e pc 4 0)
  until_ (!e.transit) (.transit (objOf c))
  flatAct (objOf c) (pc + n - 2)

/-- Fetch the instruction at pc: its length and pattern. -/
def fetch : Act (Nat × Nat) := do
  let s ← getS
  let c := s.cur.code
  let e ← headed c (checkHead s .fetch c false false 4 0)
  let pc := cursorOf c
  let a ← fetchParcel c e pc 2
  let lo := leNat (s.seen s.core 16 (objOf c) a 2)
  if lo < 2 ^ 15 then return (2, lo)
  else
    let b ← fetchParcel c e pc 4
    return (4, lo * 2 ^ 16 + leNat (s.seen s.core 16 (objOf c) b 2))

/-- The lines of its code object that an instruction of n bytes lies in and that the core's instruction cache does not hold. -/
def State.missing (s : State) (c i n : Nat) : List (Nat × Nat) :=
  let code := (s.slotAt c i).code
  ([(objOf code, lineOf (cursorOf code)), (objOf code, lineOf (cursorOf code + n - 1))] : List (Nat × Nat)).filter
    (fun x => !(s.coreAt c).icache.contains x)

/-- A line comes into a core's instruction cache of 512; a full one gives up a free line (R12, log 3). -/
def State.fillCode (s : State) (c : Nat) (x : Nat × Nat) : State :=
  let t := (s.coreAt c).icache
  if t.contains x then s
  else if t.length < 512 then s.modCore c (fun k => { k with icache := t ++ [x] })
  else (s.modCore c (fun k => { k with icache := t.eraseIdx (Config.victim s.fresh % 512) ++ [x] })).drawn

/-- What a turn of issue comes to: nothing, a strand stopped at its fetch, or an instruction to execute. -/
inductive Turned where
  | idle (s : State)
  | run (i : Instr) (s : State)

/-- The strand whose turn it is issues the pattern that it has fetched (R19, R118). -/
def State.fetched (s : State) (w : Nat) : State :=
  ({ s.modCore s.core (fun k => { k with last := s.slot }) with ir := w, busy := true }).modCur (fun t =>
    { t with lastIssue := some s.time, insn := w, yielded := false })

/-- The instruction that a pattern of n bytes stands for. -/
def insnOf (n w : Nat) : Instr :=
  match decodePattern n w with
  | .ok i => i
  | .error _ => .illegal (.ofNat 32 w) (n == 2)

/-- The strand whose turn it is waits before its instruction has issued, for its bytes (R20, R112). -/
def State.awaits (s : State) (w : Wait) : State := (s.modCur (fun t => { t with state := .wait w, insn := 0 })).askWalk s.core w

/-- The instruction that the chosen strand issues. A region failure recorded while the strand was frozen is taken first
(R129). A line that the instruction cache does not hold leaves the strand not ready until it has come, before it issues (R112). -/
def State.issueSlot (s : State) (c i : Nat) : Turned :=
  let t := s.slotAt c i
  let s := { s with core := c, slot := i, ir := 0, replaying := false }
  match t.region.bind (fun r => r.failed) with
  | some (code, dev) => .idle ((s.failRegionAt c i code dev).boundary c i)
  | none =>
    match fetch.run ⟨s, s, []⟩ with
    | .ok ((len, w), x) =>
      match x.st.missing c i len with
      | [] => .run (insnOf len w) (x.st.fetched w)
      | ls => .idle (x.st.awaits (.code ls))
    | .error (.freeze f) =>
      .idle (if t.loop.isSome then s.awaits .loop else ((s.fetched 0).freeze f).boundary c i)
    | .error (.wait w) => .idle (s.awaits w)
    | .error (.freezeIn s' f) => .idle (s'.freeze f)
    | .error (.park s' w) => .idle (s'.awaits w)
    | .error (.region _ _) => .idle s

/-- An instruction that has issued is taken up again (R20, R261). -/
def State.redo (s : State) (c i : Nat) : Turned :=
  let w := (s.slotAt c i).insn
  .run (insnOf (if w < 2 ^ 15 then 2 else 4) w) { s with core := c, slot := i, ir := w, replaying := false, busy := true }

/-- A core's turn of issue in this cycle (R19): an instruction whose wait has ended is taken up again, or a slot issues; s15 issues a
spill operation (R275). -/
def State.issueCore (s : State) (c : Nat) : Turned :=
  let s := { s with core := c }
  if s.running c then
    match s.redoSlot c with
    | some i => s.redo c i
    | none =>
      if s.mayIssue c then
        match s.pickSlot c with
        | some i =>
          if i = 15 then
            match s.spillOp c with
            | some x => .run x s
            | none => .idle s
          else s.issueSlot c i
        | none => .idle s
      else .idle s
  else .idle s

end Sys2Proof.Machine
end

