-- ==== Sys2Proof/Machine/EvStrand.lean ====
section
/-! DEFINITION. Steps of a core's own hardware: starts, message arrivals and claims (R155, R270, R277), spilling and replay (R282,
R283, R285), levelling (R286), and requests about strands: pre-emption, stops, control, the cross-trigger, and the comparator of a
pair (R279, R289, R290, R325, R331, R338). -/

namespace Sys2Proof.Machine

/-! ### Starts (R155, R277) -/

/-- HELPER_START (R155). -/
def execHelperStart (core : Nat) (s : State) : Out := .next (s.startWaiting core)

/-- Slots that waiting starts take before a claim: those that have their helper positions (R17, R277). -/
def State.reserved (s : State) (c : Nat) : Nat :=
  let needs := (s.coreAt c).starts.map (fun i => match s.insnAt c i with
    | some (.pair ..) => 2
    | _ => 1)
  (needs.foldl (fun (x : Nat × Bool) n =>
    if x.2 && decide ((s.coreAt c).helpers + x.1 + n ≤ 10) then (x.1 + n, true) else (x.1, false)) (0, true)).1

/-! ### Messages (R277, R278) -/

/-- MESSAGE_ARRIVAL (R277): one of the messages at a core's network port arrives; `pick` says which source's. A halted cluster leaves
them there (R338), and a cluster in a low state at its edge (R405). -/
def execMessageArrival (core pick : Nat) (s : State) : Out :=
  let k := s.clusterAt (clusterOf core)
  let ms := (s.arrivals core).filter (fun m => s.placed m)
  .next (if k.halted ∨ k.power ≠ 0 then s
    else match ms[pick % ms.length]? with
      | some m => let s' := s.arrive m
                  s'.launchNet s'.net.length
      | none => s)

/-- The objects of an accepted message go back to its sender, as it is bounced after all (R233, R284, R336). -/
def State.undeliver (s : State) (m : Msg) : State :=
  let inDom := m.srcDev == m.dstDev && m.srcCore == m.dstCore && m.srcCtx == m.dstCtx
  if m.form = 6 ∨ m.form = 4 ∨ m.form = 5 ∨ inDom then s
  else (m.pay.filter isOwn).foldl (fun s c =>
    if genCurrent (s.objAt (objOf c)) (genOf c) then s.setOwner (objOf c) m.srcDev m.srcCore m.srcCtx else s) s

/-- An accepted message is bounced. -/
def State.refuseLate (s : State) (m : Msg) : State :=
  let s' := (s.undeliver m).refuse m
  s'.launchNet s'.net.length

/-- An inbox entry goes to its domain's heap as it stands, in its place in arrival order; a full heap bounces it, and informs the
supervisor (R278, R282, R284). The record counts for the domain whose message began the episode (R387; DEDUCED, log 28). -/
def State.spill (s : State) (e : InboxEntry) (held : Bool) : State :=
  if (s.domAt e.msg.dstCore e.msg.dstCtx).heapRoom then s.toHeap e.msg held e.order (s.coreAt e.msg.dstCore).episodeBy
  else (s.refuseLate e.msg).heapFull e.msg

/-- The oldest message that may claim a slot, or that is judged no longer eligible now (R277, R278): its domain is not stopped; one that has
lost its binding and finds the held area full awaits a spill. -/
def State.claimant (s : State) (core : Nat) : Option InboxEntry :=
  let k := s.coreAt core
  oldest (k.inbox.filter (fun e => !e.held && !(s.domAt core e.msg.dstCtx).stopped
    && ((s.domAt core e.msg.dstCtx).bound e.msg.cls || decide (k.heldCount < 16) || s.carriesPoison e.msg)))

/-- A message that has lost its binding finds the held area full: a spill-out episode begins (R278, R282). -/
def State.overflowHeld (s : State) (core : Nat) : State :=
  match s.unheld core with
  | some e => s.modCore core (fun k => { k with episode := true, episodeBy := if k.episode then k.episodeBy else e.msg.dstCtx })
  | none => s

/-- MESSAGE_CLAIM (R277): the oldest eligible message of a domain that is not stopped claims the lowest vacant slot that the starts
leave. One of a poisoned object is refused (R336); one whose class has lost its binding is held again (R278). -/
def execMessageClaim (core : Nat) (s : State) : Out :=
  let k := s.coreAt core
  let s0 := s.overflowHeld core
  .next (match s.claimant core with
    | none => s0
    | some e =>
      let s1 := s0.modCore core (fun k => { k with inbox := k.inbox.erase e })
      if s.carriesPoison e.msg then s1.refuseLate e.msg
      else if !(s.domAt core e.msg.dstCtx).bound e.msg.cls then
        s0.modCore core (fun k => { k with inbox := k.inbox.map (fun x => if x.order == e.order then { x with held := true } else x) })
      else match k.open_.drop (s.reserved core) with
        | i :: _ => s1.claimSlot core i e.msg
        | [] => s0)

/-- CONTROL_STRAND_ENTRY (R270): the oldest control strand that waits in the thread-context cache enters s0, once s0 is vacant and the
commands of the old holder have completed (R184). -/
def execControlStrandEntry (core : Nat) (s : State) : Out :=
  .next (match (s.coreAt core).tcc.find? Saved.starting with
    | none => s
    | some v =>
      if (s.slotAt core 0).state = .vacant ∧ !s.e0Busy core v.asid then
        let s := (s.takeMatrix core v.asid).modCore core (fun k => { k with tcc := k.tcc.filter (fun x => x.handle != v.handle) })
        s.startIn core 0 none (v.images.headD Slot.vacant)
      else s)

/-! ### The spill strand (R275, R282 to R285) -/

/-- Whether s15 may issue an operation: the core may issue, s15 is chosen, and the operation is its next (R19, R275, R282). -/
def State.maySpill (s : State) (c : Nat) (op : Instr) : Bool :=
  s.mayIssue c && s.pickSlot c == some 15 && s.spillOp c == some op

/-- A spill operation takes an issue turn of s15, for domains (R275, R386). -/
def State.spillTurn (s : State) (c : Nat) (asids : List Nat) : State :=
  ({ s.modCore c (fun k => { k with last := 15, spilt := asids }) with busy := true }).modSlot c 15 (fun t =>
    { t with lastIssue := some s.time })

/-- The spill operation of this turn is for a domain as well. -/
def State.spiltFor (s : State) (c asid : Nat) : State := s.modCore c (fun k => { k with spilt := putN k.spilt asid })

/-- One entry leaves for its heap: a held message at the network port that has no room, or one that lost its binding, else the inbox's
oldest while more than 48 are there (R278, R282). -/
def State.spillOne (s : State) (c : Nat) : State :=
  let out (e : InboxEntry) (held : Bool) : State :=
    ((s.modCore c (fun k => { k with inbox := k.inbox.erase e })).spill e held).spiltFor c e.msg.dstCtx
  match s.overflowing c with
  | m :: _ => (({ s with net := dropMsg s.net m }).acceptHeap m true).spiltFor c m.dstCtx
  | [] => match s.unheld c with
    | some e => out e true
    | none => match oldest (s.coreAt c).inbox with
      | some e => if 48 < (s.coreAt c).inbox.length then out e e.held else s
      | none => s

/-- SPILL_OUT (R282): up to four entries, oldest first, go to their domains' heaps; the episode ends when at most 48 are left and no
held message waits. -/
def execSpillOut (core : Nat) (s : State) : Out :=
  .next (if s.maySpill core (.spillOut core) then
      ((((s.spillTurn core []).spillOne core).spillOne core |>.spillOne core).spillOne core).endEpisode core
    else s)

/-- A message record re-enters the inbox, if it can (R283, R336). -/
def State.replayOne (s : State) (c : Nat) (m : Msg) (held : Bool) (order : Nat) : Option State :=
  let d := s.domAt c m.dstCtx
  let gone (s : State) : State := s.setHeap c m.dstCtx (fun h => h.erase (.message m held order))
  let enter (h : Bool) : State := (gone s).modCore c (fun k => { k with inbox := k.inbox ++ [⟨m, h, order⟩] })
  if s.carriesPoison m then some ((gone s).refuseLate m)
  else match (if m.form = 3 then s.continueAt m else none) with
    | some s' => some (gone s')
    | none =>
      if m.form != 3 && d.bound m.cls then some (enter false)
      else if (s.coreAt c).heldCount < 16 then some (enter true)
      else none

/-- Records in their order, until n of them have moved: a held one without room stays in its place (R283). -/
def State.replayAll (s : State) (c : Nat) : Nat → List HeapRec → State
  | _, [] => s
  | 0, _ => s
  | n + 1, r :: rs => match r with
    | .message m h k => match s.replayOne c m h k with
      | some s' => s'.replayAll c n rs
      | none => s.replayAll c (n + 1) rs
    | .work _ => s.replayAll c (n + 1) rs

/-- SPILL_REPLAY (R283): up to four of a domain's oldest message records come back, when the inbox has 16 free entries and the domain is
not stopped. -/
def execSpillReplay (core asid : Nat) (s : State) : Out :=
  let d := s.domAt core asid
  .next (if s.maySpill core (.spillReplay core asid) then
      (s.spillTurn core [asid]).replayAll core 4 d.heap
    else s)

/-- Work records of a domain, oldest first. -/
def Domain.workList (d : Domain) : List WorkEntry :=
  d.heap.filterMap (fun r => match r with
    | .work w => some w
    | .message .. => none)

/-- WORK_REPLAY (R285): up to four of a domain's oldest work records go to the list's tail, as far as it has room. -/
def execWorkReplay (core asid : Nat) (s : State) : Out :=
  let d := s.domAt core asid
  let ws := d.workList.take (min 4 (32 - (s.coreAt core).work.length))
  let move (s : State) (w : WorkEntry) : State :=
    (s.setHeap core asid (fun h => h.erase (.work w))).modCore core (fun k => { k with work := k.work ++ [w] })
  .next (if s.maySpill core (.workReplay core asid) then ws.foldl move (s.spillTurn core [asid]) else s)

/-! ### Levelling (R286) -/

/-- The neighbours of a core in its cluster: north, east, south, west (R13). -/
def gridNeighbours (core : Nat) : List Nat :=
  let base := core / 32 * 32
  let k := core % 32
  let r := k / 6
  let c := k % 6
  (if 0 < r then [base + k - 6] else []) ++ (if c < 5 then [base + k + 1] else []) ++ (if r < 3 then [base + k + 6] else [])
    ++ (if 0 < c then [base + k - 1] else [])

/-- The depth of a domain: its entries in the list. -/
def State.depth (s : State) (core asid : Nat) : Nat := (s.coreAt core).work.countP (fun w => w.asid == asid)

/-- Where a domain ships, and how many entries: to the least neighbour, the first of equals, when it is 4 below or more. -/
def State.shipping (s : State) (core asid : Nat) : Option (Nat × Nat) :=
  let ns := (gridNeighbours core).filter (fun n => s.hasDom n asid && !(s.domAt n asid).stopped)
  let least := ns.foldl (fun (b : Option Nat) n => match b with
    | some x => if s.depth n asid < s.depth x asid then some n else some x
    | none => some n) none
  match least with
  | some n =>
    let d := s.depth core asid
    let m := s.depth n asid
    if m + 4 ≤ d then some (n, (d - m) / 2) else none
  | none => none

/-- The capability of an entry leaves a core by rights only: an OWN is bumped and in transit, and the core's lines go (R159, R237,
R286). None where no entry is free for the bump (R227). -/
def State.shipCap (s : State) (core : Nat) (c : CReg) : Option (State × CReg) :=
  let o := objOf c
  if isOwn c ∧ s.loading o then none
  else if isOwn c ∧ genCurrent (s.objAt o) (genOf c) then
    ((((s.drainObj o).writeBackObj core o).invalidate core o false).bump o).map (fun x =>
      (x.1.writeEntry x.2 { x.1.objAt x.2 with transit := true }, x.1.ownCap x.2 (rbitsOf c) (cursorOf c)))
  else if isShade c then some (s.invalidate core o true, c)
  else some (s, c)

/-- A domain's last n entries leave for a neighbour; one that cannot leave stays. -/
def State.ship (s : State) (core asid to_ n : Nat) : State :=
  let mine := (s.coreAt core).work.filter (fun w => w.asid == asid)
  let go := mine.drop (mine.length - n)
  go.foldl (fun s w => match s.shipCap core w.reg with
    | none => s
    | some (s', c) =>
      (s'.modCore core (fun k => { k with work := (k.work.reverse.erase w).reverse })).modCore to_ (fun k =>
        { k with shipped := k.shipped ++ [(core, { w with reg := c })] })) s

/-- LEVELLING_SAMPLE (R286): in a cycle in which TIMEBASE is a multiple of 8,192 every domain that is not stopped decides on one sample. -/
def execLevellingSample (s : State) : Out :=
  let plan : List (Nat × Nat × Nat × Nat) := s.domains.filterMap (fun d =>
    if d.2.stopped then none
    else (s.shipping (d.1 / 4096) (d.1 % 4096)).map (fun x => (d.1 / 4096, d.1 % 4096, x.1, x.2)))
  .next (if s.time % 8192 = 0 then plan.foldl (fun s x => s.ship x.1 x.2.1 x.2.2.1 x.2.2.2) s else s)

/-- The bounce of a shipped entry of a poisoned object (R233, R336): a message to the domain that shipped it, with the capability, the
status of a `send`, and the refusing core as its source. Its class, which a work entry has not, is free (log 58). -/
def State.bounceWork (s : State) (core from_ : Nat) (w : WorkEntry) : State :=
  let dev := s.devOf w.asid
  let hdr := headerOf 0 dev core 1 2 (Config.victim s.fresh % 63)
  let m : Msg := ⟨dev, core, w.asid, dev, from_, w.asid, hdr, [w.reg, plain 4], none, 6, none⟩
  (s.endTransit m).drawn.send_ m

/-- An entry that has been shipped joins the receiver's list or heap; one of a poisoned object is bounced (R336), and one whose receiver
has gone returns to its sender's list. False: there is no room yet, or the bump of its object waits for loads (R226). -/
def State.shipIn (s : State) (core : Nat) (x : Nat × WorkEntry) : State × Bool :=
  let w := x.2
  let c := w.reg
  let o := objOf c
  let bad := c.tag && kindOf c != 7 && (s.objAt o).poisoned && (s.objAt o).gen == genOf c
  let to_ := if !s.hasDom core w.asid then x.1 else core
  if isOwn c ∧ s.loading o then (s, false)
  else if bad then (s.bounceWork core x.1 w, true)
  else match s.addWork to_ w with
  | some s' =>
    if isOwn c ∧ (s'.objAt o).transit ∧ (s'.objAt o).gen = genOf c then
      let s' := if to_ = core then s'.setOwner o (s'.devOf w.asid) core w.asid else s'
      (s'.writeEntry o { s'.objAt o with transit := false }, true)
    else (s', true)
  | none => (s, false)

/-- WORK_SHIP_ARRIVAL (R286): shipped entries arrive in their order; at a cluster in a low state they wait at its edge (R405). -/
def execWorkShipArrival (core : Nat) (s : State) : Out :=
  .next (if (s.clusterAt (clusterOf core)).power ≠ 0 then s else ((s.coreAt core).shipped.foldl (fun (acc : State × Bool) x =>
    if acc.2 then
      let r := acc.1.shipIn core x
      if r.2 then (r.1.modCore core (fun k => { k with shipped := k.shipped.drop 1 }), true) else (acc.1, false)
    else acc) (s, true)).1)

/-! ### Pre-emption, stops and control (R279, R289, R290, R325, R338) -/

/-- SCHED_OUT (R289). -/
def execSchedOut (core slot : Nat) (pairAll : Bool) (s : State) : Out := .next (s.requestOut none core slot pairAll none)

/-- SCHED_IN (R289). -/
def execSchedIn (core slot handle : Nat) (pairAll : Bool) (s : State) : Out := .next (s.askIn none core slot handle pairAll)

/-- SCHED_EXCHANGE (R289). -/
def execSchedExchange (core slot handle : Nat) (pairAll : Bool) (s : State) : Out :=
  .next (s.requestOut none core slot pairAll (some handle))

/-- SWAP_BOUNDARY (R290). -/
def execSwapBoundary (core slot : Nat) (s : State) : Out := .next (s.swapBoundary core slot)

/-- DOMAIN_STOP (R279). -/
def execDomainStop (core asid : Nat) (s : State) : Out := .next (s.stopDomain core asid)

/-- DOMAIN_RESUME (R279). -/
def execDomainResume (core asid : Nat) (s : State) : Out := .next (s.resumeDomain core asid)

/-- RESUME (R325). -/
def execResume (core slot : Nat) (s : State) : Out := .next (s.control core slot 1)

/-- KILL (R325). -/
def execKill (core slot : Nat) (s : State) : Out := .next (s.control core slot 2)

/-- HALT (R325). -/
def execHalt (core slot : Nat) (s : State) : Out := .next (s.control core slot 3)

/-- STEP (R325). -/
def execStep (core slot : Nat) (s : State) : Out := .next (s.control core slot 4)

/-- CROSS_TRIGGER_FIRE (R338): a write of FIRE, which takes effect while ARM is set (R337). -/
def execCrossTriggerFire (cluster : Nat) (s : State) : Out :=
  .next (if (s.clusterAt cluster).arm then s.fireTrigger cluster else s)

/-- CROSS_TRIGGER_RELEASE (R338). -/
def execCrossTriggerRelease (cluster : Nat) (s : State) : Out := .next (s.releaseTrigger cluster)

/-! ### The comparator of a pair (R331, R332) -/

/-- The first difference of two effects: WHAT and the location (R322, R332). -/
def heldDiffers (a b : Held) (isEnd : Bool) : Option (Nat × Nat) :=
  if a.word ≠ b.word then some (0, a.loc)
  else if a.loc ≠ b.loc then some (0, a.loc)
  else if a.ops ≠ b.ops then some (if isEnd then 2 else 0, a.loc)
  else if a.data ≠ b.data then some (1, a.loc)
  else match a.store, b.store with
    | none, none => none
    | some x, some y => if x.addr ≠ y.addr ∨ x.obj ≠ y.obj then some (0, a.loc) else if x.bytes ≠ y.bytes ∨ x.cap ≠ y.cap then some (1, a.loc) else none
    | none, some _ => some (0, a.loc)
    | some _, none => some (0, a.loc)

/-- A member goes on once its effect is matched: it waits for nothing else. -/
def Slot.matchedNow (t : Slot) : Slot := if t.state = .wait .pairing then { t with state := .ready } else t

/-- Mark the oldest effect of a member as matched. -/
def Slot.markHeld (t : Slot) : Slot :=
  match t.held with
  | h :: hs => { t with held := { h with matched := true } :: hs }
  | [] => t

/-- PAIR_EFFECT_MATCH (R331, R332): the oldest effects of the two members are compared. A store is performed from the leading member's
queue into its store buffer; any other effect the leading member performs at its instruction. -/
def execPairEffectMatch (core slot : Nat) (s : State) : Out :=
  let lead := if (s.slotAt core slot).pair = 2 then (s.slotAt core slot).partner else slot
  let l := s.slotAt core lead
  let trail := l.partner
  .next (if l.pair ≠ 1 then s
    else match l.held, (s.slotAt core trail).held with
      | a :: as_, b :: _ =>
        let isEnd := match decodePattern 4 a.word.toNat with
          | .ok .endStrand => true
          | _ => false
        if a.matched ∨ b.matched then s
        else match heldDiffers a b isEnd with
          | some (what, loc) => s.pairMismatch core lead what loc
          | none =>
            match a.store with
            | some e =>
              if 8 ≤ l.sbuf.length then s
              else
                (s.modSlot core lead (fun t => ({ t with held := as_, sbuf := t.sbuf ++ [e] } : Slot).matchedNow)).modSlot core trail
                  (fun t => t.markHeld.matchedNow)
            | none =>
              (s.modSlot core lead (fun t => t.markHeld.matchedNow)).modSlot core trail (fun t => t.markHeld.matchedNow)
      | _, _ => s)

end Sys2Proof.Machine
end

