-- ==== Sys2Proof/Machine/Record.lean ====
section
/-! DEFINITION. Launch records (R265 to R269): their fields, the cores and groups that they name, and the checks of R270 step 2. -/

namespace Sys2Proof.Machine

/-! ### Fields (R265 to R268) -/

/-- A doubleword of a launch record. -/
def recDword (r : List Byte) (off : Nat) : Nat := leNat ((r.drop off).take 8)

def recAsid (r : List Byte) : Nat := bitsAt (recDword r 0) 0 12
def recCompat (r : List Byte) : Bool := bit (recDword r 0) 12
def recSupv (r : List Byte) : Bool := bit (recDword r 0) 13
def recRetire (r : List Byte) : Bool := bit (recDword r 0) 14
def recImage (r : List Byte) : Nat := bitsAt (recDword r 0x10) 0 48
def recLength (r : List Byte) : Nat := bitsAt (recDword r 0x18) 0 32
def recEntry (r : List Byte) : Nat := bitsAt (recDword r 0x18) 32 32
def recRoot (r : List Byte) : Nat := recDword r 0x20
def recPtLen (r : List Byte) : Nat := bitsAt (recDword r 0x28) 0 41
def recNdecl (r : List Byte) : Nat := bitsAt (recDword r 0x58) 0 16
def recDeclOff (r : List Byte) : Nat := bitsAt (recDword r 0x58) 32 32

/-- Group descriptor g, as 128 bits (R267). -/
def recGroup (r : List Byte) (g : Nat) : Nat := leNat ((r.drop (0x60 + 16 * g)).take 16)

/-- Register descriptor N, as 128 bits (R268). -/
def recReg (r : List Byte) (n : Nat) : Nat := leNat ((r.drop (0xA0 + 16 * (n - 1))).take 16)

/-- Class table word n (R265). -/
def recClass (r : List Byte) (n : Nat) : Nat := leNat ((r.drop (0x200 + 4 * n)).take 4)

/-- A cluster by its global index 48 × die + cluster (R266). -/
def clusterAtIndex (q : Nat) : Nat := q / 48 * 64 + q % 48

/-- The cores of a launch, rising (R266). -/
def recCores (r : List Byte) : List Nat :=
  let x := recDword r 8
  ((List.range 192).filter (fun q => decide (bitsAt x 0 8 ≤ q) && decide (q ≤ bitsAt x 8 8))).flatMap (fun q =>
    ((List.range 24).filter (fun n => bit x (16 + n))).map (fun n => clusterAtIndex q * 32 + n))

/-- The cores of a launch by snake position in each cluster (R200, R267). -/
def snakeCores (r : List Byte) : List Nat :=
  let cs := recCores r
  (List.range 192).flatMap (fun q => ((List.range 24).map (fun p => clusterAtIndex q * 32 + snakeAt p)).filter (fun c => cs.contains c))

/-! ### Bytes of the prepared address space -/

/-- A byte at a virtual address of HBM under tables at a root (R238); none where nothing is mapped. -/
def State.virtByte (s : State) (root va : Nat) : Option Byte :=
  match walkFrom s.entryAt 3 va 4 root 0 with
  | .ok p => some (Memory.get s.mem (p.flat va))
  | .error _ => none

/-- n bytes at a virtual address, if all of them are mapped. -/
def State.virtBytes (s : State) (root : Nat) : Nat → Nat → Option (List Byte)
  | _, 0 => some []
  | va, n + 1 => match s.virtByte root va, s.virtBytes root (va + 1) n with
    | some b, some bs => some (b :: bs)
    | _, _ => none

/-- The member list of a group descriptor of ORDER 2: pairs (device, core); none where it is not mapped or a reserved bit is set
(R267). -/
def State.listMembers (s : State) (root : Nat) : Nat → Nat → Option (List (Nat × Nat))
  | _, 0 => some []
  | va, n + 1 => match s.virtBytes root va 4, s.listMembers root (va + 4) n with
    | some bs, some ms =>
      let x := leNat bs
      if bitsAt x 13 3 = 0 ∧ coreOk (bitsAt x 0 13) then some ((bitsAt x 16 16, bitsAt x 0 13) :: ms) else none
    | _, _ => none

/-- The members of a group, by rank (R267). -/
def State.members (s : State) (part : Nat) (r : List Byte) (g : Nat) : Option (List (Nat × Nat)) :=
  let x := recGroup r g
  let here (c : Nat) : Nat × Nat := (s.jobDev part, c)
  let order := bitsAt x 117 2
  if order = 0 then some ((recCores r).map here)
  else if order = 1 then some ((snakeCores r).map here)
  else if order = 2 then s.listMembers (recRoot r) (bitsAt x 0 64) (bitsAt x 94 23)
  else none

/-! ### Declarations (R269) -/

/-- A declaration of an image (R269). -/
structure Decl where
  level : Nat
  isPool : Bool
  len : Nat
  data : List Byte
deriving DecidableEq, Repr

/-- Declaration INDEX of the image, with its initial bytes: none if the record is malformed by it. -/
def State.declAt (s : State) (r : List Byte) (index : Nat) : Option Decl :=
  if recNdecl r ≤ index then none
  else match s.virtBytes (recRoot r) (recImage r + recDeclOff r + 32 * index) 32 with
    | none => none
    | some b =>
      let d0 := recDword b 0
      let d1 := recDword b 8
      let d2 := recDword b 16
      let level := bitsAt d0 1 3
      let isPool := bit d0 0
      let n := bitsAt d2 32 32
      if bitsAt d0 4 60 ≠ 0 ∨ bitsAt d1 41 23 ≠ 0 ∨ recDword b 24 ≠ 0 ∨ 3 < level ∨ !allocLengthOk level d1 ∨ d1 < n
          ∨ (isPool ∧ n ≠ 0) ∨ (n = 0 ∧ bitsAt d2 0 32 ≠ 0) then none
      else (s.virtBytes (recRoot r) (recImage r + bitsAt d2 0 32) n).map (fun data => ⟨level, isPool, d1, data⟩)

/-- Whether the declaration table is well placed, and every entry of it well formed. -/
def State.declsOk (s : State) (r : List Byte) : Bool :=
  let n := recNdecl r
  bitsAt (recDword r 0x58) 16 16 == 0
    && (n == 0 || (decide (recLength r ≤ recDeclOff r) && recDeclOff r % 8 == 0))
    && (List.range n).all (fun i => (s.declAt r i).isSome)

/-! ### The checks (R270 step 2) -/

/-- Whether a register descriptor is well formed (R268). A PORT's CTX may not be a live context of another partition. -/
def State.regOk (s : State) (part : Nat) (r : List Byte) (n : Nat) : Bool :=
  let x := recReg r n
  let ty := bitsAt x 124 4
  let level := bitsAt x 121 3
  let share := bitsAt x 119 2
  let len := bitsAt x 0 41
  if ty = 0 then bitsAt x 64 60 == 0
  else if ty = 1 ∨ ty = 2 then
    decide (level < 4) && share != 3 && (decide (1 < level) || share == 0) && bitsAt x 41 75 == 0 && len != 0
      && decide (len ≤ 2 ^ 40) && (ty == 1 || (level != 1 && len % 16 == 0))
  else if ty = 3 then
    let c : CReg := ⟨.ofNat 128 (field 7 124 4 + field x 36 84), true⟩
    bitsAt x 84 40 == 0 && wellFormed c && (match lookT s.ctxs (portCtx c) with
      | some y => y.part == part
      | none => true)
  else if ty = 4 then
    share != 3 && level == 0 && bitsAt x 16 100 == 0 && (match s.declAt r (bitsAt x 0 16) with
      | some d => decide (1 < d.level) || share == 0
      | none => false)
  else false

/-- Whether a list holds a member twice. -/
def hasTwice : List (Nat × Nat) → Bool
  | [] => false
  | x :: xs => xs.contains x || hasTwice xs

/-- Whether a group descriptor is well formed (R267). -/
def State.groupOk (s : State) (part : Nat) (r : List Byte) (g : Nat) : Bool :=
  let x := recGroup r g
  let order := bitsAt x 117 2
  let named (h : Nat) : Bool := h != g && bit (recGroup r h) 127 && bitsAt (recGroup r h) 119 8 == bitsAt x 119 8
  bitsAt x 64 30 == 0 && (!bit x 127 ||
    (order != 3
      && (if order = 2 then bitsAt x 94 23 != 0 && bitsAt x 0 64 % 4 == 0 else bitsAt x 94 23 == 0 && bitsAt x 0 64 == 0)
      && (match s.members part r g with
        | some ms => !hasTwice ms
        | none => false)
      && !(List.range 4).any named))

/-- Whether the supervisor domain of a partition exists. -/
def State.hasSupv (s : State) (part : Nat) : Bool :=
  (s.partAt part).supvCores.any (fun c => s.hasDom c (s.partAt part).supvCtx && (s.domAt c (s.partAt part).supvCtx).supv)

/-- Whether a launch record is well formed (R265 to R270). A MASK that selects no core is malformed (log 30). -/
def State.recordOk (s : State) (part addr : Nat) (r : List Byte) : Bool :=
  let cores := recDword r 8
  let fp := recDword r 0x30
  let heap := recDword r 0x50
  let cls (n : Nat) : Bool := recClass r n == 0xFFFFFFFF || (recClass r n % 2 == 0 && (n != 63 || recSupv r))
  !Config.outsideRegion part addr && bitsAt (recDword r 0) 15 49 == 0
    && bitsAt cores 40 24 == 0 && bitsAt cores 16 24 != 0 && decide (bitsAt cores 0 8 ≤ bitsAt cores 8 8)
    && decide (bitsAt cores 8 8 ≤ 191)
    && bitsAt (recDword r 0x10) 48 16 == 0
    && recLength r % 2 == 0 && decide (2 ≤ recLength r) && recEntry r % 2 == 0
    && recRoot r % 4096 == 0 && !Config.outsideRegion part (recRoot r) && bitsAt (recDword r 0x28) 41 23 == 0
    && bitsAt fp 7 57 == 0 && !bit fp 3 && decide (bitsAt fp 0 3 < 5)
    && decide (recDword r 0x40 < 3)
    && bitsAt (recDword r 0x48) 13 3 == 0
    && bitsAt heap 40 24 == 0 && bitsAt heap 3 5 == 0 && (bitsAt heap 0 3 == 0 || bitsAt heap 0 3 == 2 || bitsAt heap 0 3 == 3)
    && s.declsOk r
    && ((r.drop 0x120).take 0xE0).all (fun b => b == 0)
    && (List.range 4).all (fun g => s.groupOk part r g)
    && (List.range 8).all (fun n => s.regOk part r (n + 1))
    && (List.range 64).all cls
    && (!recSupv r || !s.hasSupv part)

/-- The outcome of step 2 of R270: a status code of R271, or none. -/
def State.recordFault (s : State) (part addr : Nat) (r : List Byte) : Option Nat :=
  if !s.recordOk part addr r then some 2
  else if (lookT s.ctxs (recAsid r)).isSome then some 4
  else if (recCores r).any (fun c => (s.coreAt c).outOfService) then some 5
  else none

end Sys2Proof.Machine
end

