-- ==== Sys2Proof/Machine/Launch.lean ====
section
/-! DEFINITION. The launch path (R264 to R273): the launch queue and its status, the making of objects, groups, domains and control
strands, quiescence, and RETIRE. -/

namespace Sys2Proof.Machine

/-! ### The queue (R264, R370, R371) -/

/-- A status is reported: the FIFO keeps the newest 64, and vector 0 is raised when it was empty (R371). -/
def State.pushStatus (s : State) (part ticket code : Nat) : State :=
  let st := (s.partAt part).status
  let s := s.modPart part (fun p => { p with status := (st ++ [(ticket, code)]).drop (st.length + 1 - 64) })
  if st.isEmpty then { s with out := s.out ++ [.msix part 0] } else s

/-- Whether a function exists: the physical function, or one of the NVF that the configuration gives (R370, R409). -/
def State.fnExists (s : State) (fn : Nat) : Bool := fn == 0 || decide (fn ≤ bitsAt (leNat ((s.conf.drop 8).take 8)) 32 6)

/-- Whether a function acts on writes: not while FLR's reset is under way (R370), nor while its TDI is locked or in error (R382). -/
def State.fnTakes (s : State) (fn : Nat) : Bool :=
  let p := s.partAt fn
  s.fnExists fn && !p.flr && (fn == 0 || p.tdi == 0 || p.tdi == 2)

/-- Whether a request of a function is held back: a write of it waits at a full SYNC word (R377). -/
def State.fnHeld (s : State) (fn : Nat) : Bool := (s.partAt fn).late.isSome || s.waiters.any (fun w => w.slot == 16 && s.partOf w.dst == fn)

/-- Whether the device attends to the next request of a function: it has booted (R410), and no earlier request holds it back (R377). -/
def State.fnOpen (s : State) (fn : Nat) : Bool := s.booted && !s.fnHeld fn

/-- LAUNCH_SUBMIT (R370, R371): a write of LQSUBMIT. -/
def execLaunchSubmit (fn : Nat) (v : Word) (s : State) : Out :=
  let ticket := bitsAt v.toNat 56 8
  .next (if !s.fnTakes fn ∨ !s.fnOpen fn then s
    else if 16 ≤ (s.partAt fn).queue.length then s.pushStatus fn ticket 3
    else s.modPart fn (fun p => { p with queue := p.queue ++ [(ticket, bitsAt v.toNat 6 34 * 64)] }))

/-- LQSTATUS_READ (R370, R371): the oldest status is popped; an empty FIFO reads 0. -/
def execLqstatusRead (fn : Nat) (s : State) : Out :=
  let p := s.partAt fn
  .next (if !s.fnOpen fn then s
    else if p.flr ∨ !s.fnExists fn then { s with out := s.out ++ [.unsupportedRequest fn 8] }
    else match p.status with
      | [] => { s with out := s.out ++ [.hostRead fn 8 0] }
      | (t, c) :: rest =>
        { s.modPart fn (fun p => { p with status := rest }) with
          out := s.out ++ [.hostRead fn 8 (field 1 63 1 + field t 48 8 + field c 0 8)] })

/-- The record at the head of a queue: ticket, address and bytes, while the queue is running (R339). -/
def State.headRecord (s : State) (part : Nat) : Option (Nat × Nat × List Byte) :=
  match (s.partAt part).queue with
  | (t, a) :: _ => if (s.partAt part).pstate = 0 then some (t, a, Memory.read s.mem (hbmBase + a) 768) else none
  | [] => none

/-- The head record leaves the queue with a status. -/
def State.endHead (s : State) (part ticket code : Nat) : State :=
  (s.modPart part (fun p => { p with queue := p.queue.drop 1 })).pushStatus part ticket code

/-! ### Making objects (R268 to R270) -/

/-- A fresh entry of the launch path: one that is free, with its GEN. -/
def State.newEntry (s : State) (part : Nat) (e : Obj) : Option (State × Nat) :=
  (s.pickEntry part 65535).map (fun o => ((s.writeEntry o { e with gen := (s.objAt o).gen }).drawn, o))

/-- The space that the launch path has given out at a level beside a core: pools, sync objects, and objects that no pool holds. -/
def State.regions (s : State) (level core : Nat) : List (Nat × Obj) :=
  let near (e : Obj) : Bool :=
    if level < 2 then e.ownCore == core else if level = 2 then clusterOf e.ownCore == clusterOf core else dieOf e.ownCore == dieOf core
  s.objs.filter (fun p => p.2.level == level && !p.2.retired && near p.2
    && (p.2.entKind == 2 || p.2.entKind == 3 || (p.2.entKind == 1 && p.2.poolId == p.1)))

/-- Where n bytes are placed at a level beside a core (R34, R35): the lowest base that fits, and in HBM a base of the model's choosing
(log 31); none when there is no room. -/
def State.placeRegion (s : State) (level core n : Nat) : Option Nat :=
  let rs := s.regions level core
  if level = 3 then
    if (rs.map (fun p => p.2.length)).foldl (fun x y => x + y) n ≤ 144 * 10 ^ 9 then some (Config.hbmPlace s.fresh % 2 ^ 32 * 2 ^ 16)
    else none
  else firstFit (rs.map (fun p => (p.2.base, spanOf level p.2.length))) 0 (if level = 2 then 8388608 else 262144) (spanOf level n)

/-- A pinned region that the launch path makes for a domain, zeroed: a pool (ENTKIND 2), a sync object (3), or an object of its own
(1) (R221, R223, R281, R287). -/
def State.makeRegion (s : State) (asid core kind level n : Nat) : Option (State × Nat) :=
  let part := s.partOf asid
  match s.placeRegion level core n with
  | none => none
  | some base =>
    let e : Obj := { Obj.free with
      part := part, ownDev := s.jobDev part, ownCore := core, ownCtx := asid, level := level, entKind := kind, pinned := true,
      key := if level = 3 then part else 0, base := base, length := n, held := if kind = 1 then 65536 else 0 }
    (s.newEntry part e).map (fun (x : State × Nat) =>
      let s := if kind = 1 then x.1.modObj x.2 (fun e => { e with poolId := x.2 }) else x.1
      let s := s.zeroSpan asid x.2 0 n
      (if kind = 3 then s.overSpan asid (s.objAt x.2) 0 n (fun t a k => t.emptyWords a k) else s, x.2))

/-- Initial bytes of an object (R269), from a location on; none when one lies on a page that is not mapped, so that the object cannot
be made. -/
def State.fillObj (s : State) (asid o loc : Nat) : List Byte → Option State
  | [] => some s
  | b :: bs => match s.flatNow asid o loc with
    | .ok a => (s.writeLevel a [b]).fillObj asid o (loc + 1) bs
    | .error _ => none

/-- A declared object, in a pool of its own length (R269). -/
def State.makeDecl (s : State) (asid core : Nat) (d : Decl) : Option (State × Nat) :=
  match s.makeRegion asid core 2 d.level (spanOf d.level d.len) with
  | none => none
  | some (s, pool) =>
    if d.isPool then some (s.modObj pool (fun e => { e with length := d.len }), pool)
    else match s.pickEntry (s.partOf asid) 65535 with
      | none => none
      | some o =>
        (((s.makeObj o pool (s.objAt pool).base d.len core asid 65536).drawn).fillObj asid o 0 d.data).map (fun s => (s, o))

/-- The lowest core of a launch that shares an object with a core (R268). -/
def shareOwner (cores : List Nat) (share core : Nat) : Nat :=
  let same (c : Nat) : Bool := if share = 0 then c == core else if share = 1 then clusterOf c == clusterOf core else true
  (cores.find? same).getD core

/-- SHARE of a declaration: that of the first descriptor of the record that names it, since it is made once for a domain (R269). -/
def declShare (r : List Byte) (index : Nat) : Nat :=
  match (List.range 8).find? (fun k => bitsAt (recReg r (k + 1)) 124 4 == 4 && bitsAt (recReg r (k + 1)) 0 16 == index) with
  | some k => bitsAt (recReg r (k + 1)) 119 2
  | none => 0

/-- What the launch path has made so far for register descriptors: by descriptor (or 16 + INDEX of a declaration), SHARE and owner. -/
abbrev Made := List ((Nat × Nat × Nat) × Nat)

/-- c[N] of a core's control strand (R268, R269), the object made if it has not been yet. -/
def State.launchReg (s : State) (made : Made) (r : List Byte) (core n : Nat) : Option (State × Made × CReg) :=
  let x := recReg r n
  let ty := bitsAt x 124 4
  let share := if ty = 4 then declShare r (bitsAt x 0 16) else bitsAt x 119 2
  let rb := bitsAt x 116 3
  let asid := recAsid r
  let owner := shareOwner (recCores r) share core
  let cap (s : State) (kind o : Nat) : CReg := mkCap kind rb 0 (s.objAt o).gen o 0
  let use (key : Nat × Nat × Nat) (kind : Nat) (make : Option (State × Nat)) : Option (State × Made × CReg) :=
    match made.find? (fun m => m.1 == key) with
    | some m => some (s, made, cap s kind m.2)
    | none => make.map (fun (y : State × Nat) => (y.1, made ++ [(key, y.2)], cap y.1 kind y.2))
  if ty = 0 then some (s, made, plain (bitsAt x 0 64))
  else if ty = 1 then use (n, share, owner) 4 (s.makeRegion asid owner 2 (bitsAt x 121 3) (bitsAt x 0 41))
  else if ty = 2 then use (n, share, owner) 2 (s.makeRegion asid owner 3 (bitsAt x 121 3) (bitsAt x 0 41))
  else if ty = 3 then some (s, made, ⟨.ofNat 128 (field 7 124 4 + field x 36 84), true⟩)
  else match s.declAt r (bitsAt x 0 16) with
    | none => none
    | some d => use (16 + bitsAt x 0 16, share, owner) (if d.isPool then 4 else 0) (s.makeDecl asid owner d)

/-- c1 to c8 of a core's control strand. -/
def State.launchRegs (s : State) (made : Made) (r : List Byte) (core : Nat) : Option (State × Made × Tab CReg) :=
  (List.range 8).foldl (fun (acc : Option (State × Made × Tab CReg)) k =>
    acc.bind (fun a => (a.1.launchReg a.2.1 r core (k + 1)).map (fun (b : State × Made × CReg) =>
      (b.1, b.2.1, putT a.2.2 (k + 1) b.2.2)))) (some (s, made, []))

/-- A receive pool of a domain, or none for size 0 (R223, R266). -/
def State.rxPool (s : State) (asid core level n : Nat) : Option (State × Option Nat) :=
  if n = 0 then some (s, none) else (s.makeRegion asid core 2 level n).map (fun (x : State × Nat) => (x.1, some x.2))

/-- The bindings of the class table (R265, R270). -/
def launchBindings (r : List Byte) (gen code : Nat) : Tab CReg :=
  (List.range 64).filterMap (fun n =>
    if recClass r n = 0xFFFFFFFF then none else some (n, mkCap 3 0 0 gen code (recClass r n)))

/-- One core's share of step 3 of R270: its registers, receive pools, heap and save area, with the domain that they are for. -/
def State.launchCore (s : State) (made : Made) (r : List Byte) (part core : Nat) : Option (State × Made × Tab CReg × Domain) :=
  let asid := recAsid r
  let rx := recDword r 0x48
  let heap := recDword r 0x50
  let code := match lookT s.ctxs asid with
    | some x => x.codeObj
    | none => 0
  (s.launchRegs made r core).bind (fun a =>
    (a.1.rxPool asid core 0 (64 * bitsAt rx 0 13)).bind (fun ls =>
      (ls.1.rxPool asid core 2 (64 * bitsAt rx 16 17)).bind (fun cl =>
        (cl.1.rxPool asid core 3 (65536 * bitsAt rx 33 31)).bind (fun hb =>
          (hb.1.makeRegion asid core 1 (bitsAt heap 0 3) (64 + 144 * bitsAt heap 8 32)).bind (fun hp =>
            (hp.1.makeRegion asid core 1 3 65536).map (fun (sv : State × Nat) =>
              let d : Domain := { Domain.fresh with
                part := part, supv := recSupv r, bindings := launchBindings r (s.objAt code).gen code,
                heapCap := sv.1.ownCap hp.2 0 0, heapSize := bitsAt heap 8 32, rxls := ls.2, rxcl := cl.2, rxhb := hb.2,
                mode := recDword r 0x40 }
              (sv.1, a.2.1, a.2.2, d)))))))

/-- Step 3 of R270 on every core in turn. -/
def State.launchCores (r : List Byte) (part : Nat) : List Nat → State → Made → List (Nat × Tab CReg × Domain) →
    Option (State × List (Nat × Tab CReg × Domain))
  | [], s, _, acc => some (s, acc)
  | c :: cs, s, made, acc => match s.launchCore made r part c with
    | none => none
    | some (s, made, regs, d) => State.launchCores r part cs s made (acc ++ [(c, regs, d)])

/-- The context of a launch with its PTAB and CODE objects, pinned (R241, R270 step 3). -/
def State.launchContext (s : State) (r : List Byte) (part core : Nat) : Option State :=
  let asid := recAsid r
  let base : Obj := { Obj.free with
    part := part, ownDev := s.jobDev part, ownCore := core, ownCtx := asid, level := 3, entKind := 1, pinned := true, key := part,
    held := 65536 }
  let s := { s with ctxs := putT s.ctxs asid ⟨part, recRoot r, recCompat r, 0, 0⟩ }
  (s.newEntry part { base with ptab := true, base := recRoot r, length := recPtLen r }).bind (fun x =>
    (x.1.newEntry part { base with base := recImage r, length := recLength r }).map (fun (y : State × Nat) =>
      { y.1 with ctxs := putT y.1.ctxs asid ⟨part, recRoot r, recCompat r, x.2, y.2⟩ }))

/-- The debug object of a partition, made with its supervisor (R323). -/
def State.launchDebug (s : State) (r : List Byte) (part core : Nat) : Option State :=
  if recSupv r then
    let e : Obj := { Obj.free with
      part := part, ownDev := s.jobDev part, ownCore := core, ownCtx := recAsid r, entKind := 1, pinned := true, length := 2 ^ 30,
      held := 65536 }
    (s.newEntry part e).map (fun (x : State × Nat) => x.1.modPart part (fun p => { p with debugObj := x.2 }))
  else some s

/-! ### Groups, domains and strands (R270 steps 4 to 6, R272) -/

/-- SCOPE: the smallest scope that holds every member (R272). -/
def groupScope (dev : Nat) (ms : List (Nat × Nat)) : Nat :=
  let all (f : Nat → Nat) : Bool := match ms with
    | [] => true
    | m :: _ => ms.all (fun x => f x.2 == f m.2)
  if ms.any (fun m => m.1 != dev) then 3 else if all clusterOf then 0 else if all dieOf then 1 else 2

/-- The groups that a record names: index and members (R267). -/
def State.launchGroups (s : State) (part : Nat) (r : List Byte) : List (Nat × List (Nat × Nat)) :=
  (List.range 4).filterMap (fun g =>
    if bit (recGroup r g) 127 then (s.members part r g).map (fun ms => (bitsAt (recGroup r g) 119 8, ms)) else none)

/-- Group entries become IN USE (R270 step 4, R272). -/
def State.openGroups (s : State) (part asid : Nat) (gs : List (Nat × List (Nat × Nat))) : State :=
  let dev := s.jobDev part
  let came (p : Partition) (n inst : Nat) : List (Nat × Nat) :=
    (p.comers.filter (fun x => x.1 == n && x.2.2.2 == inst)).map (fun x => (x.2.1, x.2.2.1))
  s.modPart part (fun p => { p with
    groups := gs.foldl (fun t g =>
      putT t g.1 (⟨asid, groupScope dev g.2, g.2.length, g.2, came p g.1 0, came p g.1 1, 0, 0, []⟩ : Group)) p.groups
    comers := p.comers.filter (fun x => gs.all (fun g => g.1 != x.1)) })

/-- GROUPS of a core's domain: its memberships in descriptor order (R44, R267). -/
def groupsOf (dev core : Nat) (gs : List (Nat × List (Nat × Nat))) : Quad :=
  let mine := gs.filter (fun g => g.2.contains (dev, core))
  .ofNat 128 (((List.range mine.length).zip mine).foldl (fun x (k, g) =>
    x + (field 1 31 1 + field g.1 23 8 + field (g.2.idxOf (dev, core)) 0 23) * 2 ^ (32 * k)) 0)

/-- A control strand of a launch (R18, R89, R270 step 6). -/
def State.controlSlot (s : State) (r : List Byte) (part : Nat) (regs : Tab CReg) : Slot :=
  let code := match lookT s.ctxs (recAsid r) with
    | some x => x.codeObj
    | none => 0
  let dbg := (s.partAt part).debugObj
  { Slot.vacant with
    kind := 0, asid := recAsid r, code := mkCap 3 0 0 (s.objAt code).gen code (recEntry r)
    c := if recSupv r then putT regs 10 (mkCap 6 0 0 (s.objAt dbg).gen dbg 0) else regs
    fpmode := .ofNat 64 (recDword r 0x30), seed := .ofNat 64 (recDword r 0x38) }

/-- A control strand enters s0 if that is vacant, no older one waits for it and no command of another holder is outstanding; else it
waits in the thread-context cache, or, where the cache cannot give up an entry, in its own domain's save area (R184, R270 step 6,
R287, log 30). -/
def State.enterControl (s : State) (core : Nat) (t : Slot) : State :=
  if (s.slotAt core 0).state = .vacant ∧ !s.e0Busy core t.asid ∧ !(s.coreAt core).tcc.any Saved.starting then
    (s.takeMatrix core t.asid).startIn core 0 none t
  else
    let wait (k : Core) (cached : Bool) : Core := { k with tcc := k.tcc ++ [⟨65536 + t.asid, cached, true, [t]⟩] }
    match (s.coreAt core).makeRoom 1 64 with
    | none => s.modCore core (fun k => wait k false)
    | some k =>
      let kept (k : Core) : Nat := k.tcc.countP (fun v => v.inCache)
      (s.setCore core (wait k true)).count core t.asid 0x104 (kept (s.coreAt core) - kept k)

/-- Steps 4 to 6 of R270. -/
def State.launchStart (s : State) (part ticket : Nat) (r : List Byte) (made : List (Nat × Tab CReg × Domain)) : State :=
  let asid := recAsid r
  let gs := s.launchGroups part r
  let dev := s.jobDev part
  let s := s.openGroups part asid gs
  let s := made.foldl (fun s m =>
    { s with domains := putT s.domains (domKey m.1 asid) { m.2.2 with groups := groupsOf dev m.1 gs } }) s
  let s := made.foldl (fun s m => s.enterControl m.1 (s.controlSlot r part m.2.1)) s
  let cores := made.map (fun m => m.1)
  let s := s.modPart part (fun p => { p with
    running := p.running ++ [⟨ticket, asid, cores, gs.map (fun g => g.1)⟩]
    supvCores := if recSupv r then cores else p.supvCores
    supvCtx := if recSupv r then asid else p.supvCtx })
  s.endHead part ticket 0

/-- A launch record at the head of its queue (R270): its status when it fails, and nothing else of it. -/
def State.launchRecord (s : State) (part ticket addr : Nat) (r : List Byte) : State :=
  match s.recordFault part addr r with
  | some code => s.endHead part ticket code
  | none =>
    let cores := recCores r
    match ((s.launchContext r part (cores.headD 0)).bind (fun s => s.launchDebug r part (cores.headD 0))).bind
        (fun s => State.launchCores r part cores s [] []) with
    | some (s', made) => s'.launchStart part ticket r made
    | none => s.endHead part ticket 3

/-- LAUNCH (R264, R270): the record at the head of a partition's queue, unless it waits for a group entry. -/
def execLaunch (part : Nat) (s : State) : Out :=
  .next (match s.headRecord part with
    | none => s
    | some (t, a, r) =>
      let named := (List.range 4).filterMap (fun g => if bit (recGroup r g) 127 then some (bitsAt (recGroup r g) 119 8) else none)
      if recRetire r ∧ !Config.outsideRegion part a then s
      else if !Config.outsideRegion part a ∧ named.any (fun g => (lookT (s.partAt part).groups g).isSome) then s
      else s.launchRecord part t a r)

/-! ### RETIRE (R273) -/

/-- The context of a RETIRE record is released, with every object that it owns on the device (R273). -/
def State.retireContext (s : State) (part asid : Nat) (x : Context) : State :=
  let s := (s.purgeTlbs x.ptab).freeContext (fun e => e.ownCtx == asid)
  let s := { s with ctxs := dropT s.ctxs asid }
  s.modPart part (fun p =>
    { p with
      assist := dropT p.assist asid
      debugObj := if (s.objAt p.debugObj).entKind = 0 then 0 else p.debugObj })

/-- LAUNCH_RETIRE (R266, R273): a RETIRE record at the head of a partition's queue. -/
def execLaunchRetire (part : Nat) (s : State) : Out :=
  .next (match s.headRecord part with
    | none => s
    | some (t, a, r) =>
      if !recRetire r ∨ Config.outsideRegion part a then s
      else if bitsAt (recDword r 0) 15 49 ≠ 0 then s.endHead part t 2
      else match lookT s.ctxs (recAsid r) with
        | none => s.endHead part t 4
        | some x =>
          if x.part ≠ part ∨ s.domains.any (fun d => d.1 % 4096 == recAsid r) then s.endHead part t 4
          else (s.retireContext part (recAsid r) x).endHead part t 6)

/-! ### Quiescence (R273) -/

/-- Whether a domain is quiescent (R273). The spill strand is the core's, and holds no domain back. -/
def State.quiescent (s : State) (core asid : Nat) : Bool :=
  let k := s.coreAt core
  let d := s.domAt core asid
  k.slots.all (fun t => t.1 == 15 || t.2.state == .vacant || t.2.asid != asid)
    && k.tcc.all (fun v => v.asid != asid)
    && k.inbox.all (fun e => e.msg.dstCtx != asid)
    && d.heap.isEmpty
    && k.work.all (fun w => w.asid != asid)
    && k.shipped.all (fun w => w.2.asid != asid)
    && k.ports.all (fun p => p.2.all (fun x => x.asid != asid))
    && s.outbox.all (fun m => !m.goesTo (s.devOf asid) core asid)

/-- A quiescent launch completes (R273). -/
def State.completeLaunch (s : State) (part : Nat) (l : Launched) : State :=
  let s := s.modPart part (fun p =>
    { p with groups := l.groups.foldl dropT p.groups, running := p.running.filter (fun x => x.asid != l.asid) })
  let s := l.cores.foldl (fun s c => s.removeDomain c l.asid) s
  s.pushStatus part l.ticket 1

/-- QUIESCENCE_TEST (R273): in a cycle in which TIMEBASE is a multiple of 8,192, every launch that runs is tested. -/
def execQuiescenceTest (s : State) : Out :=
  let past : List (Nat × Launched) := s.parts.flatMap (fun p =>
    (p.2.running.filter (fun l => l.cores.all (fun c => s.quiescent c l.asid))).map (fun l => (p.1, l)))
  .next (if s.time % 8192 = 0 then past.foldl (fun s x => s.completeLaunch x.1 x.2) s else s)

end Sys2Proof.Machine
end

