-- ==== Sys2Proof/Machine/Inbound.lean ====
section
/-! DEFINITION. Requests of the host (R370 to R378): the inbound aperture, doorbells, HOST windows, resets of a function, and plain
registers. -/

namespace Sys2Proof.Machine

/-- Host writes and doorbells dropped are counted (R385). -/
def State.inDrop (s : State) (fn : Nat) : State := s.countPart fn 0x140 1

/-! ### The aperture (R377) -/

/-- The capability exported at an aperture offset, and the location of the first of n bytes; none when the export is empty, revoked
or poisoned, or a byte lies outside the object. -/
def State.exportAt (s : State) (fn addr n : Nat) : Option (CReg × Nat) :=
  let c := (lookT (s.partAt fn).exports (addr / 2 ^ 32)).getD CReg.zero
  let e := s.objAt (objOf c)
  let loc := cursorOf c + addr % 2 ^ 32
  if c.tag ∧ wellFormed c ∧ genCurrent e (genOf c) ∧ !e.poisoned ∧ loc + n ≤ e.length then some (c, loc) else none

/-- The cluster in a low state in which an object lies, at whose edge the request waits (R405). -/
def State.atEdge (s : State) (o : Nat) : Option Nat :=
  let e := s.objAt o
  let cl := clusterOf (s.homeCore e)
  if e.level < 3 ∧ (s.clusterAt cl).power ≠ 0 then some cl else none

/-- Host inbound of an object's domain as a party (R295, R303). -/
def State.inParty (s : State) (o : Nat) : Party :=
  let e := s.objAt o
  ⟨e.ownCore, e.ownCtx, 19, (s.domAt e.ownCore e.ownCtx).engineClk 19, true, 0, 0, 0, 0, CReg.zero⟩

/-- Bytes of a host write, each with its location and flat address; none when one is not mapped. -/
def State.inCells (s : State) (o loc : Nat) : List (Option Byte) → Option (List (Nat × Nat × Byte))
  | [] => some []
  | none :: bs => s.inCells o (loc + 1) bs
  | some b :: bs => match s.flatNow (s.objAt o).ownCtx o loc, s.inCells o (loc + 1) bs with
    | .ok a, some cs => some ((loc, a, b) :: cs)
    | _, _ => none

/-- A host write of bytes into an exported object (R377): a racing one under precise mode is dropped, and its record sent. One with no
byte enables is translated, and changes nothing (R258). -/
def State.inBytes (s : State) (fn o loc : Nat) (b : List (Option Byte)) : State :=
  match s.inCells o loc b with
  | none => s.inDrop fn
  | some [] => if s.zeroOk (s.objAt o).ownCtx o loc then s else s.inDrop fn
  | some cs =>
    let p := s.inParty o
    let lines := cs.foldl (fun (l : List (Nat × Nat)) x => if l.any (fun y => lineOf y.1 == lineOf x.1) then l else l ++ [(x.1, x.2.1)]) []
    match s.judge p (lines.filterMap (fun x => s.raceAt p o x.1 x.2 true)) with
    | (s, some r) =>
      (s.inDrop fn).informPacket fn p.core p.asid 0 0 { code := fRACE, engine := some (0, 0), record := r }
    | (s, none) => cs.foldl (fun s x => s.engineWrite1 p o (x.1, x.2.1, 1) [x.2.2]) s

/-- A host write of 16 bytes into a SYNC word: a `put`, which waits while the word is full (R377): in the word's deferred list, or, where
that has no room, at the aperture. -/
def State.inPut (s : State) (fn addr o loc : Nat) (v : Quad) : State :=
  let e := s.objAt o
  match s.flatNow e.ownCtx o loc with
  | .error _ => s.inDrop fn
  | .ok w =>
    if s.isFull w ∨ (s.nextGrant w).isSome ∨ s.engineWaits e.ownCore e.ownCtx 19 then
      if s.listRoom w then
        { s with waiters := s.waiters ++ [⟨w, s.devOf e.ownCtx, e.ownCore, 16, 2, e.ownCtx, ⟨v, false⟩, ⟨0, []⟩, 0⟩] }
      else s.modPart fn (fun p => { p with late := some (addr, v) })
    else (s.hostPut e.ownCore e.ownCtx w ⟨v, false⟩).serveAll

/-- All bytes of a write, if every one is enabled. -/
def allEnabled : List (Option Byte) → Option (List Byte)
  | [] => some []
  | some b :: bs => (allEnabled bs).map (fun l => b :: l)
  | none :: _ => none

/-- A host write at an aperture offset (R377). One that has waited there for room in a deferred list is asked for again with the same bytes
(log 79). -/
def State.inWrite (s : State) (fn addr : Nat) (b : List (Option Byte)) : State :=
  let again := match (s.partAt fn).late, allEnabled b with
    | some (a, v), some bs => a == addr && leBytes 16 v.toNat == bs
    | _, _ => false
  let s := if again then s.modPart fn (fun p => { p with late := none }) else s
  if !s.fnExists fn ∨ (s.partAt fn).flr ∨ !s.fnOpen fn then s
  else match s.exportAt fn addr (if b.all (fun x => x.isNone) then 0 else b.length) with
    | none => s.inDrop fn
    | some (c, loc) =>
      let o := objOf c
      let level := (s.objAt o).level
      match s.atEdge o with
      | some cl => s.stir cl
      | none =>
      if kindOf c = 2 then
        match allEnabled b with
        | some bs => if bs.length = 16 ∧ loc % 16 = 0 then s.inPut fn addr o loc (.ofNat 128 (leNat bs)) else s.inDrop fn
        | none => s.inDrop fn
      else if level = 0 ∨ level = 2 ∨ level = 3 then s.inBytes fn o loc b
      else s.inDrop fn

/-- INBOUND_WRITE (R377). -/
def execInboundWrite (fn addr : Nat) (b : List (Option Byte)) (s : State) : Out := .next (s.inWrite fn addr b)

/-- INBOUND_SYNC_PUT (R377): a write of 16 bytes. -/
def execInboundSyncPut (fn addr : Nat) (v : Quad) (s : State) : Out :=
  .next (s.inWrite fn addr ((leBytes 16 v.toNat).map some))

/-- What a host read at an aperture offset brings (R377): the bytes, or none for Unsupported Request. -/
def State.inValue (s : State) (fn addr n : Nat) : Option (List Byte) :=
  match s.exportAt fn addr n with
  | none => none
  | some (c, loc) =>
    let o := objOf c
    let e := s.objAt o
    if kindOf c = 2 then
      match s.flatNow e.ownCtx o loc with
      | .ok a =>
        if 1 ≤ n ∧ loc % 16 + n ≤ 16 ∧ s.isFull (a / 16 * 16) then some (Memory.read s.mem a n) else none
      | .error _ => none
    else if e.level = 0 ∨ e.level = 2 ∨ e.level = 3 then
      let xs := s.spansAt e.ownCtx o loc n
      if spanTotal xs = n then some (s.engineBytes xs) else none
    else none

/-- A host read at an aperture offset (R377). -/
def State.inRead (s : State) (fn addr n : Nat) : State :=
  if !s.fnOpen fn then s
  else if !s.fnExists fn ∨ (s.partAt fn).flr then { s with out := s.out ++ [.inboundRefused fn addr] }
  else match (s.exportAt fn addr n).bind (fun x => s.atEdge (objOf x.1)) with
  | some cl => s.stir cl
  | none => match s.inValue fn addr n with
    | some bs => { s with out := s.out ++ [.inboundData fn addr bs] }
    | none => { s with out := s.out ++ [.inboundRefused fn addr] }

/-- INBOUND_READ (R377). -/
def execInboundRead (fn addr n : Nat) (s : State) : Out := .next (s.inRead fn addr n)

/-- INBOUND_SYNC_PEEK (R377): a read of an exported SYNC word. -/
def execInboundSyncPeek (fn addr n : Nat) (s : State) : Out := .next (s.inRead fn addr n)

/-! ### Doorbells (R378) -/

/-- The clock that host inbound of a domain carries, ticked (R299). -/
def State.inEdge (s : State) (core asid : Nat) : State × Carried :=
  let s := s.tickEngine core asid 19
  (s, s.engineCarry core asid 19)

/-- One message of a doorbell. -/
def State.doorMessage (s : State) (fn ctx cls : Nat) (v : Word) (to_ : Nat × Nat) : State :=
  let dev := s.jobDev fn
  let here := to_.1 == dev && s.hasDom to_.2 ctx
  let x := if here then s.inEdge to_.2 ctx else (s, ⟨0, []⟩)
  x.1.sendMsg
    { srcDev := dev, srcCore := 0x1FFF, srcCtx := ctx, dstDev := to_.1, dstCore := to_.2, dstCtx := ctx,
      hdr := headerOf 0 dev 0x1FFF 0 1 cls, pay := [plain v.toNat], clk := if here then some x.2 else none, form := 5 }

/-- The destinations of a doorbell's port: its target, or the members of its group. -/
def State.doorTargets (s : State) (fn : Nat) (c : CReg) : List (Nat × Nat) :=
  if portGrp c then
    match lookT (s.partAt fn).groups (portTarget c) with
    | some g => g.members
    | none => []
  else [(portDev c, portTarget c)]

/-- A write of a doorbell (R378). It waits behind the function's earlier writes, at the edge of a cluster in a low state, and at a
stopped destination that has 8 messages (R279, R377, R405). -/
def State.doorbell (s : State) (fn d : Nat) (v : Word) : State :=
  let c := (lookT (s.partAt fn).dbports d).getD CReg.zero
  let ctx := portCtx c
  if !s.fnTakes fn ∨ !s.fnOpen fn then s
  else if !c.tag ∨ !wellFormed c then s.inDrop fn
  else if v.getLsbD 63 then
    let core := portTarget c
    if portGrp c ∨ !s.hasDom core ctx then s.inDrop fn
    else if (s.clusterAt (clusterOf core)).power ≠ 0 then s.stir (clusterOf core)
    else if s.engineWaits core ctx 19 then s
    else
      let x := s.inEdge core ctx
      x.1.setTagBit core ctx (bitsAt v.toNat 0 6) x.2
  else
    let ms := s.doorTargets fn c
    let full (m : Nat × Nat) : Bool := s.held_ m.1 m.2 ctx && decide (8 ≤ (s.outbox.filter (fun x => x.goesTo m.1 m.2 ctx)).length)
    let unswept (m : Nat × Nat) : Bool := m.1 == s.jobDev fn && s.hasDom m.2 ctx && s.engineWaits m.2 ctx 19
    if ms.any full || ms.any unswept then s else ms.foldl (fun s m => s.doorMessage fn ctx (portLo c) v m) s

/-- DOORBELL_MESSAGE (R378). -/
def execDoorbellMessage (fn d : Nat) (v : Word) (s : State) : Out := .next (s.doorbell fn d v)

/-- DOORBELL_TAG (R378). -/
def execDoorbellTag (fn d : Nat) (v : Word) (s : State) : Out := .next (s.doorbell fn d v)

/-! ### HOST windows (R372) -/

/-- A RESULT of WINSTAT (R370). -/
def State.winDone (s : State) (fn r : Nat) : State := s.modPart fn (fun p => { p with winResult := r })

/-- Whether every page of a range is mapped to host memory (R372). -/
def State.hostMapped (s : State) (asid va units : Nat) : Bool :=
  decide (va + units * 2 ^ 16 ≤ 2 ^ 48)
    && (List.range units).all (fun i => match s.walkPage asid 4 (va + i * 2 ^ 16) with
      | .ok p => p.tgt == 1 || p.tgt == 2
      | .error _ => false)

/-- The core that owns a partition's windows: its supervisor's on die 0, where there is one (R372). -/
def State.windowCore (s : State) (fn : Nat) : Nat :=
  ((s.partAt fn).supvCores.find? (fun c => dieOf c == 0)).getD ((s.partAt fn).supvCores.headD 0)

/-- A window is registered (R372). -/
def State.winRegister (s : State) (fn x : Nat) : State :=
  let p := s.partAt fn
  let win := bitsAt x 48 8
  let len := bitsAt x 20 24
  let asid := bitsAt x 0 12
  if bitsAt x 56 5 ≠ 0 ∨ bitsAt x 44 4 ≠ 0 ∨ bitsAt x 12 8 ≠ 0 ∨ bitsAt p.winVa 48 16 ≠ 0 ∨ bitsAt p.winVa 0 16 ≠ 0 ∨ len = 0 then
    s.winDone fn 7
  else if !(match lookT s.ctxs asid with
    | some y => y.part == fn
    | none => false) then s.winDone fn 2
  else if (lookT p.windows win).isSome then s.winDone fn 4
  else if !s.hostMapped asid p.winVa len then s.winDone fn 3
  else
    let e : Obj := { Obj.free with
      part := fn, ownDev := s.jobDev fn, ownCore := s.windowCore fn, ownCtx := p.supvCtx, level := 4, entKind := 1, pinned := true,
      held := 65536, base := p.winVa, length := len * 65536 }
    match s.newEntry fn e with
    | none => s.winDone fn 5
    | some (s, o) =>
      (s.modPart fn (fun p => { p with windows := putT p.windows win ⟨o, bit x 61⟩ })).winDone fn 0

/-- A window's entry is bumped and freed, so that every capability of it is revoked, once every access that was checked against it has been
performed (R372, R226): stores now, loads and engine commands by themselves. -/
def State.winEnd (s : State) (fn : Nat) : State :=
  match (s.partAt fn).winBusy with
  | none => s
  | some win => match lookT (s.partAt fn).windows win with
    | none => s.modPart fn (fun p => { p with winBusy := none })
    | some w =>
      if s.loading w.obj ∨ s.named w.obj then s
      else (((s.drainObj w.obj).revokeFree w.obj).modPart fn (fun p => { p with windows := dropT p.windows win, winBusy := none })).winDone fn 0

/-- The requests of window registers that are in progress (R372). -/
def State.tryWindows (s : State) : State := s.parts.foldl (fun (s : State) p => s.winEnd p.1) s

/-- An UNREG request: a window is to be given up (R372). -/
def State.winUnregister (s : State) (fn x : Nat) : State :=
  let win := bitsAt x 48 8
  if bitsAt x 56 5 ≠ 0 ∨ bitsAt x 44 4 ≠ 0 ∨ bitsAt x 12 8 ≠ 0 then s.winDone fn 7
  else match lookT (s.partAt fn).windows win with
    | none => s.winDone fn 6
    | some _ => (s.modPart fn (fun p => { p with winBusy := some win })).winEnd fn

/-- A write of WINCTL (R370, R372). -/
def State.winRequest (s : State) (fn : Nat) (v : Word) : State :=
  if !s.fnTakes fn ∨ !s.fnOpen fn ∨ !v.getLsbD 63 then s
  else if (s.partAt fn).winBusy.isSome then s.winDone fn 1
  else if v.getLsbD 62 then s.winUnregister fn v.toNat
  else s.winRegister fn v.toNat

/-- WINDOW_REGISTER (R372): a write of WINCTL with GO and without UNREG. -/
def execWindowRegister (fn : Nat) (v : Word) (s : State) : Out := .next (if v.getLsbD 62 then s else s.winRequest fn v)

/-- WINDOW_UNREGISTER (R372): a write of WINCTL with GO and UNREG. -/
def execWindowUnregister (fn : Nat) (v : Word) (s : State) : Out := .next (if v.getLsbD 62 then s.winRequest fn v else s)

end Sys2Proof.Machine
end

