-- ==== Sys2Proof/Machine/Disclose.lean ====
section
/-! DEFINITION. What the operator and the tenant read (R389 to R399): disclosure policies, the counter window and its latch, interval
snapshots, trace samples and count records, and operator copies of fault packets. -/

namespace Sys2Proof.Machine

/-! ### Policies (R389, R390) -/

/-- Whether a transform word is well formed (R389). -/
def transformOk (w : Nat) : Bool :=
  let c := trCode w
  let p := trParam w
  if c = 0 ∨ c = 1 ∨ c = 4 then p == 0 else if c = 2 then decide (1 ≤ p) && decide (p ≤ 63) else c == 3 && p != 0

/-- A field of a policy record. -/
def polAt (r : List Byte) (off n : Nat) : Nat := leNat ((r.drop off).take n)

/-- Whether a policy record is well formed (R389): reserved bits and VF are no part of that (R7, R390). -/
def policyOk (r : List Byte) : Bool :=
  r.length == 256 && bitsAt (polAt r 8 8) 8 8 == 1
    && (List.range 16).all (fun c => let x := polAt r (0x30 + 4 * c) 4
      if c < 8 then transformOk x else x == 0)
    && (List.range 4).all (fun t => transformOk (polAt r (0x70 + 4 * t) 4))
    && (List.range 4).all (fun f => transformOk (polAt r (0x80 + 4 * f) 4))

/-- Whether SIG verifies under TKEY (R389). -/
def policySigned (r : List Byte) : Bool := ed25519 (.ofNat 256 (polAt r 0x10 32)) (r.take 0xC0) (.ofNat 512 (polAt r 0xC0 64))

/-- The result of a policy installation (R390): the first failing check. -/
def State.policyResult (s : State) (fn : Nat) (secured : Bool) (r : List Byte) : Nat :=
  let p := s.partAt fn
  if !secured ∨ fn = 0 ∨ p.tdi ≠ 2 then 1
  else if !policyOk r then 2
  else if bitsAt (polAt r 8 8) 0 6 ≠ fn then 3
  else if !policySigned r then 4
  else match p.policy with
    | none => 0
    | some old => if polAt old 0x10 32 ≠ polAt r 0x10 32 then 5 else if polAt r 0 8 ≤ polAt old 0 8 then 6 else 0

/-- POLICY_INSTALL (R390). -/
def execPolicyInstall (fn : Nat) (secured : Bool) (record : List Byte) (s : State) : Out :=
  let r := s.policyResult fn secured record
  let s' := if r = 0 then s.modPart fn (fun p => { p with policy := some record }) else s
  .next { s' with out := s'.out ++ [.policy fn r] }

/-! ### Counters (R384, R385, R392 to R395, R401) -/

/-- The policy class of a counter number (R385). -/
def counterClass (n : Nat) : Nat :=
  if n < 0x050 then 0 else if n < 0x080 then 1 else if n < 0x0A0 then 2 else if n < 0x0C0 then 3 else if n < 0x100 then 4
  else if n < 0x120 then 5 else if n < 0x140 then 6 else 7

/-- A counter as it stands, of an instance or as a partition sum (R385, R394, R401). -/
def State.counterExact (s : State) (part n : Nat) (inst : Bool) (core asid : Nat) : Nat :=
  if (s.partAt part).unavailable.contains n then cUNAVAILABLE
  else if domainCounter n then
    if inst then if s.hasDom core asid ∧ (s.domAt core asid).part = part then (s.domAt core asid).counter n else cUNAVAILABLE
    else s.partSum part n
  else if partCounter n then s.partSum part n
  else cUNAVAILABLE

/-- The key of a snapshot: a partition sum, or an instance. -/
def snapKey (n : Nat) (inst : Bool) (core asid : Nat) : Nat := n + 4096 * (if inst then 1 + domKey core asid else 0)

/-- A counter as the operator reads it: the transform of its class, once (R393). -/
def State.counterShown (s : State) (part n : Nat) (inst : Bool) (core asid : Nat) : Nat :=
  let x := s.counterExact part n inst core asid
  let w := s.policyWord part (0x30 + 4 * counterClass n)
  let one := inst && domainCounter n
  if x = cUNAVAILABLE then x
  else if trCode w = 1 then x
  else if trCode w = 2 then coarse x (trParam w)
  else if trCode w = 3 then (lookT (s.partAt part).snaps (snapKey n one core asid)).getD 0
  else if trCode w = 4 then if one then cWITHHELD else x
  else cWITHHELD

/-- One sample of a counter through a function's window (R392 to R394): a tenant read is untransformed. -/
def State.counterSample (s : State) (fn n : Nat) (trusted : Bool) : Nat :=
  let p := s.partAt fn
  let x := p.sel.toNat
  let part := if fn = 0 then x % 64 else fn
  let inst := bit x 63
  let core := bitsAt x 50 13
  let asid := bitsAt x 34 12
  if fn ≠ 0 ∧ trusted ∧ p.tdi = 2 then s.counterExact part n inst core asid else s.counterShown part n inst core asid

/-- Whether a function answers a read (R370, R382). -/
def State.fnReads (s : State) (fn : Nat) (trusted : Bool) : Bool :=
  s.fnExists fn && !(s.partAt fn).flr && (fn == 0 || trusted || (s.partAt fn).tdi != 2)

/-- A read of a function is answered, or refused, in its turn (R377). -/
def State.answerRead (s : State) (fn off : Nat) (trusted : Bool) (v : Nat) : State :=
  if !s.fnOpen fn then s
  else { s with out := s.out ++ [if s.fnReads fn trusted then .hostRead fn off v else .unsupportedRequest fn off] }

/-- COUNTER_READ (R394): a 64-bit read. -/
def execCounterRead (fn n : Nat) (trusted : Bool) (s : State) : Out :=
  .next (s.answerRead fn (0x8000 + 8 * n) trusted (s.counterSample fn n trusted))

/-- COUNTER_READ_LOW (R395): the low half, and the latch. -/
def execCounterReadLow (fn n : Nat) (trusted : Bool) (s : State) : Out :=
  let x := s.counterSample fn n trusted
  let s' := s.answerRead fn (0x8000 + 8 * n) trusted (x % 2 ^ 32)
  .next (if s.fnReads fn trusted ∧ s.fnOpen fn then
      s'.modPart fn (fun p => { p with latch := ⟨true, p.sel, 0x8000 + 8 * n, x / 2 ^ 32⟩ })
    else s')

/-- COUNTER_READ_HIGH (R395): the latched high half, if the latch is of this selection and counter, or a fresh one. -/
def execCounterReadHigh (fn n : Nat) (trusted : Bool) (s : State) : Out :=
  let p := s.partAt fn
  let mine := p.latch.valid && p.latch.sel == p.sel && p.latch.off == 0x8000 + 8 * n
  let s' := s.answerRead fn (0x8004 + 8 * n) trusted (if mine then p.latch.high else s.counterSample fn n trusted / 2 ^ 32)
  .next (if mine ∧ s.fnReads fn trusted ∧ s.fnOpen fn then s'.modPart fn (fun p => { p with latch := { p.latch with valid := false } }) else s')

/-- Counter numbers of a class (R385). -/
def classNumbers (cls : Nat) : List Nat :=
  (List.range 0x143).filter (fun n => counterClass n == cls && (domainCounter n || partCounter n))

/-- COUNTER_INTERVAL_SNAPSHOT (R393): in a cycle in which TIMEBASE is a multiple of T × 10^6, every counter of the class. -/
def execCounterIntervalSnapshot (part cls : Nat) (s : State) : Out :=
  let w := s.policyWord part (0x30 + 4 * cls)
  let ds := s.domainsIn part
  let snap (t : Tab Nat) (n : Nat) : Tab Nat :=
    let t := putT t (snapKey n false 0 0) (s.partSum part n)
    if domainCounter n then ds.foldl (fun t d => putT t (snapKey n true d.1 d.2) ((s.domAt d.1 d.2).counter n)) t else t
  .next (if trCode w = 3 ∧ s.time % (trParam w * 10 ^ 6) = 0 then
      s.modPart part (fun p => { p with snaps := (classNumbers cls).foldl snap p.snaps })
    else s)

/-! ### Trace (R396 to R398) -/

/-- Whether a sample period ends now: PERIOD 10 to 24, and class 0 enabled (R396, R397). -/
def sampleDue (time period en : Nat) : Bool :=
  decide (10 ≤ period) && decide (period ≤ 24) && bit en 0 && time % 2 ^ period == 0

/-- TRACE_SAMPLE (R397): at a period boundary one record for each slot that holds a strand of the partition. -/
def execTraceSample (cluster part : Nat) (s : State) : Out :=
  let k := s.clusterAt cluster
  let t := k.traceOf part
  let own := sampleDue s.time t.period t.en
  let op := sampleDue s.time (bitsAt k.optrace 8 5) (k.optrace % 16)
  let slots : List (Nat × Nat) := (List.range 24).flatMap (fun j => (List.range 16).map (fun i => (cluster * 32 + j, i)))
  let one (s : State) (x : Nat × Nat) : State :=
    let u := s.slotAt x.1 x.2
    if u.state = .vacant ∨ (s.domAt x.1 u.asid).part ≠ part then s
    else
      let r := traceRec s.time 0 part x.1 x.2 u.asid u.pc u.state.code
      let s := if own then s.traceOwn 0 part x.1 r else s
      if op then s.traceOp 0 part x.1 r else s
  .next (slots.foldl one s)

/-- TRACE_INTERVAL_RECORD (R398): at the end of an aligned interval of T ms, one record of the events counted in it. -/
def execTraceIntervalRecord (part cls : Nat) (s : State) : Out :=
  let w := s.policyWord part (0x70 + 4 * cls)
  let t := trParam w * 10 ^ 6
  .next (if trCode w = 3 ∧ t ≤ s.time ∧ s.time % t = 0 then
      (s.ringPut (traceRec (s.time - t) (0x10 + cls) part 0 0 0 0 ((lookT (s.partAt part).traceCounts cls).getD 0))).modPart part
        (fun p => { p with traceCounts := putT p.traceCounts cls 0 })
    else s)

/-! ### Operator copies (R399) -/

/-- The oldest operator copy of the partition that OFPART shows is discarded (R399). -/
def State.ofPop (s : State) (fn : Nat) : State :=
  if fn = 0 ∧ s.fnOpen 0 then s.modPart (s.partAt 0).ofpart (fun p => { p with faults := p.faults.drop 1 }) else s

/-- OFPOP (R399): a write through the physical function block. -/
def execOfpop (fn : Nat) (s : State) : Out := .next (s.ofPop fn)

end Sys2Proof.Machine
end

