-- ==== Sys2Proof/Machine/EvRace.lean ====
section
/-! DEFINITION. Steps of the race detector (R306, R307, R314), and uncorrectable errors with what they take down (R329, R335). -/

namespace Sys2Proof.Machine

/-! ### Records (R314) -/

/-- RACE_RECORD_APPEND (R314): the open record is appended after 1,024 cycles without an extension. -/
def execRaceRecordAppend (core : Nat) (s : State) : Out :=
  .next (match (s.coreAt core).openRec with
    | some r => if r.last + 1024 ≤ s.time then s.closeRecord core else s
    | none => s)

/-! ### The sweep (R306) -/

/-- Lines that a pass visits in a cluster (R306). -/
def sweepLines : Nat := 352256

/-- The object that holds a byte of LS, TS or cluster store. -/
def State.objectOver (s : State) (a : Nat) : Option Nat :=
  (s.objs.find? (fun p => p.2.entKind == 1 && !p.2.retired && decide (p.2.level < 3) && decide (s.localAddr p.2 0 ≤ a)
    && decide (a < s.localAddr p.2 0 + p.2.length))).map (fun p => p.1)

/-- A stale field is retired: SCOPE 0 with RB the effective epoch (R302, R306). -/
def State.swept (s : State) (o : Nat) (m : Mordant) : Mordant := if m.rb = s.epochOf o then m else ⟨0, 0, s.epochOf o, 0⟩

/-- A line of a store is visited. -/
def State.sweepAddr (s : State) (a : Nat) : State :=
  match s.objectOver a with
  | some o => s.setField (lineOf a) (s.swept o (s.fieldAt (lineOf a)))
  | none => s

/-- Place k of a core's L1 is visited: the lines whose line number is k modulo 1,024 stand there (log 25). -/
def State.sweepL1 (s : State) (core k : Nat) : State :=
  ((s.coreAt core).l1.filter (fun l => lineOf l.addr % 1024 == k)).foldl
    (fun s l => s.modCore core (fun c => c.setLine { l with field := s.swept l.obj l.field })) s

/-- The line at a place of a cluster's pass: LS, TS, cluster store, then the L1 lines of its cores (R306). -/
def State.visit (s : State) (cl n : Nat) : State :=
  if n < 98304 then s.sweepAddr (lsBase (cl * 32 + n / 4096) + 64 * (n % 4096))
  else if n < 196608 then s.sweepAddr (tsBase (cl * 32 + (n - 98304) / 4096) + 64 * ((n - 98304) % 4096))
  else if n < 327680 then s.sweepAddr (csBase cl + 64 * (n - 196608))
  else s.sweepL1 (cl * 32 + (n - 327680) / 1024) ((n - 327680) % 1024)

/-- The domains of a cluster take note of a pass that begins or completes (R307). -/
def State.noteSweep (s : State) (cl was now : Nat) : State :=
  let mark (p : Nat × Domain) : Nat × Domain :=
    if clusterOf (p.1 / 4096) = cl ∧ p.2.swept = was then (p.1, { p.2 with swept := now }) else p
  { s with domains := s.domains.map mark }

/-- SWEEP_VISIT (R306): the next line of the cluster's pass. -/
def execSweepVisit (cluster : Nat) (s : State) : Out :=
  let n := (s.clusterAt cluster).sweep % sweepLines
  let s := if n = 0 then s.noteSweep cluster 0 1 else s
  let s := (s.visit cluster n).modCluster cluster (fun k => { k with sweep := (n + 1) % sweepLines })
  .next (if n + 1 = sweepLines then s.noteSweep cluster 1 2 else s)

/-! ### Rebasing (R307) -/

/-- Whether a tick of a domain waits for a rebase. -/
def State.wantsRebase (s : State) (core asid : Nat) : Bool :=
  (s.coreAt core).slots.any (fun t => t.2.asid == asid && t.2.state == .wait .rebase)

/-- REBASE (R307): once a sweep pass that began after the last rebase has completed. -/
def execRebase (core asid : Nat) (s : State) : Out :=
  .next (if s.wantsRebase core asid ∧ (s.domAt core asid).swept = 2 then s.rebase core asid else s)

/-! ### Uncorrectable errors (R329, R335) -/

/-- Whether a command reads an object: as its source, as the rows of its tile queues, or as a side block (R197, R329, R362). -/
def State.cmdReads (s : State) (core : Nat) (k : Cmd) (o : Nat) : Bool :=
  let c := k.code_
  let queue (q : Nat) : Bool := (s.queueAt core q).any (fun x => objOf x.cap == o)
  if c = 1 then queue (bitsAt k.param 25 3) || (decide (3 ≤ pairClass (bitsAt k.param 28 4)) && queue (bitsAt k.param 22 3))
  else if c = 4 ∨ c = 0x12 ∨ c = 0x24 ∨ c = 2 ∧ bit k.param 27 then false
  else (k.x.tag && objOf k.x == o) || (c == 0x23 && (s.partAt (s.domAt core k.asid).part).sides.any (fun x => x.obj == o))

/-- A SITE 2 error ends the oldest command of a port that reads the object with ECC (R192, R329). -/
def State.eccCommand (s : State) (core port o : Nat) : State :=
  match (heads [] ((s.coreAt core).port port)).find? (fun k => k.done.isNone && s.cmdReads core k o) with
  | some k => (s.poisonDest core port k stECC).endsNow core port k stECC
  | none => s

/-- Objects in transit to a core: those that messages and shipped entries on their way to it carry. -/
def State.goingTo (s : State) (core : Nat) : List Nat :=
  let near (m : Msg) : Bool := m.dstCore == core && m.dstDev == s.devOf m.dstCtx
  let ms := (s.net.filter near ++ s.outbox.filter near).flatMap (fun m => (m.pay.filter isOwn).map objOf)
  let ws := ((s.coreAt core).shipped.filter (fun x => isOwn x.2.reg)).map (fun x => objOf x.2.reg)
  let rs := match (s.coreAt core).ring with
    | some r => if r.latch.own then [r.latch.obj] else []
    | none => []
  (ms ++ ws ++ rs).filter (fun o => (s.objAt o).transit)

/-- A core fails (R329, R335): one packet for each of its domains; its objects and those on their way to it are poisoned, its strands
killed, and its domains removed. The next SUPV core serves as supervisor. -/
def State.failCore (s : State) (core : Nat) : State :=
  let ds := (s.domains.filter (fun d => d.1 / 4096 == core)).map (fun d => d.1 % 4096)
  let f : FaultInfo := { code := fECC_UNCORR, arg := 4 }
  let s := s.modCore core (fun k => { k with outOfService := true })
  let packet (s : State) (asid : Nat) : State :=
    let part := (s.domAt core asid).part
    s.sendPacket part part core
      [packetHead true false false false part core asid 0 0 0 f.code, 0, 0, .ofNat 64 f.detail, .ofNat 64 s.time, 0, 0, 0] []
  let s := ds.foldl packet s
  let os := (s.objs.filter (fun p => p.2.entKind != 0 && !p.2.retired && p.2.ownCore == core && p.2.ownDev == s.devOf p.2.ownCtx)).map
    (fun p => p.1)
  let s := (os ++ s.goingTo core).foldl State.poison s
  ds.foldl (fun s asid => (s.emptyDomain core asid).removeDomain core asid) s

/-- The pattern at a strand's pc: what it fetches there (R320). -/
def State.patternAt (s : State) (c i : Nat) : Nat :=
  let t := s.slotAt c i
  let o := objOf t.code
  let part_ (at_ : Nat) : Option Nat := (s.flatNow t.asid o at_).toOption.map (fun a => leNat (s.seen c 16 o a 2))
  match part_ (cursorOf t.code), part_ (cursorOf t.code + 2) with
  | some lo, hi => if lo < 2 ^ 15 then lo else lo * 2 ^ 16 + hi.getD 0
  | none, _ => 0

/-- ECC_UNCORR (R329) by site: data that a strand consumes; a slot's registers; data that the command of a port reads; an instruction;
state that a core shares. `slot` is the slot, or at site 2 the port; `obj` is the object with the bad bytes. -/
def execEccUncorr (site core slot obj : Nat) (s : State) : Out :=
  let t := s.slotAt core slot
  let f : FaultInfo := { code := fECC_UNCORR, arg := site }
  let live := t.state != .vacant && t.state != .swap
  .next (if site = 0 then
      match t.state with
      | .wait (.reply a len) =>
        if a.obj = obj then
          let p := a.pieces.headD (0, 0, 0)
          (s.replyFault core slot len a { f with addr := p.2.1 }).poisonAt obj (some p.2.2)
        else s
      | .ready => ((s.modSlot core slot (fun t => { t with insn := s.patternAt core slot })).freezeAt core slot f).poisonAt obj none
      | .wait _ => s
      | .vacant => s
      | .frozen => s
      | .swap => s
    else if site = 1 then
      if live then (s.sendStrandPacket core slot f (s.strandPacket core slot true f)).killStrand core slot f.code else s
    else if site = 2 then s.eccCommand core slot obj
    else if site = 3 then
      if t.state = .ready then (s.freezeAt core slot f).poisonAt (objOf t.code) (s.flatNow t.asid (objOf t.code) (cursorOf t.code)).toOption else s
    else if site = 4 then s.failCore core
    else s)

end Sys2Proof.Machine
end

