-- ==== Sys2Proof/Machine/Router.lean ====
section
/-! DEFINITION. Links and forwarding (R343 to R346, R349 to R351, R354 to R356). -/

namespace Sys2Proof.Machine

/-! ### Links (R343 to R346) -/

/-- A fabric port. -/
def State.linkAt (s : State) (p : Nat) : Link := (lookT s.links p).getD Link.reset

/-- Change a fabric port. -/
def State.modLink (s : State) (p : Nat) (f : Link → Link) : State := { s with links := putT s.links p (f (s.linkAt p)) }

/-- Whether a port has a neighbour: a mesh ends at its edges, and a dimension of extent 1 has no links (R350). -/
def State.hasLink (s : State) (p : Nat) : Bool :=
  let e := s.extents
  match p with
  | 0 => decide (devW s.phys + 1 < e.1)
  | 1 => decide (0 < devW s.phys)
  | 2 => decide (devX s.phys + 1 < e.2.1)
  | 3 => decide (0 < devX s.phys)
  | 4 | 5 => decide (1 < e.2.2.1)
  | 6 | 7 => decide (1 < e.2.2.2)
  | _ => false

/-- Whether a port's link is up and its neighbour is not fenced (R343, R351). -/
def State.linkOk (s : State) (p : Nat) : Bool :=
  s.hasLink p && decide (6 ≤ (s.linkAt p).width) && !s.fenced.contains (neighbour s.extents s.phys p)

/-- Flits of a packet: its header and 64 bytes of payload in each (R347). -/
def Body.flits (b : Body) : Nat := 1 + (b.payload + 63) / 64

/-- Groups of eight flits that a packet fills (R344). DESIGN CHOICE (log 77): each packet begins a group. -/
def Body.groups (b : Body) : Nat := (b.flits + 7) / 8

/-- The virtual channel of a packet on a port (R349). DEDUCED (log 77): class and dateline number the first eight, and the class the others. -/
def vcOf (port : Nat) (p : Packet) : Nat := if port < 4 then 8 + p.tc else 2 * p.tc + p.dl

/-- The groups of a packet that goes out on a link enter its replay buffer (R345). -/
def Link.sends (l : Link) (p : Packet) : Link :=
  { l with
    txSeq := (l.txSeq + p.body.groups) % 4096
    replay := l.replay ++ (List.range p.body.groups).map (fun i => ((l.txSeq + i) % 4096, p, i)) }

/-- One packet that waits at a link gets the credits that its channel has, unless an earlier one of the channel waits, and goes out when all
its flits have theirs and the replay buffer, of 64 groups, has room (R344, R345): the link, the channels that are stopped, and what has gone
out. -/
def Link.try_ (acc : Link × List Nat × List Packet) (w : Waiting) : Link × List Nat × List Packet :=
  let l := acc.1
  let keep (l : Link) (w : Waiting) : Link × List Nat × List Packet := ({ l with queue := l.queue ++ [w] }, putN acc.2.1 w.vc, acc.2.2)
  if acc.2.1.contains w.vc then keep l w
  else
    let n := min w.left (l.credits.getD w.vc 0)
    let l := { l with credits := setL l.credits w.vc (l.credits.getD w.vc 0 - n) }
    if n = w.left ∧ l.replay.length + w.packet.body.groups ≤ 64 then (l.sends w.packet, acc.2.1, acc.2.2 ++ [w.packet])
    else keep l { w with left := w.left - n }

/-- What waits at a port goes out as far as credits and the replay buffer let it (R344, R345). -/
def State.pump (s : State) (p : Nat) : State :=
  let l := s.linkAt p
  let r := l.queue.foldl Link.try_ ({ l with queue := [] }, [], [])
  let s := s.modLink p (fun _ => r.1)
  { s with out := s.out ++ r.2.2.map (fun x => .packet p x) }

/-- A packet goes out on a port, as soon as it has the credits (R344). -/
def State.sendOn (s : State) (p : Nat) (x : Packet) : State :=
  (s.modLink p (fun l => { l with queue := l.queue ++ [⟨x, vcOf p x, x.body.flits⟩] })).pump p

/-! ### Drops and answers (R351 to R356) -/

/-- A packet is dropped, and counted for its partition (R385). -/
def State.dropPacket (s : State) (p : Packet) : State := s.countPart ((s.keyOwner p.pkey).getD 0) 0x0C6 1

/-- Whether a packet is a TC 3 read (R356). -/
def Packet.privRead (p : Packet) : Bool :=
  p.tc == 3 && (match p.body with
    | .rload .. => true
    | .eread .. => true
    | _ => false)

/-- Whether a packet is a TC 3 write (R356). -/
def Packet.privWrite (p : Packet) : Bool :=
  p.tc == 3 && (match p.body with
    | .rbatch .. => true
    | .ewrite .. => true
    | _ => false)

/-- The poisoned answer to a read, and what tells the sender of a dropped write that it was not made (R356). DEDUCED (log 13): TC 3 traffic
waits on no timeout, and a CKPT ends with POISON, so a dropped write is answered too. -/
def poisonedAnswer : Body → Option Body
  | .rload c i .. => some (.rdata c i .poisoned)
  | .eread c p q .. => some (.edata c p q .poisoned)
  | .ewrite c p q .. => some (.edata c p q .poisoned)
  | .rbatch c i _ => some (.rback c i (some 3))
  | _ => none

/-- The TYPE of a body (R348). DESIGN CHOICE (log 62): a barrier arrival, and the end of a remote object, travel as MSG packets. -/
def Body.type : Body → Nat
  | .msg .. | .arrival .. | .release .. | .piece .. => 1 | .msgAck .. => 2 | .rload .. => 3 | .rdata .. | .edata .. => 4 | .rbatch .. => 5 | .rback .. => 6 | .ewrite .. => 7
  | .eread .. => 8 | .eack .. => 9 | .block _ => 10 | .lake _ => 11 | .sack _ => 12 | .snack .. => 13 | .errcomp _ => 14
  | .stopnote .. => 15 | .mgmt => 16 | .reserved t => t

/-- The isolating router answers a TC 3 read with a poisoned reply, and drops a TC 3 write into its write log, which has 4,096 entries
(R356). -/
def State.isolate (s : State) (p : Packet) : State :=
  let told (s : State) : State := match poisonedAnswer p.body with
    | some b => s.answer p b
    | none => s
  if p.privRead then told s
  else if p.privWrite then
    told (if s.writeLog.length < 4096 then { s with writeLog := s.writeLog ++ [(s.time,
      field p.src 48 16 + field p.dst 32 16 + field p.body.type 24 8 + field p.body.payload 0 24)] } else s.dropPacket p)
  else s.dropPacket p

/-- A packet's body without the bytes that it carries. -/
def Body.bare : Body → Body
  | .ewrite c e q o g l _ => .ewrite c e q o g l []
  | .block b => .block { b with payload := [] }
  | .lake b => .lake { b with payload := [] }
  | .piece o g l _ _ => .piece o g l [] []
  | .msg m _ => .msg m []
  | b => b

/-- An ERRCOMP answers any packet but another ERRCOMP (R352, R353). -/
def errorAnswer : Body → Option Body
  | .errcomp _ => none
  | b => some (.errcomp b.bare)

/-! ### Forwarding (R350, R351) -/

/-- The first port of +W, −W, +X and −X that can be taken (R351). -/
def State.detourPort (s : State) : Option Nat := [0, 1, 2, 3].find? (fun p => s.linkOk p)

/-- Note a TC 3 read that goes out on a port, or take out the one that an answer ends; the table holds 256 (R356). -/
def State.noteRead (s : State) (port : Nat) (p : Packet) : State :=
  if p.privRead ∧ (s.linkAt port).reads.length < 256 then s.modLink port (fun l => { l with reads := l.reads ++ [p] }) else s

/-- Whether an answer ends a read. -/
def endsRead (p q : Packet) : Bool :=
  q.src == p.dst && q.dst == p.src && (match q.body, p.body with
    | .rload c i .., .rdata c' i' _ => c == c' && i == i'
    | .rload c i .., .errcomp (.rload c' i' ..) => c == c' && i == i'
    | .eread c e n .., .eack c' e' n' .. => c == c' && e == e' && n == n'
    | .eread c e n .., .edata c' e' n' _ => c == c' && e == e' && n == n'
    | .eread c e n .., .errcomp (.eread c' e' n' ..) => c == c' && e == e' && n == n'
    | _, _ => false)

/-- An answer that passes ends the read that it is for. -/
def State.endRead (s : State) (p : Packet) : State :=
  { s with links := s.links.map (fun l => (l.1, { l.2 with reads := l.2.reads.filter (fun q => !endsRead p q) })) }

/-- Forward a packet that came in on a port on its next hop; a Y or Z link that cannot be taken makes a packet detour once, and LAKE packets and W and X hops
never detour (R350, R351). TC 3 traffic toward a fenced device, and TC 3 reads at a W or X link that cannot be taken, end as R356 says. -/
def State.forward (s : State) (from_ : Nat) (p : Packet) : State :=
  let port := nextPort s.extents s.phys p.dst
  let dl := nextDl s.extents s.phys port p.dl (port / 2 != from_ / 2)
  let s := s.endRead p
  if port = 8 then s
  else if s.linkOk port then (s.noteRead port p).sendOn port { p with dl := dl }
  else if p.tc = 3 ∧ (s.linkAt port).nextFenced ∧ (port < 4 ∨ p.dst = neighbour s.extents s.phys port) then s.isolate p
  else if port < 4 ∨ p.det then (if p.privRead ∧ port < 4 then s.isolate p else s.dropPacket p)
  else match p.body with
    | .lake _ => s.dropPacket p
    | _ => match s.detourPort with
      | some q => (s.noteRead q p).sendOn q { p with det := true, dl := 0 }
      | none => s.dropPacket p

/-- ISOLATED_READ_ANSWER (R356). -/
def execIsolatedReadAnswer (port : Nat) (p : Packet) (s : State) : Out :=
  .next (if (s.linkAt port).nextFenced then s.isolate p else s)

/-! ### Link-level retry (R345, R346) -/

/-- Whether group g is acknowledged by ACKSEQ a, modulo 4,096. -/
def acked (a g : Nat) : Bool := decide ((a + 4096 - g) % 4096 < 2048)

/-- What has been acknowledged leaves the replay buffer. -/
def Link.ackedBy (l : Link) (a : Nat) : Link :=
  let rest := l.replay.filter (fun x => !acked a x.1)
  { l with replay := rest, tries := if rest.length < l.replay.length then 0 else l.tries }

/-- An ACKSEQ: what waited for room in the replay buffer, or for credits, goes out. -/
def State.takeAck (s : State) (port a : Nat) : State := (s.modLink port (fun l => l.ackedBy a)).pump port

/-- The packets of a link that are not fully acknowledged, and those that wait for credits. -/
def Link.pending (l : Link) : List Packet :=
  (l.replay.filter (fun x => x.2.2 + 1 == x.2.1.body.groups)).map (fun x => x.2.1) ++ l.queue.map (fun w => w.packet)

/-- A link goes down: every packet that is not fully acknowledged is sent again, whole, on the route that R351 gives (R345). -/
def State.linkLost (s : State) (port : Nat) : State :=
  let ps := (s.linkAt port).pending
  let s := s.modLink port (fun l =>
    { l with width := 0, replay := [], tries := 0, queue := [], credits := Link.reset.credits, owed := Link.reset.owed })
  ps.foldl (fun s p => s.forward port p) s

/-- LINK_DOWN (R345). -/
def execLinkDown (port : Nat) (s : State) : Out := .next (s.linkLost port)

/-- A NAK (R345): the groups after the named one are sent again; a group that is replayed eight times in a row brings the link down. -/
def State.takeNak (s : State) (port gseq : Nat) : State :=
  let s := s.modLink port (fun l => l.ackedBy gseq)
  let l := s.linkAt port
  if l.replay.isEmpty then s.pump port
  else if 8 ≤ l.tries then s.linkLost port
  else
    let s := s.modLink port (fun l => { l with tries := l.tries + 1 })
    { s with out := s.out ++ l.replay.map (fun x => Output.group port x.1 x.2.1 x.2.2) : State }.pump port

/-- NAK (R345): resend from the group after the one named. -/
def execNak (port gseq : Nat) (s : State) : Out := .next (s.takeNak port gseq)

/-- Whether a control word names only virtual channels 0 to 11 (R344). -/
def channelsOk (c : Nat) : Bool :=
  decide (bitsAt c 99 4 < 12) && (List.range 8).all (fun i => decide (bitsAt c (60 + 4 * i) 4 < 12))

/-- Whether a group is intact: its length, its channels and its CRC (R344). -/
def groupOk (flits : List Byte) (ctl : Quad) : Bool :=
  let c := ctl.toNat
  flits.length == 512 && channelsOk c && crc32c (flits ++ (leBytes 16 c).drop 4) == bitsAt c 0 32

/-- The flits of a group that has come count toward the credits that this end owes (R344). -/
def owedBy (c : Nat) (owed : List Nat) : List Nat :=
  (List.range 8).foldl (fun l i => setL l (bitsAt c (60 + 4 * i) 4) (l.getD (bitsAt c (60 + 4 * i) 4) 0 + 1)) owed

/-- The credits that the next control word returns: a virtual channel with eight flits or more to return, and how many eights (R344). -/
def creditDue (owed : List Nat) : Nat × Nat :=
  match (List.range 12).find? (fun v => decide (8 ≤ owed.getD v 0)) with
  | some v => (v, min 15 (owed.getD v 0 / 8))
  | none => (0, 0)

/-- The credits that a control word returns are this end's to use, up to the 64 flits of the other end's buffer (R344). -/
def Link.credited (l : Link) (c : Nat) : Link :=
  let v := bitsAt c 99 4
  { l with credits := setL l.credits v (min 64 (l.credits.getD v 0 + 8 * bitsAt c 95 4)) }

/-- LINK_GROUP_RECEIVE (R344, R345): an intact group in sequence is acknowledged, and the control word returns credits; any other is
discarded and answered with NAK. DEDUCED (log 77): a flit leaves the input buffer as it comes, since the model takes packets whole. -/
def execLinkGroupReceive (port : Nat) (flits : List Byte) (ctl : Quad) (s : State) : Out :=
  let c := ctl.toNat
  let l := s.linkAt port
  let last := (l.rxSeq + 4095) % 4096
  .next (if l.width < 6 then s
    else if groupOk flits ctl && bitsAt c 116 12 == l.rxSeq then
      let owed := owedBy c l.owed
      let due := creditDue owed
      let s := s.modLink port (fun l =>
        { l.credited c with rxSeq := (l.rxSeq + 1) % 4096, owed := setL owed due.1 (owed.getD due.1 0 - 8 * due.2) })
      let s := { s with out := s.out ++ [Output.control port (bitsAt c 116 12) false due.1 due.2] }
      if bit c 103 then s.takeNak port (bitsAt c 104 12) else s.takeAck port (bitsAt c 104 12)
    else { s with out := s.out ++ [Output.control port last true 0 0] })

/-- WIDTH_CHANGE (R346): a link with fewer than six working lanes is down (R343). -/
def execWidthChange (port lanes : Nat) (s : State) : Out :=
  .next (if lanes < 6 then s.linkLost port
    else s.modLink port (fun l => { l with width := if lanes < 12 then 6 else if lanes < 24 then 12 else 24 }))

end Sys2Proof.Machine
end

