-- ==== Sys2Proof/Machine/Remote.lean ====
section
/-! DEFINITION. What a device does with packets that are addressed to it: remote accesses at the home (R125, R127, R212, R357),
messages and their acknowledgements (R231 to R234), and delivery (R348, R349, R353, R354). -/

namespace Sys2Proof.Machine

/-! ### Accesses at the home (R125, R357) -/

/-- Whether a partition answers requests: it runs (R339). -/
def State.answers (s : State) (part : Nat) : Bool := (s.partAt part).pstate == 0

/-- The check of an access at the home, in the order of R125: generation, bounds, alignment, poison, ownership; none, or the code of R126.
A store must come from the owner; a load, which may be through a SHADE, from the owner's partition. -/
def State.homeCheck (s : State) (p : Packet) (obj gen loc n align : Nat) (write : Bool) : Option Nat :=
  let e := s.objAt obj
  let owner := e.ownDev == p.srcJob && e.ownCore == p.srcCore && e.ownCtx == p.ctx
  if !s.answers (s.partOf p.ctx) then some 2
  else if e.entKind ≠ 1 ∨ e.retired ∨ e.gen ≠ gen ∨ e.level = 1 ∨ 5 ≤ e.level then some 4
  else if e.length < loc + n ∨ loc % max align 1 ≠ 0 then some 4
  else if e.poisoned then some 3
  else if e.part ≠ s.partOf p.ctx ∨ (write ∧ !owner) then some 4
  else none

/-- The ranges of n bytes of a home object, as its owner's context maps them. -/
def State.homeSpans (s : State) (obj loc n : Nat) : List (Nat × Nat × Nat) := s.spansAt (s.objAt obj).ownCtx obj loc n

/-- Write bytes at the home: the level, and the L1s that hold the lines. -/
def State.homeWrite (s : State) (obj loc : Nat) (b : List Byte) : State :=
  let go (s : State) (x : Nat × Nat × Nat) (bs : List Byte) : State :=
    let s := if (s.objAt obj).ptab then (s.finishRooted obj).purgeTlbs obj else s
    let s := s.writeLevel x.2.1 bs
    s.cores.foldl (fun (s : State) (k : Nat × Core) => s.syncLines k.1 x.2.1 x.2.2) s
  ((s.homeSpans obj loc b.length).foldl (fun (acc : State × List Byte) x =>
    (go acc.1 x (acc.2.take x.2.2), acc.2.drop x.2.2)) (s, b)).1

/-- An RLOAD is served (R357). -/
def State.serveLoad (s : State) (p : Packet) : State :=
  match p.body with
  | .rload c i obj gen loc n =>
    match s.homeCheck p obj gen loc n n false with
    | some 2 => s.answer p (.errcomp p.body)
    | some 3 => s.answer p (.rdata c i .poisoned)
    | some code => s.answer p (.rdata c i (.refused code))
    | none =>
      let xs := s.homeSpans obj loc n
      if spanTotal xs < n then s.answer p (.rdata c i (.refused 4))
      else s.answer p (.rdata c i (.bytes (s.engineBytes xs)))
  | _ => s

/-- The code of the first store of a batch that fails (R357). -/
def State.batchCheck (s : State) (p : Packet) : List RemoteStore → Option Nat
  | [] => none
  | x :: xs =>
    match s.homeCheck p x.homeObj x.homeGen x.loc x.bytes.length x.bytes.length true with
    | some code => some code
    | none =>
      if spanTotal (s.homeSpans x.homeObj x.loc x.bytes.length) < x.bytes.length then some 4
      else s.batchCheck p xs

/-- A batch is applied whole or refused whole (R357). -/
def State.serveBatch (s : State) (p : Packet) : State :=
  match p.body with
  | .rbatch c i st =>
    match s.batchCheck p st with
    | some 2 => s.answer p (.errcomp p.body)
    | some code => s.answer p (.rback c i (some code))
    | none =>
      let s := st.foldl (fun s x => s.homeWrite x.homeObj x.loc x.bytes) s
      { s.answer p (.rback c i none) with batches := (s.batches ++ [(p.src, p.srcCore, p.seq)]).drop (s.batches.length + 1 - 4096) }
  | _ => s

/-- An EWRITE of a remote engine access (R212), of which one of no bytes is checked and translated as well (R258); the lines of a CKPT's take "inherited by transfer" (R301). -/
def State.serveWrite (s : State) (p : Packet) : State :=
  match p.body with
  | .ewrite c e q obj gen loc b =>
    match s.homeCheck p obj gen loc b.length 1 true with
    | some code => s.answer p (.eack c e q (some code) [])
    | none =>
      if !s.mapped (s.objAt obj).ownCtx obj loc b.length then s.answer p (.eack c e q (some 4) [])
      else
        let s := s.homeWrite obj loc b
        let s := if e = 1 ∧ (s.objAt obj).level < 3 then
            (s.homeSpans obj loc b.length).foldl (fun s x => s.inheritLines x.2.1 x.2.2 (s.epochOf obj)) s
          else s
        s.answer p (.eack c e q none [])
  | _ => s

/-- An EREAD of an RGET (R212). -/
def State.serveRead (s : State) (p : Packet) : State :=
  match p.body with
  | .eread c e q obj gen loc n =>
    match s.homeCheck p obj gen loc n 1 false with
    | some code => s.answer p (.eack c e q (some code) [])
    | none =>
      let xs := s.homeSpans obj loc n
      if spanTotal xs < n then s.answer p (.eack c e q (some 4) [])
      else s.answer p (.eack c e q none (s.engineBytes xs))
  | _ => s

/-! ### Messages between devices (R231 to R234) -/

/-- The entry that a REMOTE entry takes: one of the receiver's partition, or, when that has used its number, any free entry, so that a
fallback delivers the rights (R232; DESIGN CHOICE, log 29). -/
def State.remoteEntry (s : State) (part : Nat) : Option Nat :=
  match s.pickEntry part 65535 with
  | some o => some o
  | none => freeFrom s.objs 65535 (Config.freeEntry s.fresh % 2 ^ 28) (s.objs.length + 1)

/-- A REMOTE entry for an object of another device (R220, R234), and its identifier; none when no entry is free. -/
def State.makeRemote (s : State) (mv : Moved) (core ctx : Nat) : Option (State × Nat) :=
  match s.remoteEntry (s.partOf ctx) with
  | none => none
  | some o =>
    let e : Obj :=
      { Obj.free with gen := (s.objAt o).gen, part := s.partOf ctx, ownDev := s.devOf ctx, ownCore := core, ownCtx := ctx, held := 65536, level := 5,
                      entKind := 1, length := mv.length, homeDev := mv.homeDev, homeObj := mv.homeObj, homeGen := mv.homeGen }
    some ((s.writeEntry o e).drawn, o)

/-- A copy of a moved object in the receiver's pool (R231); none when there is no room, no entry (R232), or a page that is not mapped. -/
def State.makeCopy (s : State) (mv : Moved) (level : Nat) (bs : List Byte) (ts : List Bool) (core ctx : Nat) : Option (State × Nat) :=
  match (s.domAt core ctx).rx level with
  | none => none
  | some pool => match s.room pool mv.length true, s.pickEntry (s.partOf ctx) 65535 with
    | some base, some o =>
      let s := (s.makeObj o pool base mv.length core ctx 65536).drawn
      if spanTotal (s.homeSpans o 0 mv.length) < mv.length then none else
      let s := s.homeWrite o 0 bs
      let s := ((List.range ts.length).zip ts).foldl (fun (s : State) x =>
        match s.flatNow ctx o (16 * x.1) with
        | .ok a => if x.2 then s.setTag a true else s
        | .error _ => s) s
      let e := s.objAt o
      some (if e.level < 3 then s.inheritLines (s.localAddr e 0) mv.length (s.epochOf o) else s, o)
    | _, _ => none

/-- At the home of an object, its owner gives it up (R234): it is freed, or passes to another domain. -/
def State.takeRelease (s : State) (p : Packet) : State :=
  match p.body with
  | .release dev core ctx obj gen heir =>
    let e := s.objAt obj
    if genCurrent e gen && e.entKind == 1 && e.ownDev == dev && e.ownCore == core && e.ownCtx == ctx && e.part == s.partOf p.ctx then
      match heir with
      | some (d, c, x) => s.setOwner obj d c x
      | none => (s.drainObj obj).revokeFree obj
    else s
  | _ => s

/-- One moved object comes to a receiver: the capability that it gets once its message is accepted, whether it was copied, and whether it
fell back. Rights that return to a home whose generation has moved on are of no use there (R234). -/
def State.land (s : State) (mv : Moved) (c : CReg) (core ctx : Nat) : Option (State × CReg × Bool × Bool) :=
  let cap (s : State) (o : Nat) : CReg := mkCap (kindOf c) (rbitsOf c) (bitsAt c.val.toNat 104 16) (s.objAt o).gen o (cursorOf c)
  let rights (fell : Bool) : Option (State × CReg × Bool × Bool) :=
    if mv.homeDev = s.devOf ctx then
      some (s, if genCurrent (s.objAt mv.homeObj) mv.homeGen then cap s mv.homeObj else
        mkCap (kindOf c) (rbitsOf c) (bitsAt c.val.toNat 104 16) mv.homeGen mv.homeObj (cursorOf c), false, fell)
    else (s.makeRemote mv core ctx).map (fun r => (r.1, cap r.1 r.2, false, fell))
  match mv.copy with
  | none => rights false
  | some (level, bs, ts) =>
    match s.makeCopy mv level bs ts core ctx with
    | some (s', o) => some (s', cap s' o, true, false)
    | none => rights true

/-- All moved objects of a message land; none when the device has no entry for one. -/
def State.landAll (s : State) (core ctx : Nat) (m : Msg) : List Moved → Option (State × Msg × List (Nat × Bool))
  | [] => some (s, m, [])
  | mv :: rest =>
    match s.land mv (m.pay.getD mv.index CReg.zero) core ctx with
    | none => none
    | some (s', c, copied, fell) =>
      let m' := setStatus { m with pay := m.pay.set mv.index c } (if copied then 2 else if fell then 1 else 0)
      match s'.landAll core ctx m' rest with
      | none => none
      | some (s'', m'', acks) => some (s'', m'', (mv.index, copied) :: acks)

/-- Whether a packet carries bytes of an object that a message brings. -/
def bringsPiece (p : Packet) (x : Moved) (q : Packet) : Bool :=
  q.src == p.src && q.tc == p.tc && (match q.body with
    | .piece o g .. => o == x.homeObj && g == x.homeGen
    | _ => false)

/-- What a message's packet says of an object, with the bytes that went before it (R347); none while some of them have not come. -/
def State.wholeMoved (s : State) (p : Packet) (x : Moved) : Option Moved :=
  match x.copy with
  | some (l, [], _) =>
    let ps := s.pieces.filter (bringsPiece p x)
    let at_ (j : Nat) : Option (List Byte × List Bool) := ps.findSome? (fun q => match q.body with
      | .piece _ _ off b ts => if off = 4096 * j then some (b, ts) else none
      | _ => none)
    let got := (List.range ((x.length + 4095) / 4096)).map at_
    if got.all (fun g => g.isSome) then
      some { x with copy := some (l, got.flatMap (fun g => (g.getD ([], [])).1), got.flatMap (fun g => (g.getD ([], [])).2)) }
    else none
  | _ => some x

/-- A message comes from another device: its objects land and it goes on to its core's inbox, or it is refused (R232 to R234, R280). -/
def State.takeMsg (s : State) (p : Packet) : State :=
  match p.body with
  | .msg m mv =>
    let d := s.domAt m.dstCore m.dstCtx
    let whole := mv.map (s.wholeMoved p)
    if whole.any (fun x => x.isNone) then { s with pieces := s.pieces ++ [p] }
    else
      let s := { s with pieces := s.pieces.filter (fun q => !mv.any (fun x => bringsPiece p x q)) }
      if !s.hasDom m.dstCore m.dstCtx ∨ !s.answers d.part then s.answer p (.msgAck m [] true)
      else match s.landAll m.dstCore m.dstCtx m (whole.filterMap (fun x => x)) with
        | none => s.answer p (.msgAck m [] true)
        | some (s', m', acks) =>
          let k := (p.src * 4 + p.tc) * 65536 + p.seq
          { s' with net := s'.net ++ [{ m' with ticket := some k }], landings := putT s'.landings k ⟨{ p with body := .msg m (mv.map Moved.bare) }, acks⟩ }
  | _ => s

/-- Bytes of an object that a message brings have come: the message is taken if it waited for them. -/
def State.takePiece (s : State) (p : Packet) : State :=
  let s := { s with pieces := s.pieces ++ [p] }
  match s.pieces.find? (fun q => match q.body with
    | .msg _ mv => mv.any (fun x => bringsPiece q x p) && mv.all (fun x => (s.wholeMoved q x).isSome)
    | _ => false) with
  | some q => { s with pieces := s.pieces.erase q }.takeMsg q
  | none => s

/-- The sender learns what became of its message: a copied object's entry is freed, one moved by rights has a new owner, and a refused
message bounces (R231, R233, R234). An entry that has no other to move to at GEN 0xFFFF is retired (R227). -/
def State.takeAckMsg (s : State) (m : Msg) (moved : List (Nat × Bool)) (refused : Bool) : State :=
  let owns := (m.pay.filter isOwn).map objOf
  let live := owns.isEmpty || s.transfers.any (fun t => owns.contains t.obj && t.sent.isSome)
  if !live then s
  else if refused then s.refuse m
  else
    let one (s : State) (x : Nat × Bool) : State :=
      let c := m.pay.getD x.1 CReg.zero
      let o := objOf c
      let e := s.objAt o
      if !isOwn c ∨ !e.transit then s
      else if x.2 ∨ e.level = 5 then
        (s.modObj o (fun e => { e with transit := false })).revokeFree o
      else (s.setOwner o m.dstDev m.dstCore m.dstCtx).modObj o (fun e => { e with transit := false })
    let s := moved.foldl one s
    { s with transfers := s.transfers.filter (fun t => !owns.contains t.obj) }

/-- TRANSFER_BOUNCE (R233): a transfer that got no answer within 100 µs of its sending, or whose receiver is gone, returns to its
sender. -/
def execTransferBounce (obj : Nat) (s : State) : Out :=
  .next (match s.transfers.find? (fun t => t.obj == obj) with
    | some t => match t.sent with
      | some (due, m) => if due ≤ s.time then s.refuse m else s
      | none => s
    | none => s)

/-- TRANSFER_PLACEMENT (R229 to R232): the copy of a sent object is made. -/
def execTransferPlacement (obj : Nat) (s : State) : Out := .next (s.placeTransfer obj)

/-! ### Error completions (R126, R192, R352) -/

/-- An ERRCOMP comes back for a packet: a region fails with ERRCOMP, a commit's destination has refused its batch, a message bounces, and a
command ends with REMOTE (R126, R127, R192, R233, R352). What a block's means to its SHUFFLE is told where shuffles are. -/
def State.errcomp (s : State) (dev ctx : Nat) (of : Body) : State :=
  let ends (core port seq : Nat) : State := match s.sentCmd core ctx port seq with
    | some k => s.remoteEnds core port k stREMOTE
    | none => s
  match of with
  | .rload core slot .. =>
    match (s.slotAt core slot).state with
    | .wait (.reply a _) => if (s.objAt a.obj).level = 5 ∧ (s.slotAt core slot).asid = ctx then s.failReply core slot 2 dev else s
    | _ => s
  | .rbatch core slot _ => if (s.slotAt core slot).asid = ctx then s.hearBatch core slot [(dev, some 2)] else s
  | .ewrite core port seq .. => ends core port seq
  | .eread core port seq .. => ends core port seq
  | .msg m _ => s.takeAckMsg m [] true
  | _ => s

/-- A stop notice comes from another device (R279): messages for its domain wait here until it resumes. -/
def State.noteStop (s : State) (dev core ctx : Nat) (stop : Bool) : State :=
  if stop then
    if s.notices.contains (dev, core, ctx) then s else { s with notices := s.notices ++ [(dev, core, ctx)] }
  else s.letGo dev core ctx

/-- STOPNOTE (R279). -/
def execStopnote (dev core asid : Nat) (stop : Bool) (s : State) : Out := .next (s.noteStop dev core asid stop)

end Sys2Proof.Machine
end

