-- ==== Sys2Proof/Machine/Shuffle.lean ====
section
/-! DEFINITION. Shuffles and coded multicast (R213 to R215, R358 to R364). -/

namespace Sys2Proof.Machine

/-! ### The instructions (R214, R215) -/

/-- Whether a device is mapped for a partition, or is this one (R358). -/
def State.knows (s : State) (part dev : Nat) : Bool := dev == s.jobDev part || (s.remapOf part dev).isSome

/-- The physical identifier of a job-visible device. -/
def State.physOf (s : State) (part dev : Nat) : Nat :=
  if dev = s.jobDev part then s.phys else match s.remapOf part dev with
    | some r => r.phys
    | none => s.phys

/-- The job-visible identifier of a physical device. -/
def State.jobOf (s : State) (part phys : Nat) : Nat :=
  if phys = s.phys then s.jobDev part
  else match (s.partAt part).remap.find? (fun r => r.2.valid && r.2.phys == phys) with
    | some r => r.1
    | none => 0

/-- The route of a transfer, with the device it ends at (R350, R359). -/
def State.xferRoute (s : State) (part : Nat) (x : Xfer) : List (Nat × Nat) :=
  route s.extents (s.physOf part x.src) (s.physOf part x.dst)

/-- The coding condition of a point at this device (R359): both routes leave this router by one link, and neither ends here. -/
def State.codes (s : State) (part : Nat) (p : Plan) (q : Point) : Bool :=
  let a := p.xfer q.xa
  let b := p.xfer q.xb
  let out (x : Xfer) : Option Nat := ((s.xferRoute part x).find? (fun h => h.1 == s.phys)).map (fun h => h.2)
  let da := s.physOf part a.dst
  let db := s.physOf part b.dst
  q.router == s.jobDev part && da != s.phys && db != s.phys && da != db
    && (match out a, out b with
      | some x, some y => x == y
      | _, _ => false)

/-- The shuffle that a plan's bytes open (R358). -/
def State.shuffleOf (s : State) (part : Nat) (bs : List Byte) : Shuffle :=
  let bytes := planBytes bs
  let p := planOf bs
  let ok := planValid bs && p.xfers.all (fun x => s.knows part x.src && s.knows part x.dst)
  { digest := ((sha512 bytes) >>> 448).setWidth 64, invalid := !ok, bad := false, plan := bytes, nacks := 0, coded := 0, ran := false,
    active := if ok then (List.range p.points.length).filter (fun i => s.codes part p (p.points.getD i ⟨0, 0, 0⟩)) else [] }

/-- Steps 1 to 7 of R33 on an OWN or SHADE in LS, cluster store or HBM, for n bytes. -/
def shuffleCap (c : CReg) (reg n : Nat) : Act Nat := do
  let s ← getS
  let perm (e : Obj) : Option Nat :=
    s.permFor c (decide (kindOf c ≤ 1) && !engOnly c && (e.level == 0 || e.level == 2 || e.level == 3))
  let e ← headed c (headCheck s c reg 0 perm)
  let loc ← checked (checkSpan c e 0 n 1 0 reg)
  if !s.confirmed then checked (checkPoison e loc 0 reg)
  return loc

/-- `shuf.open` (R214, R358): the plan lies at the beginning of its object (R340). -/
def execShufOpen (a b : CR) (s : State) : Out :=
  issue_ 4 (do
    dirs [a, b] []
    let c ← src a
    let id := (← src b).lo % 65536
    let loc ← shuffleCap c a.val 0
    effect [c, plain id] loc (do
      modS (fun s => s.drain s.core s.slot)
      let s ← getS
      let part := s.dom.part
      let len := (s.objAt (objOf c)).length
      let head ← spans (objOf c) 0 (min 16 len) 2
      let h := leNat (s.spanBytes (objOf c) head)
      let xs ← spans (objOf c) 0 (min (16 * (1 + bitsAt h 16 16 + bitsAt h 32 8)) len) 32
      raceLines (fun s => s.sideRaces (isOwn c) (objOf c) false xs)
      let s ← getS
      let p := s.partAt part
      until_ (decide (p.shuffles.length < 16) && (lookT p.shuffles id).isNone) (.shuffle id false)
      let bs := s.spanBytes (objOf c) xs
      modS (fun s => s.modPart part (fun p => { p with shuffles := putT p.shuffles id (s.shuffleOf part bs) })))) s

/-- `shuf.hold` (R214): a later entry of an identifier replaces the earlier; a full table takes no new one. -/
def execShufHold (a b : CR) (s : State) : Out :=
  issue_ 4 (do
    dirs [a, b] []
    let c ← src a
    let id := (← src b).lo % 2 ^ 32
    let loc ← shuffleCap c a.val 0
    effect [c, plain id] loc (do
      let part := (← myDom).part
      let new : Side := ⟨id, objOf c, loc, genOf c⟩
      let enter (p : Partition) : Partition :=
        let rest := p.sides.filter (fun x => x.id != id)
        if rest.length < 256 then { p with sides := rest ++ [new] } else p
      modS (fun s => s.modPart part enter))) s

/-- Whether a SHUFFLE of a shuffle runs on the device: its command has not completed. -/
def State.shuffling (s : State) (part id : Nat) : Bool :=
  s.cores.any (fun k => (k.2.port 2).any (fun x =>
    x.code_ == 0x23 && x.z.val.toNat % 65536 == id && (s.domAt k.1 x.asid).part == part && x.sent))

/-- `shuf.close` (R214, R364). -/
def execShufClose (b : CR) (s : State) : Out :=
  issue_ 4 (do
    dirs [b] []
    let id := (← src b).lo % 65536
    effect [plain id] 0 (do
      let s ← getS
      let part := s.dom.part
      until_ (!s.shuffling part id && !s.holds.any (fun h => h.part == part && h.shuf == id)) (.shuffle id true)
      let mine (p : Packet) : Bool := match p.body with
        | .block x => x.shuf == id && s.partOf p.ctx == part
        | .lake x => x.shuf == id && s.partOf p.ctx == part
        | _ => false
      modS (fun s => { s.modPart part (fun p =>
        { p with shuffles := dropT p.shuffles id, sides := p.sides.filter (fun x => x.id / 65536 != id),
                 active := p.active.filter (fun r => r.id != id) }) with lakes := s.lakes.filter (fun p => !mine p) }))) s

/-- The word of `shuf.stat` (R215). -/
def State.shuffleWord (s : State) (part id : Nat) : Nat :=
  match lookT (s.partAt part).shuffles id with
  | some x => field (min x.nacks 65535) 32 16 + field (min x.coded 65535) 16 16 + 1
  | none => 0

/-- `shuf.stat` (R214, R215). -/
def execShufStat (d b : CR) (s : State) : Out :=
  issue_ 4 (do
    if d.val = 0 then illegal
    dirs [b] [d]
    let id := (← src b).lo % 65536
    dst d (← outside (do
      let s ← getS
      return plain (s.shuffleWord s.dom.part id)))) s

/-! ### Packets of a block (R361) -/

/-- A device answers a block's packet: to the coding router when the block came through it, else to its sender (R362). -/
def State.reply_ (s : State) (p : Packet) (b : Block) (viaCoder : Bool) (x : Body) : State :=
  if viaCoder then
    let job := s.jobOf (s.partOf p.ctx) b.coder
    s.answerTo { p with src := b.coder, srcJob := job } x (b.coder, ((s.remapOf (s.partOf p.ctx) job).map (fun r => r.epoch)).getD 0)
  else s.answer p x

/-- The block of a packet's body. -/
def Body.block? : Body → Option (Block × Bool)
  | .block b => some (b, false)
  | .lake b => some (b, true)
  | .sack b => some (b, false)
  | .snack b _ => some (b, false)
  | _ => none

/-- What a packet's block says without its bytes, for an answer (R361). -/
def Block.named (b : Block) (blk : Nat) : Block := { b with block := blk, ix := 0, npkt := 0, payload := [] }

/-- The running SHUFFLE of a shuffle, with its command. -/
def State.runningOf (s : State) (part id : Nat) : Option (Running × Cmd) :=
  match (s.partAt part).active.find? (fun r => r.id == id && !r.done) with
  | none => none
  | some r =>
    (((s.coreAt r.core).port 2).find? (fun x => x.code_ == 0x23 && x.z.val.toNat % 65536 == id && x.sent && x.done.isNone
      && (s.domAt r.core x.asid).part == part)).map (fun k => (r, k))

/-- Change the SHUFFLE of a shuffle. -/
def State.modRunning (s : State) (part id : Nat) (f : Running → Running) : State :=
  s.modPart part (fun p => { p with active := p.active.map (fun r => if r.id == id then f r else r) })

/-- The SHUFFLE of a shuffle ends; COUNT states the bytes placed (R358, R363). -/
def State.endShuffle (s : State) (part id status : Nat) : State :=
  match s.runningOf part id with
  | none => s
  | some (r, k) =>
    let s := (s.modRunning part id (fun r => { r with done := true })).endsNow r.core 2 k status
    if status = stREMOTE then s.count r.core k.asid 0x0C5 1 else s

/-- A SHUFFLE is done once every incoming block is in place and every outgoing one acknowledged (R213). -/
def State.tryShuffle (s : State) (part id : Nat) : State :=
  match s.runningOf part id, s.planAt part id with
  | some (r, _), some p =>
    if (p.receives (s.jobDev part)).all (fun x => r.placed.contains x.block)
        && (p.sends (s.jobDev part)).all (fun x => r.sent.any (fun y => y.1 == x.block && y.2.2.2)) then
      s.endShuffle part id stDONE
    else s
  | _, _ => s

/-- SIDE_BLOCK_LOST: counted, and told to the receiver's supervisor (R362). -/
def State.sideLost (s : State) (part : Nat) (r : Running) (k : Cmd) (other : Nat) : State :=
  let up (x : Shuffle) : Shuffle := { x with nacks := x.nacks + 1 }
  let s := s.modPart part (fun p => { p with shuffles := mapT p.shuffles r.id up })
  (s.countPart part 0x0C4 1).informPacket part r.core k.asid k.kind k.slot
    { code := fSIDE_BLOCK_LOST, arg := r.id * 65536 + other, engine := some (2, r.id) }

/-- A block is placed in Y (R362), and its bytes leave the group's counter (R204): then the rest follows. A page that is not
mapped ends the SHUFFLE with XLATE. Each line is checked as it is reached (R304): the engine stops before one that races, having written
those before it, and the packet waits. -/
def State.place (s : State) (p : Packet) (part : Nat) (r : Running) (k : Cmd) (x : Xfer) (bs : List Byte) (rest : State → State) : State :=
  let ys := s.spansAt k.asid (objOf k.y) (cursorOf k.y + x.dstOff) bs.length
  if spanTotal ys < bs.length then s.endShuffle part r.id stXLATE
  else
    let done := (lookT r.partly x.block).getD 0
    let (s', n) := s.reach r.core 2 k true (objOf k.y) true done ys
    let s := s'.engineWrite (s'.cmdParty r.core 2 k) (objOf k.y) (dropSpans (takeSpans ys n) done) (bs.drop done)
    if n < bs.length then { s.modRunning part r.id (fun r => { r with partly := putT r.partly x.block n }) with lakes := s.lakes ++ [p] }
    else rest ((s.wrote r.core 2 k (k.wrote + bs.length)).modRunning part r.id (fun r => { r with placed := r.placed ++ [x.block] }))

/-- Bytes in the decode buffer (R362). -/
def State.buffered (s : State) : Nat :=
  s.lakes.foldl (fun n p => n + p.body.payload) 0

/-- Whether two packets carry packets of one block, sent in the same way (R361). -/
def sameBlock (p q : Packet) : Bool :=
  match p.body, q.body with
  | .block x, .block y => p.ctx == q.ctx && x.shuf == y.shuf && x.block == y.block && x.digest == y.digest
  | .lake x, .lake y => p.ctx == q.ctx && x.shuf == y.shuf && x.block == y.block && x.blockB == y.blockB && x.digest == y.digest
  | _, _ => false

/-- The index of a packet in its block. -/
def Packet.ix (p : Packet) : Nat := match p.body.block? with
  | some (b, _) => b.ix
  | none => 0

/-- A BLOCK or LAKE packet that cannot be used yet waits in the decode buffer, in the place of an earlier copy of it, or is answered BUSY and
its payload discarded, which counts (R362). -/
def State.bufferIt (s : State) (p : Packet) (b : Block) (coded : Bool) : State :=
  let s := { s with lakes := s.lakes.filter (fun q => !(sameBlock p q && q.ix == b.ix)) }
  if s.buffered + b.payload.length ≤ 2 ^ 20 then { s with lakes := s.lakes ++ [p] }
  else (s.countPart (s.partOf p.ctx) 0x0C6 1).reply_ p b (coded || p.viac) (.snack (b.named b.block) 3)

/-- The whole block of which a packet is the last to come: its bytes, in order; none while packets of it lack (R361). -/
def State.wholeBlock (s : State) (p : Packet) (b : Block) : Option Block :=
  let ps := p :: s.lakes.filter (sameBlock p)
  let at_ (i : Nat) : Option Block := (ps.find? (fun q => q.ix == i)).bind (fun q => q.body.block?.map (fun x => x.1))
  let got := (List.range b.npkt).map at_
  if got.all (fun g => g.isSome) then
    some { b with payload := got.flatMap (fun g => match g with
      | some x => x.payload
      | none => []) }
  else none

/-- Byte-wise exclusive-or. -/
def xorBytes (a b : List Byte) : List Byte := (a.zip b).map (fun x => x.1 ^^^ x.2)

/-- The side block that decodes a lake packet (R362, step 1). -/
def State.sideOf (s : State) (part : Nat) (r : Running) (k : Cmd) (other : Nat) : Option Side :=
  ((s.partAt part).sides.find? (fun x => x.id == r.id * 65536 + other)).filter (fun x =>
    let e := s.objAt x.obj
    genCurrent e x.gen && !e.poisoned && !e.transit && e.ownDev == s.jobDev part && e.ownCore == r.core && e.ownCtx == k.asid)

/-- The side block could not be used: SNACK to the coding router, and a report (R362). -/
def State.lostSide (s : State) (p : Packet) (b : Block) (part : Nat) (r : Running) (k : Cmd) (mine other reason : Nat) : State :=
  (s.reply_ p b true (.snack (b.named mine) reason)).sideLost part r k other

/-- A racing side read in precise mode is not performed: the strand freezes with RACE at its next boundary, and the command goes on
(R316, R362). -/
def State.sideRace (s : State) (r : Running) (k : Cmd) (x : Side) (n : Nat) : State × Bool :=
  let xs := s.spansAt k.asid x.obj x.loc n
  let races := s.spanRaces (s.cmdParty r.core 2 k) true x.obj false xs
  match s.judge (s.cmdParty r.core 2 k) (if (s.domAt r.core k.asid).mode = 1 then races.take 1 else races) with
  | (s', none) => (s', false)
  | (s', some rec) =>
    if s.pusherHere r.core k && (s.slotAt r.core k.slot).pend.race.isSome then (s', true) else (s'.tellRace r.core 2 k rec, true)

/-- A lake packet is decoded for this device's block (R362). -/
def State.decodeLake (s : State) (p : Packet) (b : Block) (part : Nat) (r : Running) (k : Cmd) (plan : Plan) (x : Xfer)
    (other crc : Nat) : State :=
  let sack : Body := .sack (b.named x.block)
  match s.sideOf part r k other with
  | none => s.lostSide p b part r k x.block other 1
  | some side =>
    let xs := s.spansAt k.asid side.obj side.loc plan.len
    if spanTotal xs < plan.len then s.lostSide p b part r k x.block other 1
    else match s.sideRace r k side plan.len with
      | (s, true) => s.lostSide p b part r k x.block other 1
      | (s, false) =>
        let bs := xorBytes (s.engineBytes xs) b.payload
        if (crc64 bs).toNat ≠ crc then s.lostSide p b part r k x.block other 2
        else s.place p part r k x bs (fun s =>
          let up (y : Shuffle) : Shuffle := { y with coded := y.coded + 1 }
          let s := s.modPart part (fun q => { q with shuffles := mapT q.shuffles r.id up })
          (s.reply_ p b true sack).tryShuffle part r.id)

/-- A packet of a BLOCK or LAKE comes to its receiver (R362), which uses the block when all its packets have come (R361; DESIGN CHOICE,
log 37). -/
def State.takeBlock (s : State) (p : Packet) : State :=
  match p.body.block? with
  | none => s
  | some (b, coded) =>
    let part := s.partOf p.ctx
    match lookT (s.partAt part).shuffles b.shuf with
    | none => s.bufferIt p b coded
    | some sh =>
      let plan := planOf sh.plan
      let mine := (plan.receives (s.jobDev part)).find? (fun x => x.block == b.block || (coded && x.block == b.blockB))
      if sh.digest ≠ b.digest then
        let spoil (x : Shuffle) : Shuffle := { x with bad := true }
        ((s.reply_ p b (coded || p.viac) (.snack (b.named b.block) 4)).modPart part (fun q =>
          { q with shuffles := mapT q.shuffles b.shuf spoil })).endShuffle part b.shuf stMISMATCH
      else match mine, (s.partAt part).active.find? (fun r => r.id == b.shuf) with
        | none, _ => s
        | some _, none => s.bufferIt p b coded
        | some x, some r =>
          if r.placed.contains x.block then
            if b.ix + 1 = b.npkt then s.reply_ p b (coded || p.viac) (.sack (b.named x.block)) else s
          else match s.runningOf part b.shuf with
            | none => s
            | some (r, k) =>
              if k.stopped then s.bufferIt p b coded
              else match s.wholeBlock p b with
                | none => s.bufferIt p b coded
                | some w =>
                  let s := { s with lakes := s.lakes.filter (fun q => !sameBlock p q) }
                  let p := { p with body := if coded then .lake { w with ix := 0, npkt := 1 } else .block { w with ix := 0, npkt := 1 } }
                  if coded then
                    s.decodeLake p w part r k plan x (if x.block = b.block then b.blockB else b.block)
                      (if x.block = b.block then b.crcA else b.crcB).toNat
                  else s.place p part r k x w.payload (fun s =>
                    (s.reply_ p w p.viac (.sack (w.named w.block))).tryShuffle part r.id)

/-- What waits in the decode buffer for a shuffle is used (R362). -/
def State.useBuffered (s : State) (part id : Nat) : State :=
  let mine := s.lakes.filter (fun p => match p.body.block? with
    | some (b, _) => b.shuf == id && s.partOf p.ctx == part
    | none => false)
  let s := { s with lakes := s.lakes.filter (fun p => !mine.contains p) }
  mine.foldl State.takeBlock s

/-! ### SHUFFLE (R213, R358) -/

/-- The packets per block (R361). -/
def packetsOf (len : Nat) : Nat := (len + 4095) / 4096

/-- Packet i of a block as its sender makes it: 4,096 bytes, or the rest (R361). -/
def blockOf (id : Nat) (digest : BitVec 64) (x : Xfer) (bs : List Byte) (i : Nat) : Block :=
  { shuf := id, block := x.block, blockB := 0, ix := i, npkt := packetsOf bs.length, digest := digest, crcA := crc64 bs, crcB := 0, rcvA := 0,
    rcvB := 0, coder := 0, payload := (bs.drop (4096 * i)).take 4096 }

/-- The ranges of an outgoing block. -/
def State.outSpans (s : State) (k : Cmd) (x : Xfer) (n : Nat) : List (Nat × Nat × Nat) :=
  s.spansAt k.asid (objOf k.x) (cursorOf k.x + x.srcOff) n

/-- A packet that no router codes (R347). -/
def Output.uncoded (o : Output) : Output :=
  match o with
  | .packet 8 p => .packet 8 { p with nocode := true }
  | o => o

/-- A block leaves, in its packets; false when its receiver is not mapped. -/
def State.sendBlock (s : State) (part : Nat) (r : Nat) (k : Cmd) (id : Nat) (digest : BitVec 64) (x : Xfer) (bs : List Byte) (nocode : Bool) :
    State × Bool :=
  let d := s.domAt r k.asid
  match s.injectAll part x.dst d.supv 0 r k.asid ((List.range (packetsOf bs.length)).map (fun i => .block (blockOf id digest x bs i))) with
  | none => (s, false)
  | some s' =>
    (if nocode then { s' with out := s.out ++ (s'.out.drop s.out.length).map Output.uncoded } else s', true)

/-- A running SHUFFLE reads and sends blocks in order, each line being checked as it is reached (R304); then blocks that came early are
used. -/
def State.sendBlocks (s : State) (part core : Nat) (k : Cmd) (id : Nat) (sh : Shuffle) : List Xfer → State
  | [] => (s.useBuffered part id).tryShuffle part id
  | x :: xs =>
    let len := (planOf sh.plan).len
    match s.reach core 2 k (isOwn k.x) (objOf k.x) false 0 (s.outSpans k x len) with
    | (s, n) =>
      if n < len then s
      else
        let bs := s.engineBytes (s.outSpans k x len)
        match s.sendBlock part core k id sh.digest x bs false with
        | (s, false) => s.endShuffle part id stREMOTE
        | (s, true) =>
          (s.modRunning part id (fun r =>
            { r with sent := r.sent ++ [(x.block, s.time, false, false)], kept := putT r.kept x.block bs })).sendBlocks part core k id sh xs

/-- The shuffle has had its SHUFFLE (R358). -/
def State.noteRan (s : State) (part id : Nat) : State :=
  let begin_ (x : Shuffle) : Shuffle := { x with ran := true }
  s.modPart part (fun p => { p with shuffles := mapT p.shuffles id begin_ })

/-- An operand has room for the extent that the plan gives it (R358). -/
def State.roomy (s : State) (c : CReg) (n : Nat) : Bool := n == 0 || decide (cursorOf c + n ≤ (s.objAt (objOf c)).length)

/-- SHUFFLE starts: none other of its shuffle runs after it, whatever becomes of it (R358). DESIGN CHOICE (log 75): one that was pushed
before its shuffle was open, so that its extents were not checked then, ends MISMATCH when an operand has no room for them. -/
def State.startShuffle (s : State) (part core : Nat) (k : Cmd) (id : Nat) (sh : Shuffle) : State :=
  let plan := planOf sh.plan
  let outs := plan.sends (s.jobDev part)
  let short := outs.any (fun x => decide (spanTotal (s.outSpans k x plan.len) < plan.len))
  let s := s.noteRan part id
  if s.spoiled k.x || s.spoiled k.y then s.ends core 2 k stPOISON 0 0
  else if short then s.ends core 2 k stXLATE 0 0
  else if sh.bad || !s.roomy k.x (plan.outExtent (s.jobDev part)) || !s.roomy k.y (plan.inExtent (s.jobDev part)) then
    s.ends core 2 k stMISMATCH 0 0
  else
    let s := s.modPart part (fun p => { p with active := p.active ++ [⟨id, core, s.time, [], [], [], [], false⟩] })
    (s.modCmd core 2 k (fun x => { x with sent := true, since := s.time })).sendBlocks part core k id sh outs

/-- A SHUFFLE that has started goes on: with the blocks that it has not sent, and with those that wait for it. -/
def State.resumeShuffle (s : State) (part core : Nat) (k : Cmd) (id : Nat) : State :=
  match s.runningOf part id, lookT (s.partAt part).shuffles id with
  | some (r, _), some sh =>
    let rest := ((planOf sh.plan).sends (s.jobDev part)).filter (fun x => !r.sent.any (fun y => y.1 == x.block))
    s.sendBlocks part core k id sh rest
  | _, _ => s.useBuffered part id

/-- SHUFFLE (R213): one that has started uses what waits for it, as after a race that its strand has resumed. One that ends CANCELLED for a
stale operand has completed as well (R358). -/
def execShuffle (core : Nat) (s : State) : Out :=
  match (heads [] ((s.coreAt core).port 2)).find? (fun k => k.code_ == 0x23 && k.sent && k.done.isNone && !k.stopped) with
  | some k => .next (s.resumeShuffle (s.domAt core k.asid).part core k (k.z.val.toNat % 65536))
  | none =>
    runCmdOr core 2 0x23 s
      (fun k s => (s.noteRan (s.domAt core k.asid).part (k.z.val.toNat % 65536)).endsNow core 2 k stCANCELLED) (fun k s =>
      let part := (s.domAt core k.asid).part
      let id := k.z.val.toNat % 65536
      match lookT (s.partAt part).shuffles id with
      | some sh => if sh.invalid ∨ sh.ran then s.ends core 2 k stMISMATCH 0 0 else s.startShuffle part core k id sh
      | none => s.ends core 2 k stMISMATCH 0 0)

/-- BLOCK (R362) at its receiver, whose partition the packet's key must be of (R354). -/
def execBlock (p : Packet) (s : State) : Out :=
  .next (match p.body with
    | .block _ => if s.keyIn (s.partOf p.ctx) p.pkey then s.takeBlock p else s.dropPacket p
    | _ => s)

/-! ### The coding router (R359, R360) -/

/-- The hold entry of a point. -/
def State.holdAt (s : State) (part shuf xa : Nat) : Option HoldEntry :=
  s.holds.find? (fun h => h.part == part && h.shuf == shuf && h.xa == xa)

/-- Put a hold entry in the place of its old self. -/
def State.setHold (s : State) (h : HoldEntry) : State :=
  let same (x : HoldEntry) : Bool := x.part == h.part && x.shuf == h.shuf && x.xa == h.xa
  if s.holds.any same then { s with holds := s.holds.map (fun x => if same x then h else x) } else { s with holds := s.holds ++ [h] }

/-- Take a hold entry out. -/
def State.dropHold (s : State) (h : HoldEntry) : State :=
  { s with holds := s.holds.filter (fun x => !(x.part == h.part && x.shuf == h.shuf && x.xa == h.xa)) }

/-- The active point of a block that passes, and whether the block is XA's (R358, R360). -/
def State.pointFor (s : State) (p : Packet) : Option (Nat × Plan × Point × Bool) :=
  match p.body with
  | .block b =>
    let part := s.partOf p.ctx
    match lookT (s.partAt part).shuffles b.shuf with
    | some sh =>
      if p.nocode ∨ sh.digest ≠ b.digest then none
      else
        let plan := planOf sh.plan
        (sh.active.map (fun i => plan.points.getD i ⟨0, 0, 0⟩)).findSome? (fun q =>
          if (plan.xfer q.xa).block = b.block then some (part, plan, q, true)
          else if (plan.xfer q.xb).block = b.block then some (part, plan, q, false)
          else none)
    | none => none
  | _ => none

/-- Bytes of the hold buffer in use: both blocks of an entry in WAIT or CODED (R360). -/
def State.holdUsed (s : State) : Nat := s.holds.foldl (fun n h => if h.state = 2 then n else n + 2 * h.len) 0

/-- The next link of a lake packet toward a receiver: on the route from its coding router, where this device lies on it (R361). -/
def State.lakePort (s : State) (b : Block) (rcv : Nat) : Option Nat :=
  ((route s.extents b.coder rcv).find? (fun h => h.1 == s.phys)).map (fun h => h.2)

/-- Forward a lake packet on the links that its receivers' onward routes use, one copy on each. A next link that is down drops the copy
(R361). -/
def State.forwardLake (s : State) (from_ : Nat) (p : Packet) : State :=
  match p.body with
  | .lake b =>
    let ports := ([b.rcvA, b.rcvB].filterMap (s.lakePort b)).foldl putN []
    ports.foldl (fun s port =>
      let q : Packet := { p with dl := nextDl s.extents s.phys port p.dl (port / 2 != from_ / 2) }
      if s.linkOk port then s.sendOn port q else s.dropPacket p) s
  | _ => s

/-- The lake packet of two packets of originals, which the coding router sends as its own (R361). -/
def State.lakeOf (s : State) (a b : Packet) : Option Packet :=
  match a.body, b.body with
  | .block x, .block y =>
    some { a with dl := 0, det := false, src := s.phys, seq := s.nextSeq a.dst a.tc,
                  body := .lake { x with blockB := y.block, crcB := y.crcA, rcvA := a.dst, rcvB := b.dst, coder := s.phys,
                                         payload := xorBytes x.payload y.payload } }
  | _, _ => none

/-- A lake packet leaves the coding router. -/
def State.sendLake (s : State) (l : Packet) : State :=
  { s with sent := putT s.sent (l.dst * 4 + l.tc) ((l.seq + 1) % 65536) }.forwardLake 8 l

/-- A packet as the hold buffer keeps it: with the DL with which it goes on (R350). -/
def State.asHeld (s : State) (from_ : Nat) (p : Packet) : Packet :=
  if nextPort s.extents s.phys p.dst / 2 = from_ / 2 then p else { p with dl := 0 }

/-- A held packet goes on where it stopped (R350, R360). -/
def State.goOn (s : State) (p : Packet) : State := s.forward (nextPort s.extents s.phys p.dst) p

/-- An original's packet is noted in a hold entry, and kept there where the entry holds originals. -/
def HoldEntry.note (h : HoldEntry) (p : Packet) (ix : Nat) (isA keep : Bool) : HoldEntry :=
  if isA then { h with seenA := putN h.seenA ix, origA := if keep then h.origA ++ [p] else h.origA }
  else { h with seenB := putN h.seenB ix, origB := if keep then h.origB ++ [p] else h.origB }

/-- The first packet of a point's originals arrives (R360): held, or forwarded uncoded when the buffer lacks room. -/
def State.holdFirst (s : State) (from_ : Nat) (p : Packet) (part : Nat) (plan : Plan) (q : Point) (shuf ix : Nat) (isA : Bool) : State :=
  let h : HoldEntry :=
    { part := part, shuf := shuf, xa := q.xa, xb := q.xb, origA := [], origB := [], len := plan.len, seenA := [], seenB := [],
      state := 0, since := s.time, timer := 0, expiries := 0, sackA := false, sackB := false }
  if s.holdUsed + 2 * plan.len ≤ 2 ^ 21 then s.setHold (h.note (s.asHeld from_ p) ix isA true)
  else ((s.setHold ({ h with state := 2 }.note p ix isA false)).countPart part 0x0C1 1).forward from_ p

/-- Another packet of a point's originals arrives (R360): held, and when both originals are whole their lake packets are sent; or, at an
entry that has gone uncoded, forwarded, and with the last of them the entry is removed. -/
def State.holdPartner (s : State) (from_ : Nat) (p : Packet) (h : HoldEntry) (b : Block) (isA : Bool) : State :=
  let seen := (if isA then h.seenA else h.seenB).contains b.ix
  if h.state = 2 then
    let h := h.note p b.ix isA false
    (if h.seenA.length = b.npkt ∧ h.seenB.length = b.npkt then s.dropHold h else s.setHold h).forward from_ p
  else if h.state = 1 ∨ seen then s
  else
    let h := h.note (s.asHeld from_ p) b.ix isA true
    if h.seenA.length = b.npkt ∧ h.seenB.length = b.npkt then
      let s := (s.setHold { h with state := 1, timer := s.time }).countPart h.part 0x0C0 1
      let pick (l : List Packet) (i : Nat) : Option Packet := l.find? (fun q => q.ix == i)
      (List.range b.npkt).foldl (fun s i => match pick h.origA i, pick h.origB i with
        | some x, some y => match s.lakeOf x y with
          | some l => s.sendLake l
          | none => s
        | _, _ => s) s
    else s.setHold h

/-- A block's packet passes a router: one of an original of an active point is held or coded, and any other is forwarded (R360). -/
def State.passBlock (s : State) (from_ : Nat) (p : Packet) (first partner : Bool) : State :=
  match s.pointFor p, p.body with
  | some (part, plan, q, isA), .block b =>
    match s.holdAt part b.shuf q.xa with
    | none => if first then s.holdFirst from_ p part plan q b.shuf b.ix isA else s
    | some h => if partner then s.holdPartner from_ p h b isA else s
  | _, _ => s.forward from_ p

/-- HOLD_FIRST_ARRIVAL (R360). -/
def execHoldFirstArrival (p : Packet) (s : State) : Out :=
  .next (if (s.pointFor p).isSome then s.passBlock 8 p true false else s)

/-- HOLD_PARTNER_ARRIVAL (R360). -/
def execHoldPartnerArrival (p : Packet) (s : State) : Out :=
  .next (if (s.pointFor p).isSome then s.passBlock 8 p false true else s)

/-- PAIRWAIT (R360): 8 µs after the first original came, it goes uncoded. -/
def execPairwait (shuf xa : Nat) (s : State) : Out :=
  .next (match s.holds.find? (fun h => h.shuf == shuf && h.xa == xa && h.state == 0 && decide (h.since + 8000 ≤ s.time)) with
    | some h =>
      let s := (s.setHold { h with state := 2, origA := [], origB := [] }).countPart h.part 0x0C2 1
      (h.origA ++ h.origB).foldl State.goOn s
    | none => s)

/-- An original is sent again to its receiver, uncoded, to be acknowledged to the coder (R360). -/
def State.resendOriginal (s : State) (part : Nat) (ps : List Packet) : State :=
  let again (p : Packet) : Packet := match p.body with
    | .block b => { p with nocode := true, viac := true, body := .block { b with coder := s.phys } }
    | _ => p
  (ps.map again).foldl State.goOn (s.countPart part 0x0C3 1)

/-- CODED_TIMER_EXPIRY (R360): 40 µs; the first time each silent receiver's original is sent again, the second time both are freed. -/
def execCodedTimerExpiry (shuf xa : Nat) (s : State) : Out :=
  .next (match s.holds.find? (fun h => h.shuf == shuf && h.xa == xa && h.state == 1 && decide (h.timer + 40000 ≤ s.time)) with
    | some h =>
      if h.expiries = 0 then
        let s := s.setHold { h with expiries := 1, timer := s.time }
        let s := if h.sackA then s else s.resendOriginal h.part h.origA
        if h.sackB then s else s.resendOriginal h.part h.origB
      else s.dropHold h
    | none => s)

/-- The hold entry that a SACK or SNACK is for, and whether it concerns XA's block. -/
def State.holdFor (s : State) (p : Packet) (b : Block) : Option (HoldEntry × Bool) :=
  let part := s.partOf p.ctx
  let is (o : List Packet) : Bool := o.any (fun q => match q.body with
    | .block x => x.block == b.block
    | _ => false)
  (s.holds.find? (fun h => h.part == part && h.shuf == b.shuf && h.state == 1 && (is h.origA || is h.origB))).map
    (fun h => (h, is h.origA))

/-- An answer to the sender of an original. -/
def State.tellSender (s : State) (o : List Packet) (say : Block → Body) : State :=
  match o with
  | p :: _ => match p.body with
    | .block b => s.answer p (say (b.named b.block))
    | _ => s
  | [] => s

/-- A SACK at its destination (R360, R363): the coding router records it, and acknowledges both senders when it has both; a sender
notes that its block has been placed. -/
def State.takeSack (s : State) (p : Packet) : State :=
  match p.body with
  | .sack b =>
    match s.holdFor p b with
    | some (h, isA) =>
      let h := if isA then { h with sackA := true } else { h with sackB := true }
      if h.sackA && h.sackB then ((s.dropHold h).tellSender h.origA .sack).tellSender h.origB .sack else s.setHold h
    | none =>
      let part := s.partOf p.ctx
      let mark (x : Nat × Nat × Bool × Bool) : Nat × Nat × Bool × Bool :=
        if x.1 = b.block then (x.1, x.2.1, x.2.2.1, true) else x
      (s.modRunning part b.shuf (fun r => { r with sent := r.sent.map mark })).tryShuffle part b.shuf
  | _ => s

/-- SACK (R360). -/
def execSack (p : Packet) (s : State) : Out := .next (s.takeSack p)

/-- A sender sends a block again, as it read it, with NOCODE (R362 to R364); `retry`: it is the block's one retry. -/
def State.resendBlock (s : State) (part id blk : Nat) (retry : Bool) : State :=
  match s.runningOf part id, lookT (s.partAt part).shuffles id with
  | some (r, k), some sh =>
    let plan := planOf sh.plan
    match (plan.sends (s.jobDev part)).find? (fun x => x.block == blk) with
    | some x =>
      let (s, ok) := s.sendBlock part r.core k id sh.digest x ((lookT r.kept blk).getD []) true
      let mark (y : Nat × Nat × Bool × Bool) : Nat × Nat × Bool × Bool :=
        if y.1 = blk then (y.1, if retry then s.time else y.2.1, y.2.2.1 || retry, y.2.2.2) else y
      if ok then s.modRunning part id (fun r => { r with sent := r.sent.map mark }) else s.endShuffle part id stREMOTE
    | none => s
  | _, _ => s

/-- Whether this device sends a block in a shuffle. -/
def State.sendsBlock (s : State) (part : Nat) (b : Block) : Bool :=
  match s.planAt part b.shuf with
  | some p => (p.sends (s.jobDev part)).any (fun x => x.block == b.block)
  | none => false

/-- A SNACK at its destination (R360, R362): the coding router sends the original again, and tells its sender of a plan that differs; that
ends the sender's SHUFFLE; BUSY at a sender waits for BUSY_RESEND. -/
def State.takeSnack (s : State) (p : Packet) : State :=
  match p.body with
  | .snack b reason =>
    match s.holdFor p b with
    | some (h, isA) =>
      let o := if isA then h.origA else h.origB
      let s := s.resendOriginal h.part o
      if reason = 4 then s.tellSender o (fun b => .snack b 4) else s
    | none =>
      let part := s.partOf p.ctx
      if reason = 4 ∧ s.sendsBlock part b then s.endShuffle part b.shuf stMISMATCH else s
  | _ => s

/-- SNACK (R360). -/
def execSnack (p : Packet) (s : State) : Out := .next (s.takeSnack p)

/-- LAKE (R361, R362): forwarded, and decoded where this device is a receiver. -/
def State.takeLake (s : State) (from_ : Nat) (p : Packet) : State :=
  match p.body with
  | .lake b =>
    let s := s.forwardLake from_ p
    if b.rcvA ≠ s.phys ∧ b.rcvB ≠ s.phys then s
    else if s.keyIn (s.partOf p.ctx) p.pkey then s.takeBlock p
    else s.dropPacket p
  | _ => s

/-- LAKE (R362). -/
def execLake (p : Packet) (s : State) : Out := .next (s.takeLake 8 p)

/-- BUSY_RESEND (R362): the sender of an uncoded block that found the decode buffer full sends it again. -/
def execBusyResend (p : Packet) (s : State) : Out :=
  .next (match p.body with
    | .snack b 3 => s.resendBlock (s.partOf p.ctx) b.shuf b.block false
    | _ => s)

/-- SENDER_SACK_TIMEOUT (R363): 100 µs without a SACK, the block is sent again once; after 100 µs more the SHUFFLE ends with REMOTE. -/
def execSenderSackTimeout (part shuf blk : Nat) (s : State) : Out :=
  .next (match s.runningOf part shuf with
    | none => s
    | some (r, _) => match r.sent.find? (fun x => x.1 == blk) with
      | none => s
      | some (_, t, retried, sacked) =>
        if sacked ∨ s.time < t + 100000 then s
        else if retried then s.endShuffle part shuf stREMOTE
        else s.resendBlock part shuf blk true)

/-- SHUFFLE_RECEIVE_TIMEOUT (R363): 200 µs after its start, a SHUFFLE whose blocks are not all in place ends with REMOTE. -/
def execShuffleReceiveTimeout (part shuf : Nat) (s : State) : Out :=
  .next (match s.runningOf part shuf, s.planAt part shuf with
    | some (r, _), some p =>
      if r.start + 200000 ≤ s.time && !(p.receives (s.jobDev part)).all (fun x => r.placed.contains x.block) then
        s.endShuffle part shuf stREMOTE
      else s
    | _, _ => s)

end Sys2Proof.Machine
end

