-- ==== Sys2Proof/Machine/Hop.lean ====
section
/-! DEFINITION. A packet at a router and at its destination (R348 to R355): keys and fences, the remap epoch, delivery in order, and
what its TYPE asks for; the fabric manager's changes. -/

namespace Sys2Proof.Machine

/-! ### Delivery (R349) -/

/-- What a packet that has been delivered does, by its TYPE (R348). -/
def State.handle (s : State) (p : Packet) : State :=
  match p.body with
  | .msg .. => s.takeMsg p
  | .msgAck m moved refused => s.takeAckMsg m moved refused
  | .rload .. => s.serveLoad p
  | .rdata c i r => (s.reply c i r).serveAll
  | .rbatch .. => s.serveBatch p
  | .rback c i code => if (s.slotAt c i).asid = p.ctx then s.hearBatch c i [(p.srcJob, code)] else s
  | .ewrite .. => s.serveWrite p
  | .eread .. => s.serveRead p
  | .eack c e q code b => s.eack c p.ctx e q code b
  | .block _ => s.takeBlock p
  | .lake _ => s.takeBlock p
  | .sack _ => s.takeSack p
  | .snack .. => s.takeSnack p
  | .errcomp (.block b) => s.endShuffle (s.partOf p.ctx) b.shuf stREMOTE
  | .errcomp b => s.errcomp p.srcJob p.ctx b
  | .edata c e q _ => s.eack c p.ctx e q (some 3) []
  | .piece .. => s.takePiece p
  | .stopnote c ctx stop => s.noteStop p.srcJob c ctx stop
  | .arrival core g inst => s.arriveFrom (s.partOf p.ctx) g p.srcJob core inst
  | .release .. => s.takeRelease p
  | .mgmt => s
  | .reserved _ => s.countPart (s.partOf p.ctx) 0x0C6 1

/-- The key of a packet's stream: source and class (R347). -/
def Packet.flow (p : Packet) : Nat := p.src * 4 + p.tc

/-- Whether a sequence number of a flow has been delivered, within 32,768 (R349). DEDUCED (log 37): what a coding router sends again, under
the number of the original, is no duplicate, since the receiver answers it (R362). -/
def State.seen_ (s : State) (p : Packet) : Bool := !p.viac && ((lookT s.delivered p.flow).getD []).contains p.seq

/-- A number that is behind another, within 32,768. -/
def behind (x newest : Nat) : Bool := decide ((newest + 65536 - x) % 65536 < 32768)

/-- Note a delivery, the newest number of the flow first; numbers 32,768 behind the newest are forgotten. -/
def State.noteSeq (s : State) (p : Packet) : State :=
  { s with delivered := putT s.delivered p.flow (match (lookT s.delivered p.flow).getD [] with
      | [] => [p.seq]
      | x :: xs => if behind p.seq x then x :: p.seq :: xs else p.seq :: (x :: xs).filter (fun y => behind y p.seq)) }

/-- The next number that a TC 0 flow delivers (R349). -/
def State.nextOf (s : State) (p : Packet) : Nat := match ((lookT s.delivered p.flow).getD []) with
  | x :: _ => (x + 1) % 65536
  | [] => 0

/-- The checks of a destination (R348, R353, R354): a request to another JOB is answered ERRCOMP, and a packet whose key is none of the
partition's, or whose TYPE is reserved, is dropped and counted. -/
def State.takeIn (s : State) (p : Packet) : State :=
  let part := s.partOf p.ctx
  if p.dstJob ≠ s.jobDev part then
    match errorAnswer p.body with
    | some b => s.answer p b
    | none => s
  else if !s.keyIn part p.pkey then s.countPart part 0x0C6 1
  else s.handle p

/-- TC 0 packets that have waited for this one's place are delivered (R349). -/
def State.drainOrder (s : State) (p : Packet) : Nat → State
  | 0 => s
  | n + 1 => match s.reorder.find? (fun q => q.flow == p.flow && q.seq == s.nextOf p) with
    | some q => ((({ s with reorder := s.reorder.filter (fun x => x != q) }).noteSeq q).takeIn q).drainOrder p n
    | none => s

/-- Bytes that the reorder buffer holds: header and payload of each packet (R347, R349). -/
def State.reordered (s : State) : Nat := s.reorder.foldl (fun n q => n + 64 + q.body.payload) 0

/-- Delivery (R349): a duplicate is discarded, and TC 0 is delivered in order; one that fails the checks of its destination has had its
place in that order. DESIGN CHOICE (log 63): a packet out of order for which the reorder buffer of 64 KiB has no room is not taken. -/
def State.deliverPacket (s : State) (p : Packet) : State :=
  if s.seen_ p then s
  else if p.tc = 0 then
    if p.seq = s.nextOf p then ((s.noteSeq p).takeIn p).drainOrder p s.reorder.length
    else if s.reorder.contains p ∨ 65536 < s.reordered + 64 + p.body.payload then s
    else { s with reorder := s.reorder ++ [p] }
  else (s.noteSeq p).takeIn p

/-- REMOTE_LOAD_SERVE (R357). -/
def execRemoteLoadServe (p : Packet) (s : State) : Out :=
  .next (match p.body with
    | .rload .. => s.deliverPacket p
    | _ => s)

/-- RBATCH (R357). -/
def execRbatch (p : Packet) (s : State) : Out :=
  .next (match p.body with
    | .rbatch .. => s.deliverPacket p
    | _ => s)

/-- EWRITE (R212). -/
def execEwrite (p : Packet) (s : State) : Out :=
  .next (match p.body with
    | .ewrite .. => s.deliverPacket p
    | _ => s)

/-- EREAD (R212). -/
def execEread (p : Packet) (s : State) : Out :=
  .next (match p.body with
    | .eread .. => s.deliverPacket p
    | _ => s)

/-! ### A router (R350 to R355) -/

/-- Whether a router drops a packet by key or fence (R354). DEDUCED (log 13): TC 3 packets toward a fenced device go on to the isolating router
(R356). -/
def State.keyDrops (s : State) (p : Packet) : Bool :=
  s.revoked.contains p.pkey || s.fenced.contains p.src || (s.fenced.contains p.dst && p.tc != 3)

/-- Whether a router of the packet's partition holds another mapping for its destination, or that of one that is mapped no more (R353). -/
def State.remapped (s : State) (p : Packet) : Bool :=
  match (s.keyOwner p.pkey).bind (fun part => lookT (s.partAt part).remap p.dstJob) with
  | some r => r.epoch != p.remapEp
  | none => false

/-- PACKET_HOP (R350): a packet at this device's router, come from a port or, as port 8, from the device itself. -/
def execPacketHop (port : Nat) (p : Packet) (s : State) : Out :=
  .next (if port ≠ 8 ∧ s.keyDrops p then s.dropPacket p
    else if s.remapped p ∧ (errorAnswer p.body).isSome then
      match errorAnswer p.body with
      | some b => s.answer p b
      | none => s
    else match p.body with
      | .lake _ => s.takeLake port p
      | .block _ => if p.dst = s.phys then s.deliverPacket p else s.passBlock port p true true
      | _ => if p.dst = s.phys then s.deliverPacket p else s.forward port p)

/-! ### The fabric manager (R352 to R355) -/

/-- REMAP_WRITE (R352): EPOCH rises at each rewrite. -/
def execRemapWrite (part job phys : Nat) (valid : Bool) (s : State) : Out :=
  let next (p : Partition) : Partition :=
    let e := match lookT p.remap job with
      | some r => (r.epoch + 1) % 256
      | none => 1
    { p with remap := putT p.remap job ⟨valid, e, phys % 65536⟩ }
  .next (s.modPart part next)

/-- SPARE_JOB_ASSIGN (R353): a key is never 0 (R354), and an assignment of that one is not made. -/
def execSpareJobAssign (part job key : Nat) (s : State) : Out :=
  .next (if key % 65536 = 0 then s else s.modPart part (fun p => { p with job := job % 65536, pkey := key % 65536 }))

/-- The objects that a fenced device's failure poisons for a partition (R335): its REMOTE entries, and what it owns; the stores that
have passed their checks are performed first (R226). -/
def State.poisonDevice (s : State) (part job : Nat) : State :=
  let hit (e : Obj) : Bool :=
    e.entKind == 1 && e.part == part && ((e.level == 5 && e.homeDev == job) || e.ownDev == job)
  (s.objs.filter (fun p => hit p.2)).foldl (fun s p => s.poison p.1) s

/-- The supervisors of a partition learn that a peer's key is revoked (R322, R355). -/
def State.keyRevoked (s : State) (part job : Nat) : State :=
  match s.supervisor part with
  | some c => s.informPacket part c (s.partAt part).supvCtx 3 15 { code := fKEY_REVOKED, arg := job }
  | none => s.informPacket part 0 0 3 15 { code := fKEY_REVOKED, arg := job }

/-- DEVICE_FENCE (R355, R356): the keys are revoked, the fence bit is set, what the device owned is poisoned, every affected partition
is told, and outstanding TC 3 reads toward it are answered. -/
def execDeviceFence (dev : Nat) (keys : List Nat) (s : State) : Out :=
  let s := { s with revoked := keys.foldl putN s.revoked, fenced := putN s.fenced dev }
  let hit : List (Nat × Nat) := s.parts.filterMap (fun p =>
    (p.2.remap.find? (fun r => r.2.valid && r.2.phys == dev)).map (fun r => (p.1, r.1)))
  let s := hit.foldl (fun s h => (s.poisonDevice h.1 h.2).keyRevoked h.1 h.2) s
  let ports := (List.range 8).filter (fun p => s.hasLink p && neighbour s.extents s.phys p == dev)
  .next (ports.foldl (fun s p =>
    let rs := (s.linkAt p).reads
    let s := s.modLink p (fun l => { l with nextFenced := true, reads := [] })
    rs.foldl State.isolate s) s)

end Sys2Proof.Machine
end

