-- ==== Sys2Proof/Machine/Loop.lean ====
section
/-! DEFINITION. The vector loop buffer (R180 to R183): capture, stagger, replay, and what may run ahead. -/

namespace Sys2Proof.Machine

/-! ### Capture (R180) -/

/-- Whether a 32-bit pattern is of majors 0x36 to 0x3B (R50). -/
def vectorMajor (w : Nat) : Bool := bit w 31 && decide (0x36 ≤ bitsAt w 25 6) && decide (bitsAt w 25 6 ≤ 0x3B)

/-- Whether a block word may be captured: an instruction of those majors. -/
def captures (w : Nat) : Bool :=
  vectorMajor w && (match decodePattern 4 w with
    | .ok _ => true
    | .error _ => false)

/-- The block word at a pc of the strand's CODE object. -/
def blockWord (o pc : Nat) : Act Nat := do
  let a ← flatAct o pc
  let b ← flatAct o (pc + 2)
  let s ← getS
  return leNat (s.seen s.core 16 o a 2) * 2 ^ 16 + leNat (s.seen s.core 16 o b 2)

/-- The block words from a pc that lie inside the object. -/
def blockWords (o len : Nat) : Nat → Nat → Act (List Nat)
  | _, 0 => pure []
  | pc, n + 1 => do
    if len < pc + 4 then return []
    let w ← blockWord o pc
    return w :: (← blockWords o len (pc + 4) n)

/-- `vloop` (R180). -/
def execVloop (cnt : CR) (nm1 stag : BitVec 4) (icnt : BitVec 12) (s : State) : Out :=
  issue 4 (do
    dirs (if cnt.val = 0 then [] else [cnt]) []
    let t ← me
    let n := nm1.toNat + 1
    let o := objOf t.code
    let len := ((← getS).objAt o).length
    let ws ← blockWords o len (t.pc + 4) n
    if !ws.all captures then illegal
    if ws.length < n then stopWith (capFault fCAP_BOUNDS 5 0 0 (bitsN (t.pc + 4 : Nat) 48))
    until_ (((← getS).coreAt s.core).loopSlot.isNone) .loop
    let count ← if cnt.val = 0 then pure icnt.toNat else (do return (← src cnt).lo)
    if count ≠ 0 then
      let l : Loop :=
        { words := ws.map (fun w => .ofNat 32 w), count := count, stagger := stag.toNat, k := 0, j := 0, pc0 := t.pc + 4,
          ahead := 0, stopped := false }
      modS (fun s => (s.modCore s.core (fun k => { k with loopSlot := some s.slot })).modCur (fun t => { t with loop := some l }))
    return .jump (t.pc + 4 + 4 * n)) s

/-! ### Stagger (R181) -/

/-- A v register that is k further, modulo 16. -/
def VR.plus (v : VR) (k : Nat) : VR := ⟨(v.val + k) % 16, by omega⟩

/-- The instruction with its advancing fields k further (R181): VD and VA of majors 0x36 to 0x3A where they name v registers, and
FD of major 0x3B. -/
def staggered (k : Nat) (i : Instr) : Instr :=
  match i with
  | .vadd d a b p t => .vadd (VR.plus d k) (VR.plus a k) b p t
  | .vsub d a b p t => .vsub (VR.plus d k) (VR.plus a k) b p t
  | .vmul d a b p t => .vmul (VR.plus d k) (VR.plus a k) b p t
  | .vmin d a b p t => .vmin (VR.plus d k) (VR.plus a k) b p t
  | .vmax d a b p t => .vmax (VR.plus d k) (VR.plus a k) b p t
  | .vand d a b p t => .vand (VR.plus d k) (VR.plus a k) b p t
  | .vor d a b p t => .vor (VR.plus d k) (VR.plus a k) b p t
  | .vxor d a b p t => .vxor (VR.plus d k) (VR.plus a k) b p t
  | .vshl d a b p t => .vshl (VR.plus d k) (VR.plus a k) b p t
  | .vshr d a b p t => .vshr (VR.plus d k) (VR.plus a k) b p t
  | .vabs d a p t => .vabs (VR.plus d k) (VR.plus a k) p t
  | .vneg d a p t => .vneg (VR.plus d k) (VR.plus a k) p t
  | .vadds d a b p t => .vadds (VR.plus d k) (VR.plus a k) b p t
  | .vsubs d a b p t => .vsubs (VR.plus d k) (VR.plus a k) b p t
  | .vmulh d a b p t => .vmulh (VR.plus d k) (VR.plus a k) b p t
  | .vavg d a b p t => .vavg (VR.plus d k) (VR.plus a k) b p t
  | .vfadd d a b p t => .vfadd (VR.plus d k) (VR.plus a k) b p t
  | .vfsub d a b p t => .vfsub (VR.plus d k) (VR.plus a k) b p t
  | .vfmul d a b p t => .vfmul (VR.plus d k) (VR.plus a k) b p t
  | .vfdiv d a b p t => .vfdiv (VR.plus d k) (VR.plus a k) b p t
  | .vfma d a b p t => .vfma (VR.plus d k) (VR.plus a k) b p t
  | .vfmin d a b p t => .vfmin (VR.plus d k) (VR.plus a k) b p t
  | .vfmax d a b p t => .vfmax (VR.plus d k) (VR.plus a k) b p t
  | .vfabs d a p t => .vfabs (VR.plus d k) (VR.plus a k) p t
  | .vfneg d a p t => .vfneg (VR.plus d k) (VR.plus a k) p t
  | .vfsqrt d a p t => .vfsqrt (VR.plus d k) (VR.plus a k) p t
  | .vcmp d a b p t r => .vcmp d (VR.plus a k) b p t r
  | .vfcmp d a b p t r => .vfcmp d (VR.plus a k) b p t r
  | .vsel d a b p t => .vsel (VR.plus d k) (VR.plus a k) b p t
  | .vperm d a b p t => .vperm (VR.plus d k) (VR.plus a k) b p t
  | .vbcast d a p t => .vbcast (VR.plus d k) a p t
  | .vins d a b p t => .vins (VR.plus d k) a b p t
  | .vext d a b t => .vext d (VR.plus a k) b t
  | .vredadd d a p t => .vredadd d (VR.plus a k) p t
  | .vredmin d a p t => .vredmin d (VR.plus a k) p t
  | .vredmax d a p t => .vredmax d (VR.plus a k) p t
  | .vfredadd d a p t => .vfredadd d (VR.plus a k) p t
  | .vfredmin d a p t => .vfredmin d (VR.plus a k) p t
  | .vfredmax d a p t => .vfredmax d (VR.plus a k) p t
  | .vcvt d a t f => .vcvt (VR.plus d k) (VR.plus a k) t f
  | .vmxq d a t f => .vmxq (VR.plus d k) (VR.plus a k) t f
  | .vmxd d a t f => .vmxd (VR.plus d k) (VR.plus a k) t f
  | .vld d a p off => .vld (VR.plus d k) a p off
  | .vst d a p off => .vst (VR.plus d k) a p off
  | .vgather d a vi p w => .vgather (VR.plus d k) a vi p w
  | .vscatter d a vi p w => .vscatter (VR.plus d k) a vi p w
  | i => i

/-! ### Running ahead (R182) -/

/-- The c registers that a captured instruction reads or writes. -/
def vectorRegs (i : Instr) : List CR :=
  match i with
  | .vbcast _ a _ _ => [a]
  | .vins _ a b _ _ => [a, b]
  | .vext d _ b _ => [d, b]
  | .vredadd d _ _ _ => [d]
  | .vredmin d _ _ _ => [d]
  | .vredmax d _ _ _ => [d]
  | .vfredadd d _ _ _ => [d]
  | .vfredmin d _ _ _ => [d]
  | .vfredmax d _ _ _ => [d]
  | .vld _ a _ _ => [a]
  | .vst _ a _ _ => [a]
  | .vgather _ a _ _ _ => [a]
  | .vscatter _ a _ _ _ => [a]
  | _ => []

/-- The instructions that a loop captured. -/
def Loop.insns (l : Loop) : List Instr :=
  l.words.filterMap (fun w => match decodePattern 4 w.toNat with
    | .ok i => some i
    | .error _ => none)

/-- Whether an instruction may issue while the strand's loop replays (R182). -/
def Slot.independent (t : Slot) (l : Loop) (i : Instr) : Bool :=
  match aheadRegs i with
  | none => false
  | some rs =>
    let used := l.insns.flatMap vectorRegs
    rs.all (fun r => (t.stream r.val).isNone && !used.contains r)

/-- What a strand with a loop does with what it has fetched: it issues, or waits for the last iteration (R182). -/
def holdBack (x : Turned) : Turned :=
  match x with
  | .idle s => .idle s
  | .run i s =>
    let t := s.cur
    match t.loop with
    | some l => if t.independent l i then .run i s else .idle (s.parked .loop)
    | none => .run i s

/-! ### Replay (R180, R183) -/

/-- A loop that a restored context brings takes the buffer when it is free (R183). -/
def State.claimLoop (s : State) (c : Nat) : State :=
  match (s.coreAt c).loopSlot with
  | some _ => s
  | none => match (List.range 16).find? (fun i => (s.slotAt c i).loop.isSome) with
    | some i => s.modCore c (fun k => { k with loopSlot := some i })
    | none => s

/-- Whether a core's strands run at all: it is in service, its cluster is powered and not halted, and the device has booted. -/
def State.runs_ (s : State) (c : Nat) : Bool :=
  let k := s.clusterAt (clusterOf c)
  s.booted && !(s.coreAt c).outOfService && k.power == 0 && !k.halted

/-- The slot whose loop may replay an instruction now. -/
def State.replaySlot (s : State) (c : Nat) : Option Nat :=
  match (s.coreAt c).loopSlot with
  | none => none
  | some i =>
    let t := s.slotAt c i
    if s.runs_ c && t.loop.isSome && t.pend.out.isNone && (t.state == .ready || t.state == .wait .loop) then some i
    else none

/-- One replay of a core's loop: the strand stands at the block word, with its own pc kept, and its own next instruction when that waits
(R180, R182). -/
def State.replayCore (s : State) (c : Nat) : Turned :=
  let s := s.claimLoop c
  match s.replaySlot c with
  | none => .idle s
  | some i =>
    let t := s.slotAt c i
    match t.loop with
    | none => .idle s
    | some l =>
      let w := (l.words.getD l.j 0).toNat
      let l' := if l.stopped then l
        else { l with stopped := true, ahead := t.pc, parked := if t.state == .wait .loop then some t.insn else none }
      let t' := { t.setPc (l.pc0 + 4 * l.j) with state := .ready, loop := some l', insn := w, again := false }
      let s := { s.setSlot c i t' with core := c, slot := i, ir := w, replaying := true, busy := true }
      match decodePattern 4 w with
      | .ok x => .run (staggered (l.k * l.stagger) x) s
      | .error _ => .idle s

end Sys2Proof.Machine
end

