-- ==== Sys2Proof/Machine/Power.lean ====
section
/-! DEFINITION. Power (R404 to R406): junction temperature, cluster states, and the deepest state read by a function. -/

namespace Sys2Proof.Machine

/-! ### Temperature (R404) -/

/-- Power is removed: nothing of the device stays but its flash (R404); the next power-up is a device reset. The memory of the host, which
the model holds beside the device's own, stays. -/
def State.powerOff (s : State) : State :=
  { State.reset with mem := s.mem.filter (fun c => decide (hostBase ≤ c.1)), flash := s.flash, out := s.out, agenda := s.agenda,
                     fresh := s.fresh }

/-- THERMAL_SAMPLE (R404): one measurement of a die. -/
def execThermalSample (die degrees : Nat) (s : State) : Out :=
  let s1 := s.modDie die (fun d => { d with degrees := degrees })
  .next (if 110 ≤ degrees then { s1.powerOff with out := s1.out ++ [.report 0x81 die] }
    else if 100 < degrees then
      { s1.modDie die (fun d => { d with throttled := true }) with out := s1.out ++ [.report 0x81 die] }
    else if degrees < 95 then s1.modDie die (fun d => { d with throttled := false })
    else s1)

/-! ### Cluster states (R405) -/

/-- The cores of a cluster. -/
def coresOf (cluster : Nat) : List Nat := (List.range 24).map (fun j => cluster * 32 + j)

/-- The entries of objects, pools and sync objects that lie in a cluster. -/
def State.lyingIn (s : State) (cluster : Nat) : List Obj :=
  (s.objs.filter (fun p => p.2.entKind != 0 && p.2.entKind != 4 && !p.2.retired && decide (p.2.level < 3)
    && clusterOf (s.homeCore p.2) == cluster)).map (fun p => p.2)

/-- The partitions that have a domain, or own an object, in a cluster (R405). -/
def State.partsIn (s : State) (cluster : Nat) : List Nat :=
  let ds := (s.domains.filter (fun d => clusterOf (d.1 / 4096) == cluster)).map (fun d => d.2.part)
  (ds ++ (s.lyingIn cluster).map (fun e => e.part)).foldl putN []

/-- A wait for a message, a sync word, a tag or a barrier (R405). -/
def SlotState.quiet : SlotState → Bool
  | .vacant => true
  | .wait w => match w with
    | .continuation | .deferred _ | .retry _ | .anyTag _ | .allTags _ | .barrier _ _ => true
    | .reply _ _ | .line _ _ _ | .walk _ _ _ | .remote | .cancelled _ | .entry _ | .transit _ | .port _ | .element _ | .bank _
    | .engine _ | .filled _ _ | .room _ _ | .queueBusy _ | .loop | .helper | .handle _ | .stores | .cleaning _ | .work | .allowance _ _ _ | .shuffle _ _ | .commit
    | .pairing | .rebase | .translation _ | .scatter _ _ | .contexts | .check _ | .tlb _ _ | .code _ | .edge _ => false
  | .ready => false
  | .frozen => false
  | .swap => false

/-- Whether a cluster is idle (R405): its slots, its engine commands, its store buffers' write-backs, its fills, its background sweep, and the
zeroing of its space. -/
def State.idle (s : State) (cluster : Nat) : Bool :=
  (coresOf cluster).all (fun c =>
      let k := s.coreAt c
      k.slots.all (fun t => t.2.state.quiet && t.2.sbuf.isEmpty && t.2.streams.all (fun b => b.2.out || b.2.ahead.isEmpty))
        && k.ports.all (fun p => p.2.isEmpty) && k.starts.isEmpty)
    && (s.clusterAt cluster).sweep == 0
    && s.cleaning.all (fun x => let e := s.objAt x.pool
      !(decide (e.level < 3) && e.entKind == 2 && clusterOf e.ownCore == cluster))

/-- Whether something happens for a cluster that ends its idleness (R405): a slot of it goes on, a message or a shipped work entry has come to
it, or another event waits at its edge. -/
def State.stirred (s : State) (cluster : Nat) : Bool :=
  (s.clusterAt cluster).wake || !s.idle cluster
    || (coresOf cluster).any (fun c => !(s.coreAt c).shipped.isEmpty || !(s.arrivals c).isEmpty)

/-- Whether a cluster may enter Off, its tolerance apart (R405). -/
def State.offOk (s : State) (cluster : Nat) : Bool :=
  (s.lyingIn cluster).isEmpty && (coresOf cluster).all (fun c =>
    let k := s.coreAt c
    k.slots.all (fun t => t.2.state == .vacant) && k.inbox.isEmpty && k.work.isEmpty && k.shipped.isEmpty && k.tcc.isEmpty)

/-- The state that an idle cluster enters (R405): 0 none. -/
def State.lowState (s : State) (cluster : Nat) : Nat :=
  let ps := s.partsIn cluster
  let t (n : Nat) : Bool := ps.all (fun p => decide (n ≤ (s.partAt p).latTol))
  if s.offOk cluster ∧ t 200000 then 3 else if t 2000 then 2 else if t 20 then 1 else 0

/-- A core loses what Off does not keep (R405): release table entries fold into FLOOR, each counted; its L1, its TLB, its caches, its matrix
state, its ring tile and its slots' windows are as at reset. The state of its domains stays, with the matrix unit's holder, and so does what
lies outside the cluster or counts on: the retired columns and the model's numberings. -/
def State.coreOff (s : State) (c : Nat) : State :=
  let fold (s : State) (r : Release) : State :=
    (s.modDom c r.asid (fun d => { d with floor := s.merge c r.asid d.floor r.clk })).countLoss c r.asid 0x082 1
  let s := (s.coreAt c).rtable.foldl fold s
  let s := ((s.coreAt c).l1.foldl (fun s l => s.loseLine c l) s).closeRecord c
  s.modCore c (fun k => { k with
    slots := [], rtable := [], l1 := [], tlb := [], icache := [], checkCache := [], mx := .fresh, ring := none, openRec := none, last := 15,
    outHandle := 0, schedResult := 0, schedBusy := false, schedSaved := false, loopSlot := none })

/-- CLUSTER_POWER_ENTRY (R405, R406): an idle cluster enters the lowest state that its tolerance allows. -/
def execClusterPowerEntry (cluster : Nat) (s : State) : Out :=
  let n := s.lowState cluster
  .next (if (s.clusterAt cluster).power = 0 ∧ !s.stirred cluster ∧ n ≠ 0 then
      let ps := s.partsIn cluster
      let s := if n = 3 then ((coresOf cluster).foldl State.coreOff s).modCluster cluster (fun _ => Cluster.reset) else s
      let s := ps.foldl (fun s p => s.modPart p (fun q => { q with deepest := max q.deepest n })) s
      s.modCluster cluster (fun k => { k with power := n })
    else s)

/-- A range of a level reads zero, untagged, with lines as at reset. -/
def State.wipe (s : State) (a n : Nat) : State :=
  let s := s.clearRange a n
  { s with mordant := s.mordant.filter (fun p => decide (p.1 < lineOf a) || decide (lineOf (a + n - 1) < p.1)) }

/-- CLUSTER_POWER_EXIT (R405): started by an event; a cluster that leaves Off has its stores zero, and its arrays at pass count 0. -/
def execClusterPowerExit (cluster : Nat) (s : State) : Out :=
  let s1 := if (s.clusterAt cluster).power = 3 then
      let s := (coresOf cluster).foldl (fun s c =>
        ((s.wipe (lsBase c) (2 ^ 18)).wipe (tsBase c) (2 ^ 18)).modCore c (fun k => { k with passes := 0 })) s
      s.wipe (csBase cluster) (2 ^ 23)
    else s
  .next (if (s.clusterAt cluster).power ≠ 0 ∧ s.stirred cluster then s1.modCluster cluster (fun k => { k with power := 0, wake := false }) else s)

/-! ### DEEPEST (R406) -/

/-- DEEPEST_READ (R406): read in the power DVSEC of a function, and cleared. -/
def execDeepestRead (fn : Nat) (s : State) : Out :=
  .next (if !s.booted then s
    else if s.fnExists fn then
      ({ s with out := s.out ++ [.hostRead fn 0x10010 (s.partAt fn).deepest] } : State).modPart fn (fun p => { p with deepest := 0 })
    else { s with out := s.out ++ [.unsupportedRequest fn 0x10010] })

end Sys2Proof.Machine
end

