-- ==== Sys2Proof/Machine/Manage.lean ====
section
/-! DEFINITION. Management (R339, R370, R381 to R383, R400, R401, R408 to R411): quiesce and reset, the boot, measurements, TDI states
and decrypt streams, migration images, firmware, and writes of registers. -/

namespace Sys2Proof.Machine

/-! ### Quiesce and reset (R339, R370) -/

/-- QUIESCE (R339): asked for by the management interface. -/
def execQuiesce (part : Nat) (s : State) : Out := .next (s.quiesce part)

/-- PARTITION_RESET (R339): asked for by the management interface. -/
def execPartitionReset (part : Nat) (s : State) : Out := .next (s.requestReset part)

/-- QUIESCE_COMPLETE (R339). -/
def execQuiesceComplete (part : Nat) (s : State) : Out := .next (s.quiesced part)

/-- RESET_COMPLETE (R339). -/
def execResetComplete (part : Nat) (s : State) : Out := .next (s.resetDone part)

/-! ### TDI states and streams (R382, R383) -/

/-- A DECRYPT of a partition that has begun ends with LINK, its destination poisoned and freed as on a tag failure (R382, R207). -/
def State.endDecrypt (s : State) (core : Nat) (k : Cmd) : State :=
  ((s.poison (objOf k.y)).revokeFree (objOf k.y)).ends core 1 k stLINK 0 0

/-- The TDI of a function leaves RUN: its DECRYPTs end, and its streams are cleared (R382, R383). -/
def State.leaveRun (s : State) (fn : Nat) : State :=
  let ks : List (Nat × Cmd) := s.cores.flatMap (fun c => ((c.2.ports.filter (fun p => p.1 == 1)).flatMap (fun p => p.2)).filterMap (fun k =>
    if k.code_ == 0x13 && k.stopped && k.done.isNone && (s.domAt c.1 k.asid).part == fn then some (c.1, k) else none))
  (ks.foldl (fun s x => s.endDecrypt x.1 x.2) s).modPart fn (fun p => { p with streams := [] })

/-- A TDI's state becomes another. -/
def State.setTdi (s : State) (fn st : Nat) : State :=
  let s := if (s.partAt fn).tdi = 2 ∧ st ≠ 2 then s.leaveRun fn else s
  s.modPart fn (fun p => { p with tdi := st })

/-- The changes of state that TDISP 1.0 knows: LOCK, START, STOP from any state, and ERROR from a locked one (R382). -/
def tdiMay (a b : Nat) : Bool := b == 0 || (a == 0 && b == 1) || (a == 1 && b == 2) || ((a == 1 || a == 2) && b == 3)

/-- TDI_STATE_CHANGE (R382). -/
def execTdiStateChange (fn state : Nat) (s : State) : Out :=
  .next (if tdiMay (s.partAt fn).tdi state then s.setTdi fn state else s)

/-- FLR (R370, R382): a partition reset is requested, and a locked TDI goes to ERROR. The function takes no requests until the reset
has completed. -/
def execFlr (fn : Nat) (s : State) : Out :=
  let s := if (s.partAt fn).tdi = 1 ∨ (s.partAt fn).tdi = 2 then s.setTdi fn 3 else s
  .next ((s.requestReset fn).modPart fn (fun p => { p with flr := true }))

/-- STREAM_INSTALL (R383): in a secured session with the VF while its TDI is in RUN; the counter starts at 0. -/
def execStreamInstall (fn stream : Nat) (secured : Bool) (key : BitVec 256) (salt : BitVec 32) (s : State) : Out :=
  .next (if secured ∧ fn ≠ 0 ∧ (s.partAt fn).tdi = 2 then
      s.modPart fn (fun p => { p with streams := putT p.streams stream ⟨key, salt, 0⟩ })
    else s)

/-! ### Flash, boot and measurements (R381, R408 to R410) -/

/-- The bytes of a firmware image that its signature covers, by their digest (R408). -/
def Firmware.bytes (f : Firmware) : List Byte := leBytes 8 f.version ++ leBytes 8 f.body.length ++ leBytes 8 f.slotSeq ++ f.body

/-- Bytes of a 512-bit digest, in the order of the standard. -/
def digestBytes (d : BitVec 512) : List Byte := beBytes 64 d.toNat

/-- Whether a firmware image verifies under the vendor key (R408, R410). -/
def Firmware.valid (f : Firmware) : Bool := ed25519 Config.vendorKey (digestBytes (sha512 f.bytes)) f.sig

/-- A field of the configuration record. -/
def Flash.conf (f : Flash) (off n : Nat) : Nat := leNat ((f.config.drop off).take n)

/-- The image that the boot takes: the valid one with the higher slot sequence, and none below MINFW (R410 step 2): 0 FWA, 1 FWB. -/
def Flash.choose (f : Flash) : Option Nat :=
  let ok (w : Firmware) : Bool := w.valid && decide (f.conf 0x10 8 ≤ w.version)
  if ok f.fwa ∧ (!ok f.fwb ∨ f.fwb.slotSeq ≤ f.fwa.slotSeq) then some 0 else if ok f.fwb then some 1 else none

/-- The bytes of the retirement map: one 64-bit column mask for each core (R408). -/
def Flash.retBytes (f : Flash) : List Byte := allCores.flatMap (fun c => leBytes 8 ((lookT f.retmap c).getD 0))

/-- The first step of R410 that fails, or the image to run. -/
def Flash.check (f : Flash) : Except Nat Nat :=
  if Config.certKey f.ident ≠ Config.deviceKey ∨ !ed25519 Config.vendorKey f.ident f.identSig then .error 1
  else match f.choose with
    | none => .error 2
    | some n =>
      let owner := leBytes 32 f.operatorKey.toNat ++ leBytes 32 Config.deviceKey.toNat
      if !ed25519 Config.vendorKey owner f.ownerSig ∨ !ed25519 f.operatorKey (f.config.take 0x2E0) (.ofNat 512 (f.conf 0x2E0 64)) then .error 3
      else .ok n

/-- Measurement blocks 1 to 4 (R381). -/
def Flash.measure (f : Flash) : List (BitVec 512) :=
  [Config.romDigest, sha512 (if f.active = 0 then f.fwa else f.fwb).bytes, sha512 f.config, sha512 f.retBytes]

/-- The columns that a mask retires. -/
def maskedCols (m : Nat) : List Nat := (List.range 64).filter (fun i => bit m i)

/-- A device whose boot has succeeded: the configuration and the retirement map are in force (R409, R410), and the firmware alias key is
derived. -/
def State.configured (s : State) : State :=
  let f := s.flash
  let x := f.conf 8 8
  { s with
    phys := x % 2 ^ 16
    extents := (bitsAt x 16 2 + 1, bitsAt x 18 2 + 1, bitsAt x 20 6 + 1, bitsAt x 26 6 + 1)
    parts := (List.range 64).map (fun p => (p, { Partition.reset with otcap := f.conf (0x20 + 4 * p) 4, pkey := f.conf (0x120 + 2 * p) 2 }))
    cores := f.retmap.map (fun r => (r.1, { Core.reset with retiredCols := maskedCols r.2 }))
    conf := f.config
    blocks := f.measure
    aliasKey := Config.aliasKey Config.deviceKey f.measure
    booted := true }

/-- DEVICE_RESET (R410): a failing step stops the boot, and is reported. -/
def execDeviceReset (s : State) : Out :=
  let s := s.powerOff
  .next (match s.flash.check with
    | .error n => { s with out := s.out ++ [.report 0x82 n] }
    | .ok n => ({ s with flash := { s.flash with active := n } }).configured)

/-- The policy record that governs a partition: its own, or the operator default record (R391). -/
def State.policyRecord (s : State) (fn : Nat) : List Byte := ((s.partAt fn).policy).getD ((s.conf.drop 0x1A0).take 0x100)

/-- GET_MEASUREMENTS (R381, R410): blocks 1 to 4, and for a VF the digest of its current policy, answered with the firmware alias key. -/
def execGetMeasurements (fn : Nat) (s : State) : Out :=
  let more := if fn = 0 then [] else [sha512 (s.policyRecord fn)]
  .next (if s.booted ∧ s.fnExists fn then { s with out := s.out ++ [.spdm fn s.aliasKey (s.blocks ++ more)] } else s)

/-- FIRMWARE_UPDATE (R411): the inactive image is replaced; the next device reset looks at it (R409). -/
def execFirmwareUpdate (image : Firmware) (s : State) : Out :=
  .next { s with flash := if s.flash.active = 0 then { s.flash with fwb := image } else { s.flash with fwa := image } }

/-! ### Migration (R400, R401, R411) -/

/-- The flat ranges that an object's bytes take; page tables lie at a physical address. -/
def State.flatSpans (s : State) (o : Nat) : List (Nat × Nat) :=
  let e := s.objAt o
  if e.ptab then [(hbmBase + e.base, e.length)]
  else if e.entKind = 2 ∨ 3 < e.level then []
  else (s.spansAt e.ownCtx o 0 e.length).map (fun x => (x.2.1, x.2.2))

/-- Whether an address lies in ranges. -/
def inSpans (xs : List (Nat × Nat)) (a : Nat) : Bool := xs.any (fun x => decide (x.1 ≤ a) && decide (a < x.1 + x.2))

/-- Counter numbers that this device has (R385). -/
def ownNumbers : List Nat := (List.range 0x143).filter (fun n => domainCounter n || partCounter n)

/-- An entry of the counter section (R400): the counter n of an instance, or a partition sum, and its value. -/
def counterEntry (n : Nat) (inst : Bool) (core asid v : Nat) : List Byte :=
  leBytes 8 (field n 0 12 + field inst.toNat 12 1 + field core 13 13 + field asid 26 12) ++ leBytes 8 v

/-- The latch entry of the counter section (R400, R395). DESIGN CHOICE (log 33): R400 gives its length only; here, in doublewords, whether
the latch is valid, its selection, its offset, and the high half. -/
def latchEntry (l : CLatch) : List Byte := leBytes 8 l.valid.toNat ++ leBytes 8 l.sel.toNat ++ leBytes 8 l.off ++ leBytes 8 l.high

/-- The counter section of an image (R400): its header, its entries, and the latch. -/
def State.counterSection (s : State) (part : Nat) : List Byte :=
  let ds := s.domainsIn part
  let es := ownNumbers.map (fun n => counterEntry n false 0 0 (s.partSum part n))
    ++ (ownNumbers.filter domainCounter).flatMap (fun n =>
      ds.map (fun d => counterEntry n true d.1 d.2 ((s.domAt d.1 d.2).counter n)))
  leBytes 16 (field es.length 0 16 + field 0x142 16 12) ++ es.flatMap (fun e => e) ++ latchEntry (s.partAt part).latch

/-- The entries of a counter section: counter, INST, core, ASID and value. -/
def sectionEntries (b : List Byte) : List (Nat × Bool × Nat × Nat × Nat) :=
  (List.range (leNat (b.take 2))).map (fun i =>
    let e := b.drop (16 + 16 * i)
    let x := leNat (e.take 8)
    (bitsAt x 0 12, bit x 12, bitsAt x 13 13, bitsAt x 26 12, leNat ((e.drop 8).take 8)))

/-- The latch of a counter section. -/
def sectionLatch (b : List Byte) : CLatch :=
  let e := b.drop (16 + 16 * leNat (b.take 2))
  let w (k : Nat) : Nat := leNat ((e.drop (8 * k)).take 8)
  ⟨bit (w 0) 0, .ofNat 64 (w 1), w 2, w 3⟩

/-- The migration image of a partition (R400, R411). -/
def State.imageOf (s : State) (part : Nat) : Image :=
  let mine (a : Nat) : Bool := match lookT s.ctxs a with
    | some x => x.part == part
    | none => false
  let objs := s.objs.filter (fun p => p.2.entKind != 0 && p.2.part == part)
  let xs := objs.flatMap (fun p => s.flatSpans p.1)
  let p := s.partAt part
  { part := part
    ctxs := s.ctxs.filter (fun x => x.2.part == part)
    objs := objs
    spans := xs
    bytes := (s.mem.filter (fun c => inSpans xs c.1)).map (fun c => (c.1, c.2))
    tags := s.tags.filter (fun g => inSpans xs (16 * g))
    full := s.full.filter (fun w => inSpans xs w)
    domains := s.domains.filter (fun d => d.2.part == part)
    saved := s.cores.flatMap (fun k => (k.2.tcc.filter (fun v => mine v.asid)).map (fun v => (k.1, v)))
    groups := p.groups, remap := p.remap, policy := p.policy, counters := s.counterSection part
    verified := true }

/-- MIGRATION_EXPORT (R411): from a partition in QUIESCED. -/
def execMigrationExport (part : Nat) (s : State) : Out :=
  .next (if (s.partAt part).pstate = 2 then { s with out := s.out ++ [.image (s.imageOf part)] } else s)

/-- Whether an image may be imported: it verifies, its policy does under FORMAT, VF, SIG and TKEY (R400), and the partition has been
reset and has no domain (R411). DESIGN CHOICE (log 33): an image with a context or an OBJID that another partition uses is refused, which
the spec does not speak of. -/
def State.importOk (s : State) (i : Image) : Bool :=
  let p := s.partAt i.part
  i.verified && p.pstate == 0 && (s.domainsIn i.part).isEmpty && s.ctxs.all (fun x => x.2.part != i.part)
    && (match i.policy with
      | some r => r.length == 256 && bitsAt (polAt r 8 8) 8 8 == 1 && bitsAt (polAt r 8 8) 0 6 == i.part && policySigned r
          && (match p.policy with
            | some old => polAt old 0x10 32 == polAt r 0x10 32
            | none => true)
      | none => true)
    && i.ctxs.all (fun x => (lookT s.ctxs x.1).isNone)
    && i.objs.all (fun x => (s.objAt x.1).open_)

/-- Counters of a recreated domain (R400, R401). -/
def Image.countersOf (i : Image) (core asid : Nat) : Tab Nat :=
  ((sectionEntries i.counters).filter (fun c => c.2.1 && c.2.2.1 == core && c.2.2.2.1 == asid)).foldl (fun t c => putT t c.1 c.2.2.2.2) []

/-- Partition sums of an image, less what its domains hold (R385, R400). -/
def Image.sumsOf (i : Image) : Tab Nat :=
  let es := sectionEntries i.counters
  (es.filter (fun c => !c.2.1)).foldl (fun t c =>
    let live := (es.filter (fun d => d.2.1 && d.1 == c.1)).foldl (fun x d => x + d.2.2.2.2) 0
    putT t c.1 (c.2.2.2.2 - live)) []

/-- A saved strand of an image goes on: a control strand in s0, another in the lowest vacant slot of s1 to s14; what finds no slot
stays saved (log 33). -/
def State.resumeSaved (s : State) (x : Nat × Saved) : State :=
  let c := x.1
  let v := x.2
  let s := s.modCore c (fun k => { k with tcc := k.tcc ++ [v] })
  if v.control then if (s.slotAt c 0).state = .vacant then s.restore c 0 v.handle else s
  else match (s.coreAt c).vacant with
    | i :: rest => if v.images.length = 2 ∧ rest.isEmpty then s else s.restore c i v.handle
    | [] => s

/-- MIGRATION_IMPORT (R400, R401, R411): an image that fails verification changes nothing. -/
def execMigrationImport (image : Image) (s : State) : Out :=
  .next (if s.importOk image then
      let i := image
      let lacks := ownNumbers.filter (fun n => !(sectionEntries i.counters).any (fun c => c.1 == n))
      let sup := i.domains.filter (fun d => d.2.supv)
      let ctx (t : Tab Context) (x : Nat × Context) : Tab Context := putT t x.1 { x.2 with part := i.part }
      let obj (t : Tab Obj) (x : Nat × Obj) : Tab Obj := putT t x.1 x.2
      let cell (m : List Host.Cell) (x : Nat × Byte) : List Host.Cell := Memory.set m x.1 x.2
      let dom (t : Tab Domain) (d : Nat × Domain) : Tab Domain :=
        putT t d.1 { d.2 with part := i.part, stopped := false, counters := i.countersOf (d.1 / 4096) (d.1 % 4096) }
      let s := i.spans.foldl (fun (s : State) x => s.wipe x.1 x.2) s
      let s := { s with
        ctxs := i.ctxs.foldl ctx s.ctxs
        objs := i.objs.foldl obj s.objs
        mem := i.bytes.foldl cell s.mem
        tags := i.tags.foldl putN s.tags
        full := i.full.foldl putN (s.full.filter (fun w => !inSpans i.spans w))
        domains := i.domains.foldl dom s.domains }
      let cores := sup.map (fun d => d.1 / 4096)
      let ctx0 := (sup.map (fun d => d.1 % 4096)).headD 0
      let s := s.modPart i.part (fun p => { p with
        policy := i.policy, groups := i.groups, remap := i.remap, sums := i.sumsOf, unavailable := lacks, latch := sectionLatch i.counters
        supvCores := cores, supvCtx := ctx0 })
      i.saved.foldl State.resumeSaved s
    else s)

/-! ### Registers (R7, R337, R370, R379, R394, R396, R399, R406) -/

/-- A write of a register of a cluster's debug module by the management controller (R337, R396). -/
def State.writeModule (s : State) (cl off : Nat) (v : Word) : State :=
  if off = 0x00 then s.moduleControl cl v.toNat
  else if off = 0x38 then s.modCluster cl (fun k => { k with optrace := field (bitsAt v.toNat 8 5) 8 5 + v.toNat % 16 })
  else s

/-- REGISTER_WRITE (R7, R370): a write of a function's register, by its offset in the function block; a register that is not listed
ignores it. 0x1000C is LATTOL of the power DVSEC (R406), and for the physical function 0x20000 + 256 × cluster + offset a cluster's
debug module as the management controller writes it (log 34). -/
def execRegisterWrite (fn off : Nat) (v : Word) (s : State) : Out :=
  let x := v.toNat
  let p := s.partAt fn
  .next (if !s.fnExists fn ∨ p.flr ∨ !s.booted ∨ (off < 0x10000 ∧ !s.fnOpen fn) then s
    else if off = 0x000 then if s.fnTakes fn then (if 16 ≤ p.queue.length then s.pushStatus fn (bitsAt x 56 8) 3
      else s.modPart fn (fun p => { p with queue := p.queue ++ [(bitsAt x 56 8, bitsAt x 6 34 * 64)] })) else s
    else if off = 0x020 then if s.fnTakes fn then s.modPart fn (fun p => { p with winVa := x }) else s
    else if off = 0x028 then s.winRequest fn v
    else if off = 0x040 then if bit x 0 ∧ s.fnTakes fn then s.requestReset fn else s
    else if 0x100 ≤ off ∧ off < 0x180 ∧ off % 8 = 0 then s.doorbell fn ((off - 0x100) / 8) v
    else if fn = 0 ∧ 0x808 ≤ off ∧ off < 0xA00 ∧ off % 8 = 0 then
      s.modPart ((off - 0x800) / 8) (fun p => { p with tenantOnly := bit x 0 })
    else if off = 0x1000 then
      s.modPart fn (fun p => { p with sel := .ofNat 64 (field (bitsAt x 63 1) 63 1 + field (bitsAt x 50 13) 50 13
        + field (bitsAt x 34 12) 34 12 + if fn = 0 then x % 64 else 0) })
    else if fn = 0 ∧ off = 0x1100 then s.modPart 0 (fun p => { p with ofpart := x % 64 })
    else if off = 0x1108 then if bit x 0 then s.ofPop fn else s
    else if off = 0x1000C then s.modPart fn (fun p => { p with latTol := x % 2 ^ 32 })
    else if fn = 0 ∧ 0x20000 ≤ off ∧ clusterOk ((off - 0x20000) / 256) then s.writeModule ((off - 0x20000) / 256) (off % 256) v
    else s)

/-- What a register of a function reads that no step of the table reads (R370, R380, R394, R399, R406), and for the physical function, at the
offsets of log 34, a cluster's debug module (R337, R396). -/
def State.functionReg (s : State) (fn off : Nat) : Nat :=
  let p := s.partAt fn
  let copy := ((s.partAt p.ofpart).faults).headD []
  if off = 0x030 then field p.winResult 8 8 + p.winBusy.isSome.toNat
  else if off = 0x048 then p.tenantOnly.toNat
  else if fn = 0 ∧ 0x808 ≤ off ∧ off < 0xA00 ∧ off % 8 = 0 then (s.partAt ((off - 0x800) / 8)).tenantOnly.toNat
  else if off = 0x1000 then p.sel.toNat + if fn = 0 then 0 else fn
  else if fn = 0 ∧ off = 0x1100 then p.ofpart
  else if fn = 0 ∧ 0x1140 ≤ off ∧ off < 0x1180 ∧ off % 8 = 0 then (copy.getD ((off - 0x1140) / 8) 0).toNat
  else if off = 0x10004 then Config.vendorId.toNat + (Config.dvsecRest 1).toNat * 2 ^ 16
  else if off = 0x10008 then 1 + (Config.dvsecRest 2).toNat * 2 ^ 16
  else if off = 0x1000C then p.latTol
  else if fn = 0 ∧ 0x20000 ≤ off ∧ clusterOk ((off - 0x20000) / 256) then
    let g := s.moduleGranule 0 ((off - 0x20000) / 256) (off % 256 / 16 * 16)
    if off % 16 = 0 then g.lo else if off % 16 = 8 then g.hi else 0
  else 0

/-! ### What no row of the table names (R375, R382, R392, R409, R411) -/

/-- A request of the host on a function's block or aperture: the function, and, for a read, its offset, and whether it is of the aperture. -/
def hostRequest : Instr → Option (Nat × Option (Nat × Bool))
  | .launchSubmit fn _ => some (fn, none)
  | .lqstatusRead fn => some (fn, some (8, false))
  | .registerWrite fn off _ => if off < 0x10000 then some (fn, none) else none
  | .inboundWrite fn _ _ => some (fn, none)
  | .inboundSyncPut fn _ _ => some (fn, none)
  | .inboundRead fn a _ => some (fn, some (a, true))
  | .inboundSyncPeek fn a _ => some (fn, some (a, true))
  | .doorbellMessage fn _ _ => some (fn, none)
  | .doorbellTag fn _ _ => some (fn, none)
  | .windowRegister fn _ => some (fn, none)
  | .windowUnregister fn _ => some (fn, none)
  | .ofpop fn => some (fn, none)
  | _ => none

/-- Whether a request of the host without the T bit of the function's IDE stream is turned away, its TDI being in RUN: a write is dropped, and
a read answered with Unsupported Request (R382). -/
def State.turnedAway (s : State) (i : Instr) : Option State :=
  match hostRequest i with
  | some (fn, r) =>
    if fn ≠ 0 ∧ (s.partAt fn).tdi = 2 then
      if !s.fnOpen fn then some s
      else match r with
        | some (a, ap) => some { s with out := s.out ++ [if ap then .inboundRefused fn a else .unsupportedRequest fn a] }
        | none => some s
    else none
  | none => none

/-- An error on a posted write of a partition to the host: no strand sees it; it is logged and counted (R375). -/
def State.postedError (s : State) (part : Nat) : State := (s.countPart part 0x141 1).modPart part (fun p => { p with aer := p.aer + 1 })

/-- What management reads (R356, R392, R398, R399, R411): a counter as the operator reads it, under the policy of its partition. -/
def State.managedValue (s : State) : Query → List Nat
  | .counter part n inst core asid => [s.counterShown part n inst core asid]
  | .trace n => (s.ring.getD n []).map (fun w => w.toNat)
  | .fault part => ((s.partAt part).faults.headD []).map (fun w => w.toNat)
  | .sensor die => [(s.dieAt die).degrees, (s.dieAt die).throttled.toNat]
  | .writes => s.writeLog.flatMap (fun x => [x.1, x.2])

/-- Management reads (R411). -/
def State.answerManagement (s : State) (q : Query) : State := { s with out := s.out ++ [.managed q (s.managedValue q)] }

/-- A configuration record is written to the flash; its VERSION is above that of the record that it replaces, and it takes effect at the next
device reset (R409). -/
def State.replaceRecord (s : State) (r : List Byte) : State :=
  if s.flash.conf 0 8 < leNat (r.take 8) then { s with flash := { s.flash with config := r } } else s

/-- A host's read of a function's register (R7, R370): through the row of the table that reads it, or as `State.functionReg` says. -/
def State.readRegister (s : State) (fn off : Nat) (trusted : Bool) : Out :=
  if off = 0x008 then execLqstatusRead fn s
  else if off = 0x10010 then execDeepestRead fn s
  else if 0x8000 ≤ off ∧ off < 0x10000 ∧ off % 8 = 0 then execCounterRead fn ((off - 0x8000) / 8) trusted s
  else .next (s.answerRead fn off trusted (s.functionReg fn off))

end Sys2Proof.Machine
end

