-- ==== Sys2Proof/Machine/Stream.lean ====
section
/-! DEFINITION. Binding and unbinding streams (R136, R137). -/

namespace Sys2Proof.Machine

/-- Remove the binding of a register: every appended element is written, elements read ahead are discarded, and the register is
plain zero (R136). A member of a pair waits until its appended elements have been matched. -/
def unbindStream (k : CR) : Act Unit := do
  let t ← me
  until_ (t.held.all (fun h => h.store.isNone)) .pairing
  modS (fun s => s.drain s.core s.slot)
  modS (fun s => s.modCur (fun t => { t with streams := dropT t.streams k.val }))
  setRaw k CReg.zero

/-- `sbind` (R136): ILLEGAL for reserved bits of the descriptor before the capability's checks (R69). -/
def execSbind (sr a b : CR) (out : Bool) (e : Fin 5) (s : State) : Out :=
  issue_ 4 (do
    dirs [a, b] []
    let x ← src b
    if bitsAt x.lo 32 8 ≠ 0 then illegal
    let c ← src a
    let s ← getS
    let es := 2 ^ e.val
    let stride := sintN x.lo 32
    let _ ← headed c (checkHead s (if out then .streamOut else .streamIn) c s.dom.supv false 0 a.val)
    if cursorOf c % es ≠ 0 ∨ stride % es ≠ 0 then stopWith (capFault fALIGN 6 0 a.val (cursorOf c))
    if (s.cur.stream sr.val).isSome then unbindStream sr
    let b : Stream :=
      { out := out, esize := es, cap := c, count := bitsAt x.lo 40 24, stride := stride, pos := 0, ahead := [] }
    modS (fun s => s.modCur (fun t => { t with streams := putT t.streams sr.val b }))) s

/-- `sunbind` (R136). -/
def execSunbind (sr : CR) (s : State) : Out := issue_ 4 (unbindStream sr) s

end Sys2Proof.Machine
end

