-- ==== Sys2Proof/Machine/Dispatch.lean ====
section
/-! DEFINITION. Each instruction and step with its meaning, one arm a constructor. -/

namespace Sys2Proof.Machine

def exec (i : Instr) (s : State) : Host.Outcome State Fault Refusal :=
  match i with
  | .add d a b => Sys2Proof.Machine.execAdd d a b s
  | .sub d a b => Sys2Proof.Machine.execSub d a b s
  | .and d a b => Sys2Proof.Machine.execAnd d a b s
  | .or d a b => Sys2Proof.Machine.execOr d a b s
  | .xor d a b => Sys2Proof.Machine.execXor d a b s
  | .shl d a b => Sys2Proof.Machine.execShl d a b s
  | .shr d a b => Sys2Proof.Machine.execShr d a b s
  | .sra d a b => Sys2Proof.Machine.execSra d a b s
  | .min d a b => Sys2Proof.Machine.execMin d a b s
  | .max d a b => Sys2Proof.Machine.execMax d a b s
  | .minn d a b => Sys2Proof.Machine.execMinn d a b s
  | .maxn d a b => Sys2Proof.Machine.execMaxn d a b s
  | .addQ d a b => Sys2Proof.Machine.execAddQ d a b s
  | .subQ d a b => Sys2Proof.Machine.execSubQ d a b s
  | .andQ d a b => Sys2Proof.Machine.execAndQ d a b s
  | .orQ d a b => Sys2Proof.Machine.execOrQ d a b s
  | .xorQ d a b => Sys2Proof.Machine.execXorQ d a b s
  | .setCc d a b c => Sys2Proof.Machine.execSetCc d a b c s
  | .addi d a imm => Sys2Proof.Machine.execAddi d a imm s
  | .andi d a imm => Sys2Proof.Machine.execAndi d a imm s
  | .ori d a imm => Sys2Proof.Machine.execOri d a imm s
  | .xori d a imm => Sys2Proof.Machine.execXori d a imm s
  | .shli d a sh => Sys2Proof.Machine.execShli d a sh s
  | .shri d a sh => Sys2Proof.Machine.execShri d a sh s
  | .srai d a sh => Sys2Proof.Machine.execSrai d a sh s
  | .roli d a sh => Sys2Proof.Machine.execRoli d a sh s
  | .setiCc d a c imm => Sys2Proof.Machine.execSetiCc d a c imm s
  | .lkZ d pos imm => Sys2Proof.Machine.execLkZ d pos imm s
  | .lkK d pos imm => Sys2Proof.Machine.execLkK d pos imm s
  | .lkS d pos imm => Sys2Proof.Machine.execLkS d pos imm s
  | .mul d a b => Sys2Proof.Machine.execMul d a b s
  | .mulh d a b => Sys2Proof.Machine.execMulh d a b s
  | .mulhn d a b => Sys2Proof.Machine.execMulhn d a b s
  | .div d a b => Sys2Proof.Machine.execDiv d a b s
  | .divn d a b => Sys2Proof.Machine.execDivn d a b s
  | .remS d a b => Sys2Proof.Machine.execRemS d a b s
  | .remn d a b => Sys2Proof.Machine.execRemn d a b s
  | .mulx d a b => Sys2Proof.Machine.execMulx d a b s
  | .mulxn d a b => Sys2Proof.Machine.execMulxn d a b s
  | .clz d a => Sys2Proof.Machine.execClz d a s
  | .ctz d a => Sys2Proof.Machine.execCtz d a s
  | .popc d a => Sys2Proof.Machine.execPopc d a s
  | .brev d a => Sys2Proof.Machine.execBrev d a s
  | .bswap d a => Sys2Proof.Machine.execBswap d a s
  | .bext d a b => Sys2Proof.Machine.execBext d a b s
  | .bins d a b => Sys2Proof.Machine.execBins d a b s
  | .andn d a b => Sys2Proof.Machine.execAndn d a b s
  | .addpc d k => Sys2Proof.Machine.execAddpc d k s
  | .b k => Sys2Proof.Machine.execB k s
  | .bl k => Sys2Proof.Machine.execBl k s
  | .bcc a b c k => Sys2Proof.Machine.execBcc a b c k s
  | .bccz a c k => Sys2Proof.Machine.execBccz a c k s
  | .br a => Sys2Proof.Machine.execBr a s
  | .brl a => Sys2Proof.Machine.execBrl a s
  | .ret => Sys2Proof.Machine.execRet s
  | .dbnz a k => Sys2Proof.Machine.execDbnz a k s
  | .nop => Sys2Proof.Machine.execNop s
  | .endStrand => Sys2Proof.Machine.execEndStrand s
  | .trap code => Sys2Proof.Machine.execTrap code s
  | .brk code => Sys2Proof.Machine.execBrk code s
  | .yield => Sys2Proof.Machine.execYield s
  | .rdst d n => Sys2Proof.Machine.execRdst d n s
  | .wrst a n => Sys2Proof.Machine.execWrst a n s
  | .setst a n => Sys2Proof.Machine.execSetst a n s
  | .clrst a n => Sys2Proof.Machine.execClrst a n s
  | .rdcnt d n => Sys2Proof.Machine.execRdcnt d n s
  | .clock d => Sys2Proof.Machine.execClock d s
  | .rmtBegin e k => Sys2Proof.Machine.execRmtBegin e k s
  | .rmtCommit sr => Sys2Proof.Machine.execRmtCommit sr s
  | .rmtAbort => Sys2Proof.Machine.execRmtAbort s
  | .ld d a z off => Sys2Proof.Machine.execLd d a z off s
  | .st d a z off => Sys2Proof.Machine.execSt d a z off s
  | .ldc d a off => Sys2Proof.Machine.execLdc d a off s
  | .stc d a off => Sys2Proof.Machine.execStc d a off s
  | .ldx d a b z sc => Sys2Proof.Machine.execLdx d a b z sc s
  | .stx d a b z sc => Sys2Proof.Machine.execStx d a b z sc s
  | .sbind sr a b out e => Sys2Proof.Machine.execSbind sr a b out e s
  | .sunbind sr => Sys2Proof.Machine.execSunbind sr s
  | .alloc d a b => Sys2Proof.Machine.execAlloc d a b s
  | .free a => Sys2Proof.Machine.execFree a s
  | .creclaim d a => Sys2Proof.Machine.execCreclaim d a s
  | .split d a b => Sys2Proof.Machine.execSplit d a b s
  | .join d a b => Sys2Proof.Machine.execJoin d a b s
  | .send a p hint strict => Sys2Proof.Machine.execSend a p hint strict s
  | .cview d a b => Sys2Proof.Machine.execCview d a b s
  | .cget d a f => Sys2Proof.Machine.execCget d a f s
  | .cset d a b f => Sys2Proof.Machine.execCset d a b f s
  | .cinc d a b => Sys2Proof.Machine.execCinc d a b s
  | .ctest d a => Sys2Proof.Machine.execCtest d a s
  | .take d a off => Sys2Proof.Machine.execTake d a off s
  | .put d a off strict => Sys2Proof.Machine.execPut d a off strict s
  | .peek d a off => Sys2Proof.Machine.execPeek d a off s
  | .amoAdd d a b strict dbl => Sys2Proof.Machine.execAmoAdd d a b strict dbl s
  | .amoAnd d a b strict dbl => Sys2Proof.Machine.execAmoAnd d a b strict dbl s
  | .amoOr d a b strict dbl => Sys2Proof.Machine.execAmoOr d a b strict dbl s
  | .amoXor d a b strict dbl => Sys2Proof.Machine.execAmoXor d a b strict dbl s
  | .amoMin d a b strict dbl => Sys2Proof.Machine.execAmoMin d a b strict dbl s
  | .amoMax d a b strict dbl => Sys2Proof.Machine.execAmoMax d a b strict dbl s
  | .amoMinn d a b strict dbl => Sys2Proof.Machine.execAmoMinn d a b strict dbl s
  | .amoMaxn d a b strict dbl => Sys2Proof.Machine.execAmoMaxn d a b strict dbl s
  | .amoSwap d a b strict dbl => Sys2Proof.Machine.execAmoSwap d a b strict dbl s
  | .amoCas d a b strict dbl => Sys2Proof.Machine.execAmoCas d a b strict dbl s
  | .amoFadd d a b strict t ctl => Sys2Proof.Machine.execAmoFadd d a b strict t ctl s
  | .amoFmin d a b strict t ctl => Sys2Proof.Machine.execAmoFmin d a b strict t ctl s
  | .amoFmax d a b strict t ctl => Sys2Proof.Machine.execAmoFmax d a b strict t ctl s
  | .amoCas2 d a b strict => Sys2Proof.Machine.execAmoCas2 d a b strict s
  | .msg p a h n => Sys2Proof.Machine.execMsg p a h n s
  | .mcast p a h n => Sys2Proof.Machine.execMcast p a h n s
  | .cont p a h n => Sys2Proof.Machine.execCont p a h n s
  | .bind a cls => Sys2Proof.Machine.execBind a cls s
  | .unbind cls => Sys2Proof.Machine.execUnbind cls s
  | .hstart d a b => Sys2Proof.Machine.execHstart d a b s
  | .pair d a b => Sys2Proof.Machine.execPair d a b s
  | .hwait d a => Sys2Proof.Machine.execHwait d a s
  | .hkill a => Sys2Proof.Machine.execHkill a s
  | .wany a => Sys2Proof.Machine.execWany a s
  | .wall a => Sys2Proof.Machine.execWall a s
  | .ffr d a => Sys2Proof.Machine.execFfr d a s
  | .tclr a => Sys2Proof.Machine.execTclr a s
  | .post a => Sys2Proof.Machine.execPost a s
  | .grab d => Sys2Proof.Machine.execGrab d s
  | .bar g => Sys2Proof.Machine.execBar g s
  | .barAdd a g => Sys2Proof.Machine.execBarAdd a g s
  | .vadd d a b p t => Sys2Proof.Machine.execVadd d a b p t s
  | .vsub d a b p t => Sys2Proof.Machine.execVsub d a b p t s
  | .vmul d a b p t => Sys2Proof.Machine.execVmul d a b p t s
  | .vmin d a b p t => Sys2Proof.Machine.execVmin d a b p t s
  | .vmax d a b p t => Sys2Proof.Machine.execVmax d a b p t s
  | .vand d a b p t => Sys2Proof.Machine.execVand d a b p t s
  | .vor d a b p t => Sys2Proof.Machine.execVor d a b p t s
  | .vxor d a b p t => Sys2Proof.Machine.execVxor d a b p t s
  | .vshl d a b p t => Sys2Proof.Machine.execVshl d a b p t s
  | .vshr d a b p t => Sys2Proof.Machine.execVshr d a b p t s
  | .vabs d a p t => Sys2Proof.Machine.execVabs d a p t s
  | .vneg d a p t => Sys2Proof.Machine.execVneg d a p t s
  | .vadds d a b p t => Sys2Proof.Machine.execVadds d a b p t s
  | .vsubs d a b p t => Sys2Proof.Machine.execVsubs d a b p t s
  | .vmulh d a b p t => Sys2Proof.Machine.execVmulh d a b p t s
  | .vavg d a b p t => Sys2Proof.Machine.execVavg d a b p t s
  | .vfadd d a b p t => Sys2Proof.Machine.execVfadd d a b p t s
  | .vfsub d a b p t => Sys2Proof.Machine.execVfsub d a b p t s
  | .vfmul d a b p t => Sys2Proof.Machine.execVfmul d a b p t s
  | .vfdiv d a b p t => Sys2Proof.Machine.execVfdiv d a b p t s
  | .vfma d a b p t => Sys2Proof.Machine.execVfma d a b p t s
  | .vfmin d a b p t => Sys2Proof.Machine.execVfmin d a b p t s
  | .vfmax d a b p t => Sys2Proof.Machine.execVfmax d a b p t s
  | .vfabs d a p t => Sys2Proof.Machine.execVfabs d a p t s
  | .vfneg d a p t => Sys2Proof.Machine.execVfneg d a p t s
  | .vfsqrt d a p t => Sys2Proof.Machine.execVfsqrt d a p t s
  | .vcmp d a b p t r => Sys2Proof.Machine.execVcmp d a b p t r s
  | .vfcmp d a b p t r => Sys2Proof.Machine.execVfcmp d a b p t r s
  | .vsel d a b p t => Sys2Proof.Machine.execVsel d a b p t s
  | .pand d a b => Sys2Proof.Machine.execPand d a b s
  | .por d a b => Sys2Proof.Machine.execPor d a b s
  | .pxor d a b => Sys2Proof.Machine.execPxor d a b s
  | .vperm d a b p t => Sys2Proof.Machine.execVperm d a b p t s
  | .vbcast d a p t => Sys2Proof.Machine.execVbcast d a p t s
  | .vins d a b p t => Sys2Proof.Machine.execVins d a b p t s
  | .vext d a b t => Sys2Proof.Machine.execVext d a b t s
  | .vredadd d a p t => Sys2Proof.Machine.execVredadd d a p t s
  | .vredmin d a p t => Sys2Proof.Machine.execVredmin d a p t s
  | .vredmax d a p t => Sys2Proof.Machine.execVredmax d a p t s
  | .vfredadd d a p t => Sys2Proof.Machine.execVfredadd d a p t s
  | .vfredmin d a p t => Sys2Proof.Machine.execVfredmin d a p t s
  | .vfredmax d a p t => Sys2Proof.Machine.execVfredmax d a p t s
  | .vcvt d a to_ from_ => Sys2Proof.Machine.execVcvt d a to_ from_ s
  | .vmxq d a to_ from_ => Sys2Proof.Machine.execVmxq d a to_ from_ s
  | .vmxd d a to_ from_ => Sys2Proof.Machine.execVmxd d a to_ from_ s
  | .vld d a p off => Sys2Proof.Machine.execVld d a p off s
  | .vst d a p off => Sys2Proof.Machine.execVst d a p off s
  | .vgather d a vi p w => Sys2Proof.Machine.execVgather d a vi p w s
  | .vscatter d a vi p w => Sys2Proof.Machine.execVscatter d a vi p w s
  | .vloop cnt nm1 stag icnt => Sys2Proof.Machine.execVloop cnt nm1 stag icnt s
  | .tld d a b q qm => Sys2Proof.Machine.execTld d a b q qm s
  | .tst d a b q qm => Sys2Proof.Machine.execTst d a b q qm s
  | .tqDef a b q => Sys2Proof.Machine.execTqDef a b q s
  | .tqAdv b q => Sys2Proof.Machine.execTqAdv b q s
  | .tqRel b q => Sys2Proof.Machine.execTqRel b q s
  | .tqWait b q => Sys2Proof.Machine.execTqWait b q s
  | .epush a e strict => Sys2Proof.Machine.execEpush a e strict s
  | .epop d e => Sys2Proof.Machine.execEpop d e s
  | .estat d e => Sys2Proof.Machine.execEstat d e s
  | .aget d a bank g => Sys2Proof.Machine.execAget d a bank g s
  | .shufOpen a b => Sys2Proof.Machine.execShufOpen a b s
  | .shufHold a b => Sys2Proof.Machine.execShufHold a b s
  | .shufClose b => Sys2Proof.Machine.execShufClose b s
  | .shufStat d b => Sys2Proof.Machine.execShufStat d b s
  | .cAddi d imm => Sys2Proof.Machine.execCAddi d imm s
  | .cMov d a => Sys2Proof.Machine.execCMov d a s
  | .cAdd d a => Sys2Proof.Machine.execCAdd d a s
  | .cSub d a => Sys2Proof.Machine.execCSub d a s
  | .cLi d imm => Sys2Proof.Machine.execCLi d imm s
  | .cLdD d a k => Sys2Proof.Machine.execCLdD d a k s
  | .cStD d a k => Sys2Proof.Machine.execCStD d a k s
  | .cLdW d a k => Sys2Proof.Machine.execCLdW d a k s
  | .cStW d a k => Sys2Proof.Machine.execCStW d a k s
  | .cLdsp d k => Sys2Proof.Machine.execCLdsp d k s
  | .cStsp d k => Sys2Proof.Machine.execCStsp d k s
  | .cB k => Sys2Proof.Machine.execCB k s
  | .cBeqz a k => Sys2Proof.Machine.execCBeqz a k s
  | .cBnez a k => Sys2Proof.Machine.execCBnez a k s
  | .cRet => Sys2Proof.Machine.execCRet s
  | .cNop => Sys2Proof.Machine.execCNop s
  | .illegal word compact => Sys2Proof.Machine.execIllegal word compact s
  | .mma core upsets => Sys2Proof.Machine.execMma core upsets s
  | .loadb core => Sys2Proof.Machine.execLoadb core s
  | .ringClaim core => Sys2Proof.Machine.execRingClaim core s
  | .passb core => Sys2Proof.Machine.execPassb core s
  | .drain core => Sys2Proof.Machine.execDrain core s
  | .zero core => Sys2Proof.Machine.execZero core s
  | .mark core => Sys2Proof.Machine.execMark core s
  | .copy core mishap => Sys2Proof.Machine.execCopy core mishap s
  | .fill core mishap => Sys2Proof.Machine.execFill core mishap s
  | .move core => Sys2Proof.Machine.execMove core s
  | .decrypt core => Sys2Proof.Machine.execDecrypt core s
  | .ckpt core mishap => Sys2Proof.Machine.execCkpt core mishap s
  | .areduce core others => Sys2Proof.Machine.execAreduce core others s
  | .agather core others => Sys2Proof.Machine.execAgather core others s
  | .bcast core others => Sys2Proof.Machine.execBcast core others s
  | .shuffle core => Sys2Proof.Machine.execShuffle core s
  | .rget core mishap => Sys2Proof.Machine.execRget core mishap s
  | .rput core mishap => Sys2Proof.Machine.execRput core mishap s
  | .commandCompletion core e => Sys2Proof.Machine.execCommandCompletion core e s
  | .leaveGrant core e => Sys2Proof.Machine.execLeaveGrant core e s
  | .loadReply core slot r => Sys2Proof.Machine.execLoadReply core slot r s
  | .storeDrain core slot => Sys2Proof.Machine.execStoreDrain core slot s
  | .syncRetry core slot => Sys2Proof.Machine.execSyncRetry core slot s
  | .pageWalk asid page => Sys2Proof.Machine.execPageWalk asid page s
  | .entryUpdate obj => Sys2Proof.Machine.execEntryUpdate obj s
  | .translationStore core slot => Sys2Proof.Machine.execTranslationStore core slot s
  | .cleaningDone pool base => Sys2Proof.Machine.execCleaningDone pool base s
  | .transferPlacement obj => Sys2Proof.Machine.execTransferPlacement obj s
  | .transferBounce obj => Sys2Proof.Machine.execTransferBounce obj s
  | .helperStart core => Sys2Proof.Machine.execHelperStart core s
  | .messageArrival core pick => Sys2Proof.Machine.execMessageArrival core pick s
  | .messageClaim core => Sys2Proof.Machine.execMessageClaim core s
  | .controlStrandEntry core => Sys2Proof.Machine.execControlStrandEntry core s
  | .spillOut core => Sys2Proof.Machine.execSpillOut core s
  | .spillReplay core asid => Sys2Proof.Machine.execSpillReplay core asid s
  | .workReplay core asid => Sys2Proof.Machine.execWorkReplay core asid s
  | .levellingSample => Sys2Proof.Machine.execLevellingSample s
  | .workShipArrival core => Sys2Proof.Machine.execWorkShipArrival core s
  | .quiescenceTest => Sys2Proof.Machine.execQuiescenceTest s
  | .launchSubmit fn v => Sys2Proof.Machine.execLaunchSubmit fn v s
  | .launch part => Sys2Proof.Machine.execLaunch part s
  | .launchRetire part => Sys2Proof.Machine.execLaunchRetire part s
  | .lqstatusRead fn => Sys2Proof.Machine.execLqstatusRead fn s
  | .schedOut core slot pairAll => Sys2Proof.Machine.execSchedOut core slot pairAll s
  | .schedIn core slot handle pairAll => Sys2Proof.Machine.execSchedIn core slot handle pairAll s
  | .schedExchange core slot handle pairAll => Sys2Proof.Machine.execSchedExchange core slot handle pairAll s
  | .swapBoundary core slot => Sys2Proof.Machine.execSwapBoundary core slot s
  | .domainStop core asid => Sys2Proof.Machine.execDomainStop core asid s
  | .domainResume core asid => Sys2Proof.Machine.execDomainResume core asid s
  | .stopnote dev core asid stop => Sys2Proof.Machine.execStopnote dev core asid stop s
  | .resume core slot => Sys2Proof.Machine.execResume core slot s
  | .kill core slot => Sys2Proof.Machine.execKill core slot s
  | .halt core slot => Sys2Proof.Machine.execHalt core slot s
  | .step core slot => Sys2Proof.Machine.execStep core slot s
  | .crossTriggerFire cluster => Sys2Proof.Machine.execCrossTriggerFire cluster s
  | .crossTriggerRelease cluster => Sys2Proof.Machine.execCrossTriggerRelease cluster s
  | .pairEffectMatch core slot => Sys2Proof.Machine.execPairEffectMatch core slot s
  | .eccUncorr site core slot obj => Sys2Proof.Machine.execEccUncorr site core slot obj s
  | .raceRecordAppend core => Sys2Proof.Machine.execRaceRecordAppend core s
  | .sweepVisit cluster => Sys2Proof.Machine.execSweepVisit cluster s
  | .rebase core asid => Sys2Proof.Machine.execRebase core asid s
  | .remoteLoadServe p => Sys2Proof.Machine.execRemoteLoadServe p s
  | .noReply core slot dev => Sys2Proof.Machine.execNoReply core slot dev s
  | .commitOutcome core slot answers => Sys2Proof.Machine.execCommitOutcome core slot answers s
  | .rbatch p => Sys2Proof.Machine.execRbatch p s
  | .linkGroupReceive port flits ctl => Sys2Proof.Machine.execLinkGroupReceive port flits ctl s
  | .nak port gseq => Sys2Proof.Machine.execNak port gseq s
  | .linkDown port => Sys2Proof.Machine.execLinkDown port s
  | .widthChange port lanes => Sys2Proof.Machine.execWidthChange port lanes s
  | .packetHop port p => Sys2Proof.Machine.execPacketHop port p s
  | .remapWrite part job phys valid => Sys2Proof.Machine.execRemapWrite part job phys valid s
  | .deviceFence dev keys => Sys2Proof.Machine.execDeviceFence dev keys s
  | .isolatedReadAnswer port p => Sys2Proof.Machine.execIsolatedReadAnswer port p s
  | .holdFirstArrival p => Sys2Proof.Machine.execHoldFirstArrival p s
  | .holdPartnerArrival p => Sys2Proof.Machine.execHoldPartnerArrival p s
  | .pairwait shuf xa => Sys2Proof.Machine.execPairwait shuf xa s
  | .sack p => Sys2Proof.Machine.execSack p s
  | .snack p => Sys2Proof.Machine.execSnack p s
  | .codedTimerExpiry shuf xa => Sys2Proof.Machine.execCodedTimerExpiry shuf xa s
  | .block p => Sys2Proof.Machine.execBlock p s
  | .lake p => Sys2Proof.Machine.execLake p s
  | .busyResend p => Sys2Proof.Machine.execBusyResend p s
  | .senderSackTimeout part shuf blk => Sys2Proof.Machine.execSenderSackTimeout part shuf blk s
  | .shuffleReceiveTimeout part shuf => Sys2Proof.Machine.execShuffleReceiveTimeout part shuf s
  | .hostLineDrain failed => Sys2Proof.Machine.execHostLineDrain failed s
  | .timeout core slot => Sys2Proof.Machine.execTimeout core slot s
  | .inboundWrite fn addr b => Sys2Proof.Machine.execInboundWrite fn addr b s
  | .inboundSyncPut fn addr v => Sys2Proof.Machine.execInboundSyncPut fn addr v s
  | .inboundRead fn addr n => Sys2Proof.Machine.execInboundRead fn addr n s
  | .inboundSyncPeek fn addr n => Sys2Proof.Machine.execInboundSyncPeek fn addr n s
  | .doorbellMessage fn d v => Sys2Proof.Machine.execDoorbellMessage fn d v s
  | .doorbellTag fn d v => Sys2Proof.Machine.execDoorbellTag fn d v s
  | .windowRegister fn v => Sys2Proof.Machine.execWindowRegister fn v s
  | .windowUnregister fn v => Sys2Proof.Machine.execWindowUnregister fn v s
  | .quiesce part => Sys2Proof.Machine.execQuiesce part s
  | .partitionReset part => Sys2Proof.Machine.execPartitionReset part s
  | .flr fn => Sys2Proof.Machine.execFlr fn s
  | .quiesceComplete part => Sys2Proof.Machine.execQuiesceComplete part s
  | .resetComplete part => Sys2Proof.Machine.execResetComplete part s
  | .counterRead fn n trusted => Sys2Proof.Machine.execCounterRead fn n trusted s
  | .counterReadLow fn n trusted => Sys2Proof.Machine.execCounterReadLow fn n trusted s
  | .counterReadHigh fn n trusted => Sys2Proof.Machine.execCounterReadHigh fn n trusted s
  | .ofpop fn => Sys2Proof.Machine.execOfpop fn s
  | .counterIntervalSnapshot part cls => Sys2Proof.Machine.execCounterIntervalSnapshot part cls s
  | .traceSample cluster part => Sys2Proof.Machine.execTraceSample cluster part s
  | .traceIntervalRecord part cls => Sys2Proof.Machine.execTraceIntervalRecord part cls s
  | .deepestRead fn => Sys2Proof.Machine.execDeepestRead fn s
  | .thermalSample die degrees => Sys2Proof.Machine.execThermalSample die degrees s
  | .clusterPowerEntry cluster => Sys2Proof.Machine.execClusterPowerEntry cluster s
  | .clusterPowerExit cluster => Sys2Proof.Machine.execClusterPowerExit cluster s
  | .deviceReset => Sys2Proof.Machine.execDeviceReset s
  | .getMeasurements fn => Sys2Proof.Machine.execGetMeasurements fn s
  | .policyInstall fn secured record => Sys2Proof.Machine.execPolicyInstall fn secured record s
  | .streamInstall fn stream secured key salt => Sys2Proof.Machine.execStreamInstall fn stream secured key salt s
  | .tdiStateChange fn state => Sys2Proof.Machine.execTdiStateChange fn state s
  | .migrationExport part => Sys2Proof.Machine.execMigrationExport part s
  | .migrationImport image => Sys2Proof.Machine.execMigrationImport image s
  | .firmwareUpdate image => Sys2Proof.Machine.execFirmwareUpdate image s
  | .registerWrite fn off v => Sys2Proof.Machine.execRegisterWrite fn off v s
  | .ewrite p => Sys2Proof.Machine.execEwrite p s
  | .eread p => Sys2Proof.Machine.execEread p s
  | .commandRemoteTimeout core e => Sys2Proof.Machine.execCommandRemoteTimeout core e s
  | .spareJobAssign part job key => Sys2Proof.Machine.execSpareJobAssign part job key s

end Sys2Proof.Machine
end

