-- ==== Sys2Proof/Machine/Issue.lean ====
section
/-! DEFINITION. What happens from cycle to cycle: waits that end (R20, R274), the turn of issue of a core with its vector loop
(R19, R180), and the work of a core's hardware that the model takes up when no strand of the core can issue (log 1). -/

namespace Sys2Proof.Machine

/-! ### Waits that end (R20, R274) -/

/-- Whether an `alloc` that waits for cleaning space may go on: its request is the pool's first, and it fits now, or no longer fits at
all (R222). -/
def State.cleanEnough (s : State) (c i pool : Nat) : Bool :=
  s.firstRequest pool c i && match s.insnAt c i with
  | some (.alloc _ _ b) =>
    let t := s.slotAt c i
    let n := (t.reg b.val).lo
    (t.stream b.val).isSome || (s.room pool n true).isSome || (s.room pool n false).isNone
  | _ => true

/-- Whether the comparator lets a member of a pair go on (R330, R331). -/
def State.pairGoesOn (s : State) (c i : Nat) : Bool :=
  let t := s.slotAt c i
  let matched := t.held.getLast?.any (fun h => h.matched)
  if t.pair = 2 then !(s.slotAt c t.partner).lvq.isEmpty || matched
  else matched || (decide (t.held.length < 32) && decide (t.lvq.length + 2 ≤ 64) && t.held.all (fun h => h.store.isSome))

/-- Whether what a slot waits for has come about; waits that end with an event of their own are not looked at here. -/
def State.cleared (s : State) (c i : Nat) (w : Wait) : Bool :=
  let t := s.slotAt c i
  let d := s.domAt c t.asid
  let k := s.coreAt c
  match w with
  | .check o => k.checkCache.contains o
  | .tlb asid va => (s.coreTlb c asid va).isSome || (s.clusterTlb c asid va).isNone
  | .code ls => ls.all (fun x => k.icache.contains x)
  | .entry o => !s.loading o
  | .transit o => !(s.objAt o).transit
  | .anyTag m => d.tags &&& m != 0
  | .allTags m => d.tags &&& m == m
  | .port p => decide ((k.port p).length < portSize p)
  | .element p => !(d.results p).isEmpty || !s.elementDue c t.asid p
  | .bank b => !(k.port 0).any (fun x => x.asid == t.asid && x.targets b)
  | .engine o => !s.anyCmd c t.asid (fun x => x.names o)
  | .filled q n => (s.queueAt c q).all (fun x => decide (n ≤ x.filled))
  | .room q n => (s.queueAt c q).all (fun x => decide (n ≤ x.room))
  | .queueBusy q => !s.anyCmd c t.asid (fun x => x.namesQueue q)
  | .loop => t.loop.isNone && (k.loopSlot.isNone || k.loopSlot == some i)
  | .handle n => !d.handles.any (fun h => h.serial == n && h.ended.isNone)
  | .stores => decide (t.sbuf.length < 8)
  | .cleaning pool => s.cleanEnough c i pool
  | .work => k.work.any (fun x => x.asid == t.asid) || !d.workRecs
  | .allowance dev core ctx =>
    !s.held_ dev core ctx || decide ((s.outbox.filter (fun m => m.goesTo dev core ctx)).length < 8)
  | .shuffle id closing =>
    if closing then !s.shuffling d.part id && !s.holds.any (fun h => h.part == d.part && h.shuf == id)
    else decide ((s.partAt d.part).shuffles.length < 16) && (lookT (s.partAt d.part).shuffles id).isNone
  | .pairing => s.pairGoesOn c i
  | .rebase => !s.mustRebase c i
  | .contexts => (k.makeRoom 1 64).isSome
  | .remote => !s.owesRemote c t.born
  | .edge cl => (s.clusterAt cl).power == 0
  | .cancelled o => !s.named o
  | .reply _ _ | .line _ _ _ | .walk _ _ _ | .deferred _ | .retry _ | .barrier _ _ | .helper | .commit | .continuation | .translation _
  | .scatter _ _ => false

/-- What a slot waits for comes in a cycle after the one that asked for it: an entry of the check cache, a translation of the core TLB, or
lines of the instruction cache (R4, R20, R112). -/
def State.fillWait (s : State) (c i : Nat) (w : Wait) : State :=
  match w with
  | .check o => s.fillCheck c (s.slotAt c i).asid o
  | .tlb asid va => s.tlbComes c asid va
  | .code ls => ls.foldl (fun s x => s.fillCode c x) s
  | _ => s

/-- A slot whose wait has ended is READY, and is at a boundary (R20, R290); a `vscatter` goes on where its buffer has room (R178). -/
def State.wakeSlot (s : State) (c i : Nat) : State :=
  match (s.slotAt c i).state with
  | .wait w =>
    match w with
    | .scatter _ _ => if (s.slotAt c i).sbuf.length < 8 then s.scatterOn c i else s
    | _ => if s.cleared c i w then (s.modSlot c i (fun t => { t with state := .ready })).boundary c i else s.fillWait c i w
  | .vacant => s
  | .ready => s
  | .frozen => s
  | .swap => s

/-- Every slot whose wait has ended is READY. -/
def State.wakeAll (s : State) : State :=
  s.cores.foldl (fun (s : State) k => k.2.slots.foldl (fun (s : State) t => s.wakeSlot k.1 t.1) s) s

/-- The barriers of every group that are complete let their strands go on (R160). -/
def State.tryBarriers (s : State) : State :=
  s.parts.foldl (fun (s : State) p => p.2.groups.foldl (fun (s : State) g => s.tryBarrier p.1 g.1) s) s

/-- n cycles end, which are counted alike, and the next begins: what the instructions of the cycle have asked for and can be had takes
effect (R4), waits that have ended end, and s15 of each core starts or ends (R5, R20, R275). -/
def State.tick (s : State) (n : Nat) : State :=
  let s := s.countAll n
  let last := { s with time := s.time + n - 1 }
  let s := { s.mapSlots last.spent with time := s.time + n, busy := false }
  let s := s.serveAll.tryBarriers.tryWindows.wakeAll
  let s := s.cores.foldl (fun s k => s.setSpill k.1) s
  s.mapSlots s.opened

/-- Cycles pass: the one that ends, in which slots may have issued, and others in which none does. -/
def State.cycles (s : State) (n : Nat) : State :=
  if n = 0 then s else if n = 1 then s.tick 1 else (s.tick 1).tick (n - 1)

/-! ### A turn of issue -/

/-- The turn of issue of a core (R19), in which a strand with a loop issues only what may run ahead (R182). -/
def State.issueTurn (s : State) (c : Nat) : Turned := if coreOk c then holdBack (s.issueCore c) else .idle s

/-- The turn of a core's loop (R180). -/
def State.replayTurn (s : State) (c : Nat) : Turned := if coreOk c then s.replayCore c else .idle s

/-! ### The work of a core's hardware -/

/-- Steps that concern one slot. -/
def slotWork (c i : Nat) : List (State → Out) :=
  [execLoadReply c i .level, execStoreDrain c i, execTranslationStore c i, execSyncRetry c i, execPairEffectMatch c i,
   execSwapBoundary c i, execCommitOutcome c i []]

/-- Steps of the engine ports of a core. -/
def engineWork (c : Nat) : List (State → Out) :=
  [execCommandCompletion c 0, execCommandCompletion c 1, execCommandCompletion c 2, execLeaveGrant c 0, execLeaveGrant c 1,
   execLeaveGrant c 2, execMma c [], execLoadb c, execRingClaim c, execPassb c, execDrain c, execZero c, execMark c, execCopy c none,
   execFill c none, execMove c, execDecrypt c, execCkpt c none, execAreduce c [], execAgather c [], execBcast c [], execShuffle c,
   execRget c none, execRput c none]

/-- Steps of a core's hardware, in the order in which the model looks at them. -/
def State.hardware (s : State) (c : Nat) : List (State → Out) :=
  (List.range 15).flatMap (fun i => slotWork c i)
    ++ (s.dieAt (dieOf c)).active.map (fun p => execPageWalk p.1 p.2)
    ++ [execControlStrandEntry c, execHelperStart c, execMessageClaim c, execMessageArrival c 0, execWorkShipArrival c]
    ++ (s.domainsOf c).map (fun a => execRebase c a)
    ++ engineWork c
    ++ s.cleaning.map (fun x => execCleaningDone x.pool x.base)
    ++ s.transfers.map (fun x => execTransferPlacement x.obj)

/-- The first of some steps that changes the state. -/
def State.firstChange (s : State) : List (State → Out) → State
  | [] => s
  | f :: fs => match f s with
    | .next t => if t = s then s.firstChange fs else t
    | .fault _ => s.firstChange fs
    | .refused _ => s.firstChange fs

/-- What a cycle of a core comes to (log 1): a strand issues, else its loop replays, else a piece of its hardware's work is done. -/
def State.cycleOf (s : State) (c : Nat) : Turned :=
  match s.pickSlot c with
  | some _ => s.issueTurn c
  | none => match (s.claimLoop c).replaySlot c with
    | some _ => s.replayTurn c
    | none => .idle (if s.booted then s.firstChange (s.hardware c) else s)

end Sys2Proof.Machine
end

