-- ==== Sys2Proof/Machine/Step.lean ====
section
/-! DEFINITION. One step: the next turn of the agenda, or a cycle of the core in focus (log 1). -/

namespace Sys2Proof.Machine

/-- Execute what a turn of issue came to. -/
def State.perform (t : Turned) : Out :=
  match t with
  | .idle s => .next s
  | .run i s => exec i s

/-- The cycle in which an instruction has been executed ends before a step brings about what may answer it (R4). -/
def State.settled (s : State) : State :=
  if s.busy then s.cycles 1 else s

/-- A step of the agenda: one that names what does not exist, or an encoding, leaves the state unchanged (R8). -/
def State.event (i : Instr) (s : State) : Out :=
  if i.wf && i.isStep then exec i s.settled else .next s

/-- A core's turn of issue: within a cycle cores take their turns in rising order, so that a core below one that has issued in it issues in the
next (R222; log 1). -/
def State.inOrder (s : State) (c : Nat) : State :=
  if s.cores.any (fun k => decide (c < k.1) && k.2.slots.any (fun t => t.2.lastIssue == some s.time)) then s.cycles 1 else s

/-- What a core does next (log 1): an instruction is taken up again or a slot issues in the present cycle, if there is one; else the
next cycle begins. -/
def State.proceed (s : State) (c : Nat) : Turned :=
  if (s.running c && (s.redoSlot c).isSome) || (s.mayIssue c && (s.pickSlot c).isSome) then s.issueTurn c
  else (s.cycles 1).cycleOf c

/-- One step. -/
def step (s : State) : Host.Outcome State Fault Refusal :=
  match s.agenda with
  | [] => State.perform ((s.inOrder s.core).proceed s.core)
  | t :: ts =>
    let s := { s with agenda := ts }
    match t with
    | .event i => State.event i s
    | .issue c => State.perform ((s.inOrder c).issueTurn c)
    | .replay c => State.perform (s.replayTurn c)
    | .pass n => .next (s.cycles n)
    | .read fn off trusted => s.settled.readRegister fn off trusted
    | .clear i => match s.settled.turnedAway i with
      | some s' => .next s'
      | none => State.event i s
    | .unread core m => s.settled.runDecrypt core (some m)
    | .posted part => .next (s.settled.postedError part)
    | .manage q => .next (s.settled.answerManagement q)
    | .record r => .next (s.settled.replaceRecord r)

/-! ### A program placed where the next step fetches it (log 6) -/

/-- A CODE object of 64 KiB at virtual address 0, in HBM (R28, R219). -/
def placedCode : Obj := { Obj.free with gen := 1, level := 3, entKind := 1, pinned := true, length := 65536 }

/-- A control strand at the start of the placed code (R270 step 9). -/
def placedStrand : Slot := { Slot.vacant with state := .ready, opening := 0x010, code := mkCap 3 0 0 1 0 0 }

/-- The core's L1 lines that do not lie on the placed bytes. -/
def notPlaced (l : L1Line) : Bool := l.addr != hbmBase

/-- The slots with no issue in this cycle, and no instruction to take up again. -/
def rested (t : Nat × Slot) : Nat × Slot := (t.1, { t.2 with lastIssue := none, again := false })

/-- The state with a control strand of core 0 at an instruction, as a launch would leave it: booted, no agenda, the strand
next in rotation, its code object translated, its entry in the check cache and its first line in the instruction cache, and the instruction's bytes, then zeros, in memory. -/
def State.withFetchWord (s : State) (nbits w : Nat) : State :=
  let bs := if nbits = 16 then parcelBytes w ++ [0, 0] else wordBytes w
  let k := s.coreAt 0
  let core := { k with
    slots := putT (k.slots.map rested) 0 placedStrand, l1 := k.l1.filter notPlaced, last := 15, outOfService := false,
    tlb := ⟨0, 0, 65536, 0, 0⟩ :: k.tlb, checkCache := 0 :: k.checkCache, icache := (0, 0) :: k.icache, episode := false, loopSlot := none }
  { s with
    booted := true, agenda := [], core := 0, slot := 0, mem := Memory.write s.mem hbmBase bs,
    objs := putT s.objs 0 placedCode, ctxs := putT s.ctxs 0 ⟨0, 0, false, 1, 0⟩,
    domains := putT s.domains (domKey 0 0) Domain.fresh,
    clusters := putT s.clusters 0 { s.clusterAt 0 with power := 0, halted := false },
    cores := putT s.cores 0 core }

end Sys2Proof.Machine
end

