-- ==== Sys2Proof/Safety.lean ====
section
/-! DEFINITION. What claims are stated in: states in which an instruction runs undisturbed, what such a run leaves, and
what every step keeps. -/

namespace Sys2Proof.Machine

/-- The strand whose turn it is may issue, nothing waits at its boundary (R157, R290, R325), and the turn is no replay of a
vector loop (R180). -/
def State.calm (s : State) : Prop := s.cur.state = .ready ∧ s.cur.pend = .none ∧ s.replaying = false

/-- None of some registers of the strand is bound to a stream (R26). -/
def State.unbound (s : State) (ks : List CR) : Prop := ∀ k ∈ ks, s.cur.stream k.val = none

/-- The strand is in no redundant pair (R329). -/
def State.alone (s : State) : Prop := s.cur.pair = 0

/-- The instruction of n bytes has retired and has changed its own slot by f, and nothing else (R46). -/
def State.went (s : State) (n : Nat) (f : Slot → Slot) : State :=
  s.modCur (fun t => { (f t).setPc ((f t).pc + n) with retired := (f t).retired + 1, insn := 0, again := false })

/-- The instruction has retired with its strand at another pc of the same code object, and has changed its own slot by f, and
nothing else (R113). -/
def State.jumped (s : State) (pc : Nat) (f : Slot → Slot) : State :=
  s.modCur (fun t => { (f t).setPc pc with retired := (f t).retired + 1, insn := 0, again := false })

/-- Where a branch of n bytes leaves the machine (R113): at the next instruction when it is not taken, at pc + 2 × off when that
lies inside the code object, or frozen with CAP_BOUNDS and the target as its address. -/
def State.branched (s : State) (n : Nat) (taken : Bool) (off : Int) (f : Slot → Slot) : State :=
  let x : Int := s.cur.pc + 2 * off
  if taken = false then s.went n f
  else if 0 ≤ x ∧ x + 2 ≤ (s.objAt (objOf s.cur.code)).length then s.jumped x.toNat f
  else s.freeze { code := 0x04, arg := 5, addr := (x % 2 ^ 48).toNat }

/-- Bits 63:0 of a c register of the strand (R24). -/
def State.low (s : State) (k : CR) : BitVec 64 := (s.cur.reg k.val).val.setWidth 64

/-- All 128 bits of a c register of the strand. -/
def State.wide (s : State) (k : CR) : BitVec 128 := (s.cur.reg k.val).val

/-- An untagged register value: 64 bits, zero-extended (R24). -/
def word64 (x : BitVec 64) : CReg := ⟨x.setWidth 128, false⟩

/-- An untagged register value of 128 bits (R24). -/
def word128 (x : BitVec 128) : CReg := ⟨x, false⟩

/-- The conditions of R49 on two 64-bit values. -/
def condOn (c : Cond) (x y : BitVec 64) : Bool :=
  match c with
  | .eq => x == y
  | .ne => x != y
  | .lt => x.slt y
  | .ge => !x.slt y
  | .lo => x.ult y
  | .hs => !x.ult y

/-- The conditions of R49 on a 64-bit value against zero. -/
def condOnZero (c : CondZ) (x : BitVec 64) : Bool :=
  match c with
  | .eqz => x == 0
  | .nez => x != 0
  | .ltz => x.slt 0
  | .gez => !x.slt 0
  | .gtz => (0 : BitVec 64).slt x
  | .lez => !(0 : BitVec 64).slt x

/-- Every check of R33 up to step 8 passes for an access of n bytes at an offset through a capability: tag, form, permission, its
object's entry in the core's check cache, generation, bounds, alignment, no poison, and no transfer under way. -/
def State.passes (s : State) (op : Op) (c : CReg) (off : Int) (n align : Nat) : Prop :=
  let e := s.objAt (objOf c)
  let loc : Int := cursorOf c + off
  c.tag = true ∧ wellFormed c = true ∧ permit op c e.level (s.mayDebug c) false = none ∧ s.entryHere (objOf c) = true ∧
    genCurrent e (genOf c) = true ∧ 0 ≤ loc ∧ loc + n ≤ e.length ∧ loc.toNat % align = 0 ∧ e.poisoned = false ∧ e.transit = false

/-- Where a location of an object lies for the strand with no wait: in a local level, or on a page that the core's TLB holds
(R33 step 9, R35, R238). -/
def State.liesAt (s : State) (o loc a : Nat) : Prop :=
  let e := s.objAt o
  (e.level < 3 ∧ a = s.localAddr e loc) ∨
    (3 ≤ e.level ∧ ∃ t, tlbFind (s.coreAt s.core).tlb s.cur.asid (e.base + loc) = some t ∧ tgtSuits t.tgt e.level = true ∧
      a = t.page.flat (e.base + loc))

/-- A checked access of the strand makes no race (R131, R303). -/
def State.raceFree (s : State) (c : CReg) (loc a n : Nat) (write : Bool) : Prop :=
  isOwn c = false ∨ s.racesIn (s.party s.core s.slot) (objOf c) loc a n write = []

/-- The ranges (location, flat address, length) of n bytes of an object from a location as the strand reaches them with no wait:
one in a local level, one for each page in HBM (R33 step 9, R238). -/
def State.spanned (s : State) (o : Nat) : Nat → Nat → List (Nat × Nat × Nat) → Prop
  | _, n, [] => n = 0
  | loc, n, x :: xs => 0 < n ∧ x.1 = loc ∧ s.liesAt o loc x.2.1 ∧
      x.2.2 = (if (s.objAt o).level < 3 then n else min n (65536 - ((s.objAt o).base + loc) % 65536)) ∧
      s.spanned o (loc + x.2.2) (n - x.2.2) xs

/-- No access of a party to an object makes a race (R303). -/
def State.ordered (s : State) (p : Party) (o : Nat) : Prop := ∀ loc a w, s.raceAt p o loc a w = none

/-- How a command of a port has ended (R192): STATUS, COUNT, EVENTS, and the element of its own. -/
def State.outcome (s : State) (core port : Nat) (k : Cmd) : Option (Nat × Nat × Nat × Option CReg) :=
  (((s.coreAt core).port port).find? (fun x => x.asid == k.asid && x.seq == k.seq)).bind (fun x => x.done)

/-- No access of a command to an object through a capability makes a race: they are checked for an OWN only (R131, R191). -/
def State.quietFor (s : State) (core port : Nat) (k : Cmd) (c : CReg) : Prop :=
  isOwn c = false ∨ s.ordered (s.cmdParty core port k) (objOf c)

/-- The strand leaves the rotation at its instruction, which is to be taken up again, and nothing else changes but that a walk is asked
for (R20, R240). -/
def State.waits (s : State) (w : Wait) : State := (s.modCur (fun t => { t with state := .wait w, again := true })).askWalk s.core w

/-- The strand leaves the rotation with what its instruction has done kept, and nothing else changes (R20). -/
def State.parks (s : State) (w : Wait) : State := s.modCur (fun t => { t with state := .wait w })

/-- The strand's request for a pool waits no longer (R222). -/
def State.served (s : State) : State := { s with requests := s.requests.filter (fun r => r.2 != (s.core, s.slot)) }

/-- The bytes that a size code moves (R55). -/
def sizeBytes : Size → Nat
  | .b => 1 | .bz => 1 | .h => 2 | .hz => 2 | .w => 4 | .wz => 4 | .d => 8 | .q => 16

/-- The value that a load of a size delivers (R24, R55). -/
def loaded (z : Size) (bs : List Byte) : CReg :=
  let x := leNat bs
  match z with
  | .b => word64 ((BitVec.ofNat 8 x).signExtend 64)
  | .h => word64 ((BitVec.ofNat 16 x).signExtend 64)
  | .w => word64 ((BitVec.ofNat 32 x).signExtend 64)
  | .q => word128 (.ofNat 128 x)
  | .d => word64 (.ofNat 64 x)
  | .bz => word64 (.ofNat 64 x)
  | .hz => word64 (.ofNat 64 x)
  | .wz => word64 (.ofNat 64 x)

/-- The n low bytes of a register as a store lays them out (R45). -/
def laid (n : Nat) (v : CReg) : List (Option Byte) := (List.range n).map (fun j => some (v.val.extractLsb' (8 * j) 8))

/-- An access of n bytes at a location of an object that lies at a flat address, for a register of the strand. -/
def pending (cap own : Bool) (ext n dst obj loc a : Nat) : Access :=
  { cap := cap, own := own, kind := 0, dst := dst, ext := ext, size := n, pieces := (List.range n).map (fun j => (j, loc + j, a + j)),
    obj := obj, pops := [] }

/-- A store of the strand enters its store buffer (R131). -/
def State.stored (s : State) (t : Slot) (c : CReg) (loc a : Nat) (bs : List (Option Byte)) (cap : Option Bool) : Slot :=
  { t with sbuf := t.sbuf ++ [⟨objOf c, loc, a, bs, cap, clkAt t.clock s.slot, isOwn c⟩], wrote := putN t.wrote (objOf c) }

/-- A capability of one of some kinds passes steps 1 to 4, 7 and 8 of R33, with its object's entry in the core's check cache. -/
def State.usable (s : State) (c : CReg) (kinds : List Nat) : Prop :=
  let e := s.objAt (objOf c)
  c.tag = true ∧ wellFormed c = true ∧ kindOf c ∈ kinds ∧ engOnly c = false ∧ s.entryHere (objOf c) = true ∧
    genCurrent e (genOf c) = true ∧ e.poisoned = false ∧ e.transit = false

/-- A PORT of the strand passes the checks for a message of a class (R32, R153), and its destination is not stopped (R279). -/
def State.sendable (s : State) (c : CReg) (cls : Nat) : Prop :=
  c.tag = true ∧ wellFormed c = true ∧ s.portPerm c cls false = none ∧
    s.held_ (portDev c) (portTarget c) (portCtx c) = false

/-- The strand releases everything to a scope and ticks (R132, R297). -/
def State.announces (s : State) (sc : Scope) : State := (s.releaseAll s.core s.slot sc).tickAt s.core s.slot

/-- The strand's clock does not stand at its largest value when it releases (R307). -/
def State.mayTick (s : State) (sc : Scope) : Prop := (s.releaseAll s.core s.slot sc).mustRebase s.core s.slot = false

/-- The clock that the strand carries (R297). -/
def State.clockNow (s : State) : Carried := s.carry s.core s.cur.asid s.cur.clock

/-- The release of the strand at a word: its clock goes to the release table under the word (R147, R300). -/
def State.publish (s : State) (w : Nat) : State :=
  let t := s.announces .device
  t.tableRelease t.core t.cur.asid true w t.clockNow

/-- Bytes are written at a flat address, tags untouched. -/
def State.poked (s : State) (a : Nat) (bs : List Byte) : State := { s with mem := Memory.write s.mem a bs }

/-- The strand's request of an operation joins the deferred list of a word (R146). -/
def State.queued (s : State) (w op : Nat) : State :=
  { s with waiters := s.waiters ++ [⟨w, s.devOf s.cur.asid, s.core, s.slot, op, 0, CReg.zero, ⟨0, []⟩, 4⟩] }

/-- No outstanding command of the domain names an object, and no load of it awaits its reply (R191, R226). -/
def State.quiet (s : State) (o : Nat) : Prop :=
  s.anyCmd s.core s.cur.asid (fun k => k.names o) = false ∧ s.loading o = false

/-- The generation of an object is one higher: all capabilities of it before are stale (R22, R224). -/
def State.bumped (s : State) (o : Nat) : State := s.writeEntry o { s.objAt o with gen := (s.objAt o).gen + 1 }

/-- An instruction answers a next state with a property. -/
def Leads (o : Out) (p : State → Prop) : Prop := ∃ t, o = .next t ∧ p t

/-- No vector loop holds the vector unit of the core (R164, R180). -/
def State.vectorFree (s : State) : Prop := (s.coreAt s.core).loopSlot = none

/-- Lane i of width w of a v register (R27). -/
def laneOf (v : VReg) (w i : Nat) : BitVec w := v.extractLsb' (w * i) w

/-- Whether a lane is active under a predicate (R28). -/
def governs (p : PReg) (w i : Nat) : Bool := p.getLsbD (w * i / 8)

/-- The strand goes on with a v register whose active lanes are those of a function; its other lanes are the old ones
(R162). -/
def State.setsLanes (s : State) (i : Instr) (d : VR) (p : PR) (w : Nat) (f : Nat → BitVec w) : Prop :=
  Leads (exec i s) (fun t => t = s.went 4 (fun u => u.setV d.val (t.cur.vreg d.val)) ∧
    ∀ k < 256 / w, laneOf (t.cur.vreg d.val) w k =
      if governs (s.cur.preg p.val) w k then f k else laneOf (s.cur.vreg d.val) w k)

/-- The turn of a core goes to a slot (R19). -/
def State.choose (s : State) (c i : Nat) : State := { s with core := c, slot := i, ir := 0, replaying := false }

end Sys2Proof.Machine

namespace Sys2Proof

/-- A step that goes on to a next state with a property. -/
def GoesOn (s : Machine.State) (p : Machine.State → Prop) : Prop := Machine.Leads (Machine.step s) p

/-- An invariant that every step keeps. -/
def Kept (p : Machine.State → Prop) : Prop := ∀ s t, p s → Machine.step s = .next t → p t

end Sys2Proof
end

