-- ==== Sys2Proof/Certificates/Slice0/Obligations.lean ====
section
/-! DEFINITION. The statements for the provers. The names of states and values are those of Safety.lean; a docstring gives the
rules of the spec that a statement formalises. -/

open Sys2Proof Sys2Proof.Machine


/-- Words written out from the encoding tables decode to their instructions (R45, R47, R50, R51, R55, R60, R71). -/
def Obligations.WrittenWordsDecode : Prop :=
  -- add c3, c1, c2: 1 000000 00011 00001 00010 0000000000
  decode [0x30, 0x80, 0x00, 0x88] = .ok (.add 3 1 2, []) ∧
  -- addi c10, c0, 0 is 0x82A00000 (R105)
  decode [0xA0, 0x82, 0x00, 0x00] = .ok (.addi 10 0 0, []) ∧
  -- lk.s c7, 0xFFFE, 1 is 0x8E76FFFE (R108)
  decode [0x76, 0x8E, 0xFE, 0xFF] = .ok (.lkS 7 1 0xFFFE, []) ∧
  -- rdst c5, TAGS is 0xB2500020 (R121)
  decode [0x50, 0xB2, 0x20, 0x00] = .ok (.rdst 5 0x020, []) ∧
  -- yield is 0xB0004000 (R118), and what follows is left
  decode [0x00, 0xB0, 0x00, 0x40, 0x07] = .ok (.yield, [0x07]) ∧
  -- vadd.i8 v1, v2, v3, p0: 1 110110 00001 00010 00011 000 000 0000
  decode [0x11, 0xEC, 0x00, 0x0C] = .ok (.vadd 1 2 3 0 .i8, []) ∧
  -- c.nop is 0x7800 (R71)
  decode [0x00, 0x78] = .ok (.cNop, []) ∧
  -- c.add c2, c3: 0 0010 0010 0011 000
  decode [0x18, 0x11] = .ok (.cAdd 2 3, []) ∧
  -- major 0x0B is reserved (R50)
  decode [0x00, 0x96, 0x00, 0x00] = .error .reservedMajor

/-- Every well-formed instruction decodes from its own bytes (R45, R46, R47, R50, R51, R55, R57, R61, R63, R66, R71). -/
def Obligations.EncodingsDecodeBack : Prop :=
  ∀ (i : Instr) (bs rest : List Byte), i.wf = true → encode i = some bs → decode (bs ++ rest) = .ok (i, rest)

/-- A pattern that decodes is the pattern of the instruction it decodes to (R45, R46, R47, R50, R51, R55, R57, R61, R63, R66,
R71). -/
def Obligations.DecodedPatternsEncodeBack : Prop :=
  ∀ (len w : Nat) (i : Instr), (len = 2 ∧ w < 2 ^ 15 ∨ len = 4 ∧ 2 ^ 31 ≤ w ∧ w < 2 ^ 32) → decodePattern len w = .ok i →
    i.wf = true ∧ encodePattern i = some (len, w)

/-- A step runs the instruction that the fetched bytes decode to (R5, R19, R46, R112). -/
def Obligations.StepRunsDecodedInstruction : Prop :=
  ∀ (s : State) (i n w : Nat) (c : Ctx) (ins : Instr), s.agenda = [] → coreOk s.core = true →
    let issues (u : State) : Prop :=
      let v := u.choose s.core i
      u.redoSlot s.core = none → u.pickSlot s.core = some i → i ≠ 15 → u.mayIssue s.core = true →
      ((u.slotAt s.core i).region.bind (fun r => r.failed)) = none → fetch.run ⟨v, v, []⟩ = .ok ((n, w), c) → c.st.missing s.core i n = [] →
      decodePattern n w = .ok ins → c.st.cur.loop = none → Sys2Proof.Machine.step s = exec ins (c.st.fetched w)
    let resumes (u : State) : Prop :=
      u.redoSlot s.core = some i → u.running s.core = true → (u.slotAt s.core i).insn = w → (u.slotAt s.core i).loop = none →
      decodePattern (if w < 2 ^ 15 then 2 else 4) w = .ok ins →
      Sys2Proof.Machine.step s = exec ins { u.choose s.core i with ir := w, busy := true }
    let s' := s.inOrder s.core
    issues s' ∧ resumes s' ∧
    (s'.redoSlot s.core = none → s'.pickSlot s.core = none ∨ s'.mayIssue s.core = false → issues (s'.cycles 1))

/-- The register operations of major 0x00 write the results of R104 (R104). -/
def Obligations.RegisterOperationsResults : Prop :=
  ∀ (s : State) (d a b : CR) (c : Cond), s.calm → s.unbound [d, a, b] →
    let x := s.low a
    let y := s.low b
    let X := s.wide a
    let Y := s.wide b
    let sh := y.toNat % 64
    let gives (i : Instr) (r : CReg) : Prop := exec i s = .next (s.went 4 (fun t => t.setReg d.val r))
    gives (.add d a b) (word64 (x + y)) ∧ gives (.sub d a b) (word64 (x - y)) ∧
    gives (.and d a b) (word64 (x &&& y)) ∧ gives (.or d a b) (word64 (x ||| y)) ∧
    gives (.xor d a b) (word64 (x ^^^ y)) ∧ gives (.shl d a b) (word64 (x <<< sh)) ∧
    gives (.shr d a b) (word64 (x >>> sh)) ∧ gives (.sra d a b) (word64 (x.sshiftRight sh)) ∧
    gives (.min d a b) (word64 (if x.toInt ≤ y.toInt then x else y)) ∧
    gives (.max d a b) (word64 (if x.toInt ≤ y.toInt then y else x)) ∧
    gives (.minn d a b) (word64 (if x.toNat ≤ y.toNat then x else y)) ∧
    gives (.maxn d a b) (word64 (if x.toNat ≤ y.toNat then y else x)) ∧
    gives (.addQ d a b) (word128 (X + Y)) ∧ gives (.subQ d a b) (word128 (X - Y)) ∧
    gives (.andQ d a b) (word128 (X &&& Y)) ∧ gives (.orQ d a b) (word128 (X ||| Y)) ∧
    gives (.xorQ d a b) (word128 (X ^^^ Y)) ∧
    gives (.setCc d a b c) (word64 (if condOn c x y then 1 else 0))

/-- The immediate forms and the constant chunks write the results of R105 to R108 (R105, R106, R107, R108). -/
def Obligations.ImmediateOperationsResults : Prop :=
  ∀ (s : State) (d a : CR) (imm : BitVec 15) (sh : BitVec 6) (c : Cond) (k : BitVec 12) (pos : BitVec 2) (chunk : BitVec 16),
    s.calm → s.unbound [d, a] →
    let x := s.low a
    let up := 16 * pos.toNat
    let gives (i : Instr) (r : BitVec 64) : Prop := exec i s = .next (s.went 4 (fun t => t.setReg d.val (word64 r)))
    gives (.addi d a imm) (x + imm.signExtend 64) ∧ gives (.andi d a imm) (x &&& imm.signExtend 64) ∧
    gives (.ori d a imm) (x ||| imm.signExtend 64) ∧ gives (.xori d a imm) (x ^^^ imm.signExtend 64) ∧
    gives (.shli d a sh) (x <<< sh.toNat) ∧ gives (.shri d a sh) (x >>> sh.toNat) ∧
    gives (.srai d a sh) (x.sshiftRight sh.toNat) ∧ gives (.roli d a sh) (x.rotateLeft sh.toNat) ∧
    gives (.setiCc d a c k) (if condOn c x (k.signExtend 64) then 1 else 0) ∧
    gives (.lkZ d pos chunk) (chunk.setWidth 64 <<< up) ∧
    gives (.lkK d pos chunk) ((s.low d &&& ~~~((0xFFFF : BitVec 64) <<< up)) ||| (chunk.setWidth 64 <<< up)) ∧
    gives (.lkS d pos chunk) (chunk.signExtend 64 <<< up)

/-- Multiplication and division write the results of R109, at the edges too (R109). -/
def Obligations.MultiplyDivideResults : Prop :=
  ∀ (s : State) (d a b : CR), s.calm → s.unbound [d, a, b] →
    let x := s.low a
    let y := s.low b
    let signed := x.signExtend 128 * y.signExtend 128
    let plain_ := x.setWidth 128 * y.setWidth 128
    let gives (i : Instr) (r : CReg) : Prop := exec i s = .next (s.went 4 (fun t => t.setReg d.val r))
    gives (.mul d a b) (word64 (x * y)) ∧ gives (.mulh d a b) (word64 (signed.extractLsb' 64 64)) ∧
    gives (.mulhn d a b) (word64 (plain_.extractLsb' 64 64)) ∧
    gives (.div d a b) (word64 (if y = 0 then BitVec.allOnes 64 else x.sdiv y)) ∧
    gives (.divn d a b) (word64 (if y = 0 then BitVec.allOnes 64 else x / y)) ∧
    gives (.remS d a b) (word64 (if y = 0 then x else x.srem y)) ∧
    gives (.remn d a b) (word64 (if y = 0 then x else x % y)) ∧
    gives (.mulx d a b) (word128 signed) ∧ gives (.mulxn d a b) (word128 plain_)

/-- The bit operations write the results of R110 (R110). -/
def Obligations.BitOperationsResults : Prop :=
  ∀ (s : State) (d a b : CR), s.calm → s.unbound [d, a, b] →
    let x := s.low a
    let y := s.low b
    let pos := (y.extractLsb' 0 6).toNat
    let n := min (y.extractLsb' 8 7).toNat (64 - pos)
    let gives (i : Instr) (r : BitVec 64) : Prop := exec i s = .next (s.went 4 (fun t => t.setReg d.val (word64 r)))
    (∃ k, gives (.clz d a) (.ofNat 64 k) ∧ k ≤ 64 ∧ (∀ j, 64 - k ≤ j → x.getLsbD j = false) ∧
      (k < 64 → x.getLsbD (63 - k) = true)) ∧
    (∃ k, gives (.ctz d a) (.ofNat 64 k) ∧ k ≤ 64 ∧ (∀ j, j < k → x.getLsbD j = false) ∧ (k < 64 → x.getLsbD k = true)) ∧
    gives (.popc d a) (.ofNat 64 ((List.range 64).countP (fun j => x.getLsbD j))) ∧
    (∃ r, gives (.brev d a) r ∧ ∀ j, j < 64 → r.getLsbD j = x.getLsbD (63 - j)) ∧
    (∃ r, gives (.bswap d a) r ∧ ∀ j, j < 8 → r.extractLsb' (8 * j) 8 = x.extractLsb' (8 * (7 - j)) 8) ∧
    (∃ r, gives (.bext d a b) r ∧ ∀ j, j < 64 → r.getLsbD j = (decide (j < n) && x.getLsbD (pos + j))) ∧
    (∃ r, gives (.bins d a b) r ∧ ∀ j, j < 64 →
      r.getLsbD j = if pos ≤ j ∧ j < pos + n then x.getLsbD (j - pos) else (s.low d).getLsbD j) ∧
    gives (.andn d a b) (x &&& ~~~y)

/-- The compact arithmetic forms act as their expansions, on two bytes (R70, R71, R72). -/
def Obligations.CompactArithmeticResults : Prop :=
  ∀ (s : State) (d a : BitVec 4) (imm : BitVec 7), s.calm → s.unbound [cr4 d, cr4 a] →
    let x := s.low (cr4 d)
    let y := s.low (cr4 a)
    let gives (i : Instr) (r : BitVec 64) : Prop := exec i s = .next (s.went 2 (fun t => t.setReg d.toNat (word64 r)))
    gives (.cAddi d imm) (x + imm.signExtend 64) ∧ gives (.cMov d a) y ∧ gives (.cAdd d a) (x + y) ∧
    gives (.cSub d a) (x - y) ∧ gives (.cLi d imm) (imm.signExtend 64) ∧ exec .cNop s = .next (s.went 2 (fun t => t))

/-- Branches with an offset go to pc + 2 × offset inside the code object, or fault CAP_BOUNDS (R113, R114, R115, R117). -/
def Obligations.BranchesFollowTheirOffsets : Prop :=
  ∀ (s : State) (a b : CR) (c : Cond) (z : CondZ) (k25 : BitVec 25) (k17 : BitVec 17) (k12 : BitVec 12) (k11 : BitVec 11)
    (k8 : BitVec 8) (r : BitVec 3), s.calm → s.alone → s.unbound [a, b, cr3 r] →
    let link : CReg := ⟨s.cur.code.val.extractLsb' 48 80 ++ BitVec.ofNat 48 (s.cur.pc + 4), true⟩
    let count := s.low a - 1
    exec (.b k25) s = .next (s.branched 4 true k25.toInt (fun t => t)) ∧
    exec (.bl k25) s = .next (s.branched 4 true k25.toInt (fun t => t.setReg 31 link)) ∧
    exec (.bcc a b c k12) s = .next (s.branched 4 (condOn c (s.low a) (s.low b)) k12.toInt (fun t => t)) ∧
    exec (.bccz a z k17) s = .next (s.branched 4 (condOnZero z (s.low a)) k17.toInt (fun t => t)) ∧
    exec (.dbnz a k17) s = .next (s.branched 4 (count != 0) k17.toInt (fun t => t.setReg a.val (word64 count))) ∧
    exec (.cB k11) s = .next (s.branched 2 true k11.toInt (fun t => t)) ∧
    exec (.cBeqz r k8) s = .next (s.branched 2 (s.low (cr3 r) == 0) k8.toInt (fun t => t)) ∧
    exec (.cBnez r k8) s = .next (s.branched 2 (s.low (cr3 r) != 0) k8.toInt (fun t => t))

/-- br, brl and ret make the checked capability the code capability; brl leaves a link in c31 (R33, R112, R116). -/
def Obligations.CapabilityBranchesEnterTheirTarget : Prop :=
  ∀ (s : State) (a : CR) (x : Nat), s.calm → s.alone → s.unbound [a, 31] →
    let link : CReg := ⟨s.cur.code.val.extractLsb' 48 80 ++ BitVec.ofNat 48 (s.cur.pc + 4), true⟩
    let enters (i : Instr) (c : CReg) (f : Slot → Slot) : Prop :=
      s.passes .fetch c 0 2 2 → s.liesAt (objOf c) (cursorOf c) x →
        exec i s = .next (s.modCur (fun t =>
          { f t with code := c, retired := (f t).retired + 1, insn := 0, again := false }))
    let untagged (i : Instr) (k : CR) : Prop := (s.cur.reg k.val).tag = false →
      exec i s = .next (s.freeze { code := 0x02, arg := 1, reg := k.val })
    enters (.br a) (s.cur.reg a.val) (fun t => t) ∧ enters (.brl a) (s.cur.reg a.val) (fun t => t.setReg 31 link) ∧
    enters .ret (s.cur.reg 31) (fun t => t) ∧ enters .cRet (s.cur.reg 31) (fun t => t) ∧
    untagged (.br a) a ∧ untagged (.brl a) a ∧ untagged .ret 31 ∧ untagged .cRet 31

/-- addpc derives a CODE capability from the code capability of the strand (R111). -/
def Obligations.CodeAddressIsDerived : Prop :=
  ∀ (s : State) (d : CR) (k : BitVec 15), s.calm → s.alone → s.unbound [d] →
    (d ≠ 0 → exec (.addpc d k) s = .next (s.went 4 (fun t => t.setReg d.val
      ⟨t.code.val.extractLsb' 48 80 ++ (t.code.val.setWidth 48 + k.signExtend 48 + k.signExtend 48), true⟩))) ∧
    (d = 0 → exec (.addpc d k) s = .next (s.freeze { code := 0x01 }))

/-- nop and yield change no register; trap, brk and illegal patterns freeze; end vacates the slot (R118, R119, R120, R68, R69,
R298). -/
def Obligations.StrandControlEffects : Prop :=
  ∀ (s : State) (k : BitVec 12) (w : BitVec 32) (compact : Bool), s.calm → s.alone →
    let cl := s.clusterAt (clusterOf s.core)
    exec .nop s = .next (s.went 4 (fun t => t)) ∧
    exec .yield s = .next (s.went 4 (fun t => { t with yielded := true })) ∧
    exec (.trap k) s = .next (s.freeze { code := 0x17, arg := k.toNat }) ∧
    ((cl.arm && cl.onBreak) = false → exec (.brk k) s = .next (s.freeze { code := 0x18, arg := k.toNat })) ∧
    exec (.illegal w compact) s = .next (s.freeze { code := 0x01 }) ∧
    (s.cur.frame = none → s.cur.region = none → s.cur.sbuf = [] → s.cur.wrote = [] →
      (∀ p ∈ s.cur.c, (if s.cur.kind = 1 then 2 else 1) ≤ p.1 → isShade p.2 = false) → s.mustRebase s.core s.slot = false →
      ∃ t, exec .endStrand s = .next t ∧ t.cur = s.cur.emptied ∧ t.core = s.core ∧ t.slot = s.slot ∧
        (s.cur.kind = 1 → s.hasDom s.core s.cur.asid = true → ∀ h ∈ s.dom.handles, h.serial = s.cur.serial →
          ∃ g ∈ (t.domAt s.core s.cur.asid).handles, g.serial = h.serial ∧ ∃ x, g.ended = some (s.cur.reg 1, x)))

/-- rdst, rdcnt and clock read the state registers, the counters and the time (R39, R40, R41, R42, R44, R87, R88, R121, R122,
R295, R310). -/
def Obligations.StateRegistersRead : Prop :=
  ∀ (s : State) (d : CR) (n : BitVec 12), s.calm → s.alone → s.unbound [d] →
    let t := s.cur
    let m := s.dom
    let gives (i : Instr) (r : CReg) : Prop := exec i s = .next (s.went 4 (fun t => t.setReg d.val r))
    let reads (k : BitVec 12) (x : Nat) : Prop := gives (.rdst d k) (word64 (.ofNat 64 x))
    reads 0x000 (t.pair % 4 * 64 + t.kind % 4 * 16 + s.slot) ∧
    reads 0x001 (m.supv.toNat * 2 ^ 18 + m.part % 64 * 2 ^ 12 + t.asid % 4096) ∧
    reads 0x002 s.core ∧
    reads 0x003 (s.phys % 2 ^ 16 * 2 ^ 16 + s.jobDev m.part % 2 ^ 16) ∧
    gives (.rdst d 0x010) (word64 t.fpmode) ∧ gives (.rdst d 0x011) (word64 t.fpflags) ∧
    gives (.rdst d 0x020) (word64 m.tags) ∧
    reads 0x030 (m.epoch % 4 * 64 + m.loss.toNat * 16 + m.mode % 4) ∧
    reads 0x031 (clkAt t.clock s.slot) ∧
    gives (.rdst d 0x040) (word128 m.groups) ∧
    gives (.rdst d 0x050) (word64 t.seed) ∧
    reads 0x060 ((s.partAt m.part).tenantOnly.toNat * 2 + m.scopeClip.toNat) ∧
    reads 0x070 s.time ∧
    (n.toNat ∉ [0x000, 0x001, 0x002, 0x003, 0x010, 0x011, 0x020, 0x030, 0x031, 0x040, 0x050, 0x060, 0x070] →
      exec (.rdst d n) s = .next (s.freeze { code := 0x01 })) ∧
    gives (.rdcnt d n) (word64 (.ofNat 64 (s.readCounter n.toNat))) ∧
    (0x143 ≤ n.toNat → s.readCounter n.toNat = 0x8000000000000000) ∧
    gives (.clock d) (word64 (.ofNat 64 (t.lastIssue.getD s.time)))

/-- wrst, setst and clrst act on each field of a state register by its access code (R39, R87, R121). -/
def Obligations.StateRegistersWrite : Prop :=
  ∀ (s : State) (a : CR) (n : BitVec 12), s.calm → s.alone → s.unbound [a] →
    let v := s.low a
    let forms : List ((CR → BitVec 12 → Instr) × (BitVec 64 → BitVec 64) × BitVec 64) :=
      [(.wrst, fun _ => v, v), (.setst, fun x => x ||| v, v), (.clrst, fun x => x &&& ~~~v, 0)]
    ∀ f ∈ forms,
      (f.2.1 s.cur.fpmode &&& 7 ≤ 4 → v.getLsbD 4 = false →
        exec (f.1 a 0x010) s = .next (s.went 4 (fun t => { t with fpmode := f.2.1 t.fpmode &&& 0x77 }))) ∧
      (4 < f.2.1 s.cur.fpmode &&& 7 → exec (f.1 a 0x010) s = .next (s.freeze { code := 0x01 })) ∧
      exec (f.1 a 0x011) s = .next (s.went 4 (fun t => { t with fpflags := f.2.1 t.fpflags &&& 0x7F })) ∧
      exec (f.1 a 0x020) s = .next ((s.modCurDom (fun d =>
        let gone := f.2.2 &&& ~~~d.won s.time
        { d with tags := d.tags &&& ~~~gone, tagClks := d.tagClks.filter (fun p => !gone.getLsbD p.1) })).went 4 (fun t => t)) ∧
      exec (f.1 a 0x030) s = .next ((s.modCurDom (fun d =>
        let m := (f.2.1 (.ofNat 64 d.mode)).toNat % 4
        { d with mode := if m = 3 then d.mode else m, loss := d.loss && (d.wins s.time 64 || !f.2.2.getLsbD 4) })).went 4 (fun t => t)) ∧
      exec (f.1 a 0x050) s = .next (s.went 4 (fun t => { t with seed := f.2.1 t.seed })) ∧
      exec (f.1 a 0x060) s =
        .next ((s.modCurDom (fun d => { d with scopeClip := d.scopeClip && (d.wins s.time 65 || !f.2.2.getLsbD 0) })).went 4 (fun t => t)) ∧
      (n.toNat ∈ [0x000, 0x001, 0x002, 0x003, 0x031, 0x040, 0x070] → exec (f.1 a n) s = .next (s.went 4 (fun t => t))) ∧
      (n.toNat ∉ [0x000, 0x001, 0x002, 0x003, 0x010, 0x011, 0x020, 0x030, 0x031, 0x040, 0x050, 0x060, 0x070] →
        exec (f.1 a n) s = .next (s.freeze { code := 0x01 }))

/-- rmt.begin checkpoints, rmt.commit closes a region with nothing buffered, rmt.abort rolls back (R123, R124, R126, R127,
R128). -/
def Obligations.RemoteRegionsOpenAndClose : Prop :=
  ∀ (s : State) (e : CR) (k : BitVec 17), s.calm → s.alone → s.unbound [e] →
    (s.cur.region = none →
      exec (.rmtBegin e k) s = .next (s.went 4 (fun t =>
        ({ t with region := some ⟨t.c, t.p, t.code, t.insn, t.fpmode, t.fpflags, t.seed, t.pc + 2 * k.toInt, e.val, [], none, none⟩ }
          : Slot).setReg e.val (word64 0))) ∧
      exec (.rmtCommit e) s = .next (s.went 4 (fun t => t.setReg e.val (word64 0))) ∧
      exec .rmtAbort s = .next (s.went 4 (fun t => t))) ∧
    (∀ r, s.cur.region = some r →
      (r.buf = [] → r.commit.bind (fun k => k.status) = none → s.cur.sbuf = [] → s.owesRemote s.core s.cur.born = false → exec (.rmtCommit e) s =
        .next (s.went 4 (fun t => ({ t with region := none } : Slot).setReg e.val (word64 0)))) ∧
      (0 ≤ r.target → r.target + 2 ≤ (s.objAt (objOf r.code)).length →
        exec .rmtAbort s = .next (s.modCur (fun t =>
          let regs := if r.e = 0 then r.c else putT r.c r.e (word64 7)
          ({ t with c := regs, p := r.p, code := r.code, fpmode := r.fpmode, fpflags := r.fpflags, seed := r.seed, region := none, state := .ready,
                    retired := t.retired + 1, insn := 0, again := false } : Slot).setPc r.target.toNat))))

/-- A checked load delivers its bytes, extended, or leaves the rotation until its reply (R24, R55, R71, R131, R133, R135). -/
def Obligations.LoadsDeliverOrWait : Prop :=
  ∀ (s : State) (d a b : CR) (z : Size) (off : BitVec 12) (sc : Fin 5) (r q : BitVec 3) (k : BitVec 5) (m : BitVec 6),
    s.calm → s.alone → s.unbound [d, a, b, cr3 r, cr3 q, 29] →
    let loads (i : Instr) (n : Nat) (d : CR) (c : CReg) (x : Int) (z : Size) : Prop :=
      ∀ y, s.passes .load c x (sizeBytes z) (sizeBytes z) → kindOf c ≠ 6 → s.liesAt (objOf c) (cursorOf c + x).toNat y →
        s.raceFree c (cursorOf c + x).toNat y (sizeBytes z) false →
        if s.atHand s.core (objOf c) y (sizeBytes z) = true
        then exec i s = .next (s.went n (fun t =>
          t.setReg d.val (loaded z (s.seen s.core s.slot (objOf c) y (sizeBytes z)))))
        else exec i s = .next (s.parks
          (.reply (pending false (isOwn c) (Size.load z).2 (sizeBytes z) d.val (objOf c) (cursorOf c + x).toNat y) n))
    loads (.ld d a z off) 4 d (s.cur.reg a.val) off.toInt z ∧
    loads (.ldx d a b z sc) 4 d (s.cur.reg a.val) ((s.low b).toInt * 2 ^ sc.val) z ∧
    loads (.cLdD r q k) 2 (cr3 r) (s.cur.reg (cr3 q).val) (8 * k.toNat) .d ∧
    loads (.cLdW r q k) 2 (cr3 r) (s.cur.reg (cr3 q).val) (4 * k.toNat) .w ∧
    loads (.cLdsp d m) 2 d (s.cur.reg 29) (8 * m.toNat) .d

/-- A checked store enters the store buffer with its bytes and retires; a full buffer waits (R45, R71, R131, R133, R135). -/
def Obligations.StoresEnterTheStoreBuffer : Prop :=
  ∀ (s : State) (d a b : CR) (z : Size) (off : BitVec 12) (sc : Fin 5) (r q : BitVec 3) (k : BitVec 5) (m : BitVec 6),
    s.calm → s.alone → s.unbound [d, a, b, cr3 r, cr3 q, 29] →
    let stores (i : Instr) (n : Nat) (v c : CReg) (x : Int) (w : Nat) : Prop :=
      ∀ y, s.passes .store c x w w → kindOf c ≠ 6 → (s.objAt (objOf c)).ptab = false →
        s.liesAt (objOf c) (cursorOf c + x).toNat y → s.lineDue (isOwn c) (objOf c) (cursorOf c + x).toNat y w = none →
        s.raceFree c (cursorOf c + x).toNat y w true →
        if s.cur.sbuf.length < 8
        then exec i s = .next (s.went n (fun t => s.stored t c (cursorOf c + x).toNat y (laid w v) none))
        else exec i s = .next (s.waits .stores)
    stores (.st d a z off) 4 (s.cur.reg d.val) (s.cur.reg a.val) off.toInt (sizeBytes z) ∧
    stores (.stx d a b z sc) 4 (s.cur.reg d.val) (s.cur.reg a.val) ((s.low b).toInt * 2 ^ sc.val) (sizeBytes z) ∧
    stores (.cStD r q k) 2 (s.cur.reg (cr3 r).val) (s.cur.reg (cr3 q).val) (8 * k.toNat) 8 ∧
    stores (.cStW r q k) 2 (s.cur.reg (cr3 r).val) (s.cur.reg (cr3 q).val) (4 * k.toNat) 4 ∧
    stores (.cStsp d m) 2 (s.cur.reg d.val) (s.cur.reg 29) (8 * m.toNat) 8

/-- ldc loads a granule with its tag, moving a SHADE out; stc stores one, moving a SHADE in (R30, R31, R36, R130, R131, R134).
-/
def Obligations.CapabilityLoadsAndStores : Prop :=
  ∀ (s : State) (d a : CR) (off : BitVec 12) (x : Nat), s.calm → s.alone → s.cur.held = [] → s.unbound [d, a] →
    let c := s.cur.reg a.val
    let v := s.cur.reg d.val
    let o := objOf c
    let loc := (cursorOf c + off.toInt).toNat
    let g := s.granuleSeen s.core o x
    let own := (s.party s.core s.slot)
    (d = 0 → exec (.ldc d a off) s = .next (s.freeze { code := 0x01 })) ∧
    (d ≠ 0 → s.passes .capLoad c off.toInt 16 16 → kindOf c ≠ 6 → s.liesAt o loc x → s.cur.sbuf = [] →
      s.raceFree c loc x 16 false → s.raceFree c loc x 16 true →
      (s.atHand s.core o x 16 = true → isShade g = false →
        exec (.ldc d a off) s = .next (s.went 4 (fun t => t.setReg d.val g))) ∧
      (s.atHand s.core o x 16 = true → isShade g = true → isOwn c = true →
        exec (.ldc d a off) s = .next ((((s.zeroGranule s.core o x).modCur (fun t => { t with wrote := putN t.wrote o })).recordWrite
          own o loc x 16 (clkAt s.cur.clock s.slot)).went 4 (fun t => t.setReg d.val g))) ∧
      (s.atHand s.core o x 16 = true → isShade g = true → isOwn c = false →
        exec (.ldc d a off) s = .next (s.freeze { code := 0x06, arg := 3, reg := a.val })) ∧
      (s.atHand s.core o x 16 = false → exec (.ldc d a off) s =
        .next (s.parks (.reply (pending true (isOwn c) (isOwn c).toNat 16 d.val o loc x) 4)))) ∧
    (s.passes .capStore c off.toInt 16 16 → kindOf c ≠ 6 → (s.objAt o).ptab = false → s.liesAt o loc x →
      s.lineDue (isOwn c) o loc x 16 = none → s.raceFree c loc x 16 true → s.cur.sbuf.length < 8 →
      (v.tag = false ∨ noSend v = false ∨ s.takesNoSend c off.toInt = true →
        exec (.stc d a off) s = .next (s.went 4 (fun t =>
          let t := s.stored t c loc x (laid 16 v) (some v.tag)
          if isShade v then t.setReg d.val CReg.zero else t))) ∧
      (v.tag = true → noSend v = true → s.takesNoSend c off.toInt = false →
        exec (.stc d a off) s = .next (s.freeze { code := 0x06, arg := 3, reg := d.val })))

/-- The first check of R33 that fails gives the fault of a load, with its step and register (R33, R69, R131, R322). -/
def Obligations.CapabilityChecksInOrder : Prop :=
  ∀ (s : State) (d a : CR) (z : Size) (off : BitVec 12), s.calm → s.alone → s.unbound [d, a] →
    let c := s.cur.reg a.val
    let e := s.objAt (objOf c)
    let loc : Int := cursorOf c + off.toInt
    let addr := (loc % 2 ^ 48).toNat
    let fails (code step addr : Nat) : Prop := exec (.ld d a z off) s =
      .next (s.freeze { code := code, arg := step, reg := a.val, addr := addr })
    let refused := permit .load c e.level (s.mayDebug c) false
    s.remoteAccess c = false →
    (c.tag = false → fails 0x02 1 0) ∧
    (c.tag = true → (wellFormed c = false → fails 0x03 2 0) ∧
    (wellFormed c = true → (∀ code, refused = some code → fails code (if code = 0x1D then 0 else 3) 0) ∧
    (refused = none → (s.entryHere (objOf c) = false → exec (.ld d a z off) s = .next (s.waits (.check (objOf c)))) ∧
    (s.entryHere (objOf c) = true → (genCurrent e (genOf c) = false → fails 0x05 4 0) ∧
    (genCurrent e (genOf c) = true → (loc < 0 ∨ e.length < loc + sizeBytes z → fails 0x04 5 addr) ∧
    (0 ≤ loc → loc + sizeBytes z ≤ e.length → (loc.toNat % sizeBytes z ≠ 0 → fails 0x08 6 addr) ∧
    (loc.toNat % sizeBytes z = 0 → (e.poisoned = true → fails 0x1A 7 addr) ∧
    (e.poisoned = false → e.transit = true → exec (.ld d a z off) s = .next (s.waits (.transit (objOf c)))))))))))

/-- The reply of a load writes its register and retires the instruction (R20, R131, R133). -/
def Obligations.LoadRepliesDeliver : Prop :=
  ∀ (s : State) (i n : Nat) (z : Size) (d : CR) (o loc a : Nat) (own : Bool), s.slot = i → s.replaying = false →
    s.cur.state = .wait (.reply (pending false own (Size.load z).2 (sizeBytes z) d.val o loc a) 4) →
    own = false ∨ s.ordered (s.party s.core i) o → s.cur.pend = .none → s.alone →
    s.unbound [d] → (s.objAt o).level < 2 → s.waiters = [] → s.cur.frame = none →
    exec (.loadReply s.core i .level) s = .next (s.went 4 (fun t =>
      ({ t with state := .ready } : Slot).setReg d.val (loaded z (s.seen s.core i o a (sizeBytes z))))) ∧
    ((s.modSlot s.core i (fun t => { t with state := .ready })).loading o = false → Leads (exec (.loadReply s.core i (.ecc n)) s) (fun t => t.cur.state = .frozen ∧ t.cur.lastCode = 0x0A ∧ t.cur.c = s.cur.c ∧
      t.cur.code = s.cur.code ∧ (t.objAt o).poisoned = true))

/-- A store that drains writes the bytes that it enabled at its address, and no other byte of memory changes (R36, R131, R241,
R250, R255). -/
def Obligations.StoreDrainWritesItsBytesOnly : Prop :=
  ∀ (s : State) (c i x : Nat) (e : StoreEntry) (rest : List StoreEntry), (s.slotAt c i).state = .ready →
    let o := s.objAt e.obj
    let inside := e.addr ≤ x ∧ x < e.addr + e.bytes.length
    let byte (old : Byte) : Byte := if inside then ((e.bytes[x - e.addr]?).join).getD old else old
    ((s.slotAt c i).sbuf = [] → exec (.storeDrain c i) s = .next s) ∧
    ((s.slotAt c i).sbuf = e :: rest →
      (Memory.wf s.mem = true → o.level < 2 → o.ptab = false → e.addr < hostBase → e.cap = none → Leads (exec (.storeDrain c i) s) (fun t =>
        (t.slotAt c i).sbuf = rest ∧ (t.slotAt c i).c = (s.slotAt c i).c ∧
        Memory.get t.mem x = byte (Memory.get s.mem x) ∧
        t.tagAt x = (s.tagAt x && !(List.range e.bytes.length).any (fun j =>
          ((e.bytes[j]?).join).isSome && (e.addr + j) / 16 == x / 16)))) ∧
      (Memory.wf s.mem = true → o.level < 2 → o.ptab = false → e.addr < hostBase → e.cap = some true → e.bytes.length = 16 → e.addr % 16 = 0 →
        Leads (exec (.storeDrain c i) s) (fun t => Memory.get t.mem x = byte (Memory.get s.mem x) ∧
          t.tagAt x = if inside then true else s.tagAt x)) ∧
      (o.level = 2 ∨ o.level = 3 → o.ptab = false → e.addr < hostBase → 0 < e.bytes.length →
        e.addr % 64 + e.bytes.length ≤ 64 → ∀ l, (s.coreAt c).l1Hit e.obj e.addr = some l → l.addr % 64 = 0 →
        Leads (exec (.storeDrain c i) s) (fun t => (t.slotAt c i).sbuf = rest ∧ t.mem = s.mem ∧
          (e.addr / 64 * 64 ≤ x → x < e.addr / 64 * 64 + 64 →
            t.byteAt c e.obj o.level x = byte (s.byteAt c e.obj o.level x)))) ∧
      (o.level = 3 → o.ptab = true → e.addr < hostBase → s.translated e.obj = false → Leads (exec (.storeDrain c i) s) (fun t =>
        ∀ p ∈ (t.coreAt x).tlb, ∀ r, lookT t.ctxs p.asid = some r → r.ptab ≠ e.obj))) ∧
    (∀ failed, s.hostBuf = [] → exec (.hostLineDrain failed) s = .next s) ∧
    (∀ l ls, s.hostBuf = l :: ls → Leads (exec (.hostLineDrain true) s) (fun t => t.hostBuf = ls ∧ t.mem = s.mem ∧ t.cores = s.cores)) ∧
    (∀ l ls, s.hostBuf = l :: ls → exec (.hostLineDrain false) s = .next { s with
      hostBuf := ls, mem := Memory.writeSome s.mem (hostBase + l.addr) l.bytes, out := s.out ++ [.hostWrite l.addr l.bytes] })

/-- sbind binds a register to a stream; operands pop and results append; sunbind drains and clears it (R26, R33, R69, R103,
R131, R136, R137). -/
def Obligations.StreamsBindPopAppendAndEnd : Prop :=
  ∀ (s : State) (k a b : CR) (out : Bool) (e : Fin 5), s.calm → s.alone → s.cur.held = [] →
    let c := s.cur.reg a.val
    let x := s.low b
    let n : Nat := 2 ^ e.val
    let bound : Stream := { out := out, esize := n, cap := c, count := (x.extractLsb' 40 24).toNat,
                            stride := (x.extractLsb' 0 32).toInt, pos := 0, ahead := [] }
    let before := (s.cur.stream k.val).isSome
    let drained := s.drain s.core s.slot
    let cleared (t : Slot) : Slot := ({ t with streams := dropT t.streams k.val } : Slot).setReg k.val CReg.zero
    (s.unbound [a, b] →
      (x.extractLsb' 32 8 ≠ 0 → exec (.sbind k a b out e) s = .next (s.freeze { code := 0x01 })) ∧
      (x.extractLsb' 32 8 = 0 → c.tag = true → wellFormed c = true →
        permit (if out then .streamOut else .streamIn) c (s.objAt (objOf c)).level s.dom.supv false = none →
        s.entryHere (objOf c) = true → genCurrent (s.objAt (objOf c)) (genOf c) = true →
        (cursorOf c % n ≠ 0 ∨ (x.extractLsb' 0 32).toInt % n ≠ 0 →
          exec (.sbind k a b out e) s = .next (s.freeze { code := 0x08, arg := 6, reg := a.val, addr := cursorOf c })) ∧
        (cursorOf c % n = 0 → (x.extractLsb' 0 32).toInt % n = 0 →
          exec (.sbind k a b out e) s = .next ((if before then drained else s).went 4 (fun t =>
            let t := if before then cleared t else t
            { t with streams := putT t.streams k.val bound }))))) ∧
    (∀ q, s.cur.stream a.val = some q →
      (q.out = true → exec (.add k a b) s = .next (s.freeze { code := 0x01 })) ∧
      (∀ v, q.out = false → q.pos < q.count → lookT q.ahead q.pos = some (v, []) → s.unbound [k] →
        s.passes .streamIn q.cap (q.pos * q.stride) q.esize q.esize →
        exec (.add k a a) s = .next (s.went 4 (fun t =>
          ({ t with streams := putT t.streams a.val { q with pos := q.pos + 1, ahead := dropT q.ahead q.pos } } : Slot).setReg k.val
            (word64 (v.val.setWidth 64 + v.val.setWidth 64)))))) ∧
    (∀ q, s.cur.stream k.val = some q → s.unbound [a, b] →
      (q.out = false → k ≠ a → k ≠ b → exec (.add k a b) s = .next (s.freeze { code := 0x01 })) ∧
      (∀ y, q.out = true → q.pos < q.count → s.passes .streamOut q.cap (q.pos * q.stride) q.esize q.esize →
        let loc := (cursorOf q.cap + q.pos * q.stride).toNat
        s.liesAt (objOf q.cap) loc y → s.lineDue true (objOf q.cap) loc y q.esize = none → s.raceFree q.cap loc y q.esize true →
        s.cur.sbuf.length < 8 →
        let bs := (leBytes q.esize (s.low a + s.low b).toNat).map some
        exec (.add k a b) s = .next (s.went 4 (fun t =>
          let t := s.stored t q.cap loc y bs none
          { t with streams := putT t.streams k.val { q with pos := q.pos + 1 } })))) ∧
    exec (.sunbind k) s = .next (drained.went 4 cleared)

/-- cget, ctest, cset, cinc and cview read and adjust capability fields (R29, R130, R144, R145). -/
def Obligations.CapabilityFieldsReadAndAdjust : Prop :=
  ∀ (s : State) (d a b : CR), s.calm → s.alone → s.unbound [d, a, b] →
    let c := s.cur.reg a.val
    let e := s.objAt (objOf c)
    let v := c.val
    let y : Int := cursorOf c + (s.low b).toInt
    let reads (f : Field) (x : Nat) : Prop := exec (.cget d a f) s = .next (s.went 4 (fun t => t.setReg d.val (word64 (.ofNat 64 x))))
    let frac := (v.extractLsb' 104 16).toNat
    let faults (i : Instr) (code step : Nat) : Prop := exec i s = .next (s.freeze { code := code, arg := step, reg := a.val })
    let moves (i : Instr) (x : Quad) : Prop := exec i s = .next (s.went 4 (fun t =>
      (if isShade c ∧ d ≠ a then t.setReg a.val CReg.zero else t).setReg d.val ⟨x, c.tag⟩))
    let cursor (x : BitVec 48) : Quad := v.extractLsb' 48 80 ++ x
    reads .kind (v.extractLsb' 124 4).toNat ∧ reads .rbits (v.extractLsb' 121 3).toNat ∧
    reads .frac (if v.extractLsb' 124 4 = 1 then (if frac = 0 then 65536 else frac) else 0) ∧
    reads .gen (v.extractLsb' 88 16).toNat ∧ reads .objid (v.extractLsb' 60 28).toNat ∧
    reads .cursor (v.extractLsb' 0 48).toNat ∧
    (c.tag = true → wellFormed c = true → kindOf c ≠ 7 → kindOf c ≠ 4 → engOnly c = false → s.entryHere (objOf c) = true → genCurrent e (genOf c) = true →
      reads .length e.length ∧ reads .level e.level) ∧
    (c.tag = false → faults (.cget d a .length) 0x02 1 ∧ faults (.cget d a .level) 0x02 1) ∧
    (c.tag = true → wellFormed c = true → engOnly c = true → faults (.cget d a .length) 0x06 3 ∧ faults (.cget d a .level) 0x06 3) ∧
    exec (.ctest d a) s = .next (s.went 4 (fun t => t.setReg d.val (word64 (.ofNat 64 (
      if c.tag = false then 0 else if wellFormed c = false then 1 else if kindOf c = 7 then 31
      else 3 + 4 * (genCurrent e (genOf c)).toNat + 8 * (!e.poisoned).toNat + 16 * (!e.transit).toNat))))) ∧
    (d = 0 → exec (.cset d a b .cursor) s = .next (s.freeze { code := 0x01 }) ∧
      exec (.cinc d a b) s = .next (s.freeze { code := 0x01 }) ∧ exec (.cview d a b) s = .next (s.freeze { code := 0x01 })) ∧
    (d ≠ 0 → c.tag = false → faults (.cset d a b .cursor) 0x02 1 ∧ faults (.cset d a b .rbits) 0x02 1 ∧
      faults (.cinc d a b) 0x02 1 ∧ faults (.cview d a b) 0x02 1) ∧
    (d ≠ 0 → c.tag = true → wellFormed c = true → engOnly c = true → faults (.cset d a b .cursor) 0x06 3 ∧
      faults (.cset d a b .rbits) 0x06 3 ∧ faults (.cinc d a b) 0x06 3) ∧
    (d ≠ 0 → c.tag = true → wellFormed c = true → engOnly c = false →
      moves (.cset d a b .rbits) (v ||| (((s.low b).extractLsb' 0 3).setWidth 128 <<< 121)) ∧
      (kindOf c ≠ 4 → kindOf c ≠ 7 → moves (.cset d a b .cursor) (cursor ((s.low b).setWidth 48)) ∧
        moves (.cinc d a b) (cursor (v.setWidth 48 + (s.low b).setWidth 48))) ∧
      (kindOf c = 4 ∨ kindOf c = 7 → faults (.cset d a b .cursor) 0x06 3 ∧ faults (.cinc d a b) 0x06 3)) ∧
    (d ≠ 0 → s.usable c [0] →
      (0 ≤ y → y ≤ e.length → exec (.cview d a b) s = .next (s.went 4 (fun t =>
        t.setReg d.val ⟨cursor (.ofInt 48 y) ||| (1 <<< 123), true⟩))) ∧
      (y < 0 ∨ e.length < y → exec (.cview d a b) s =
        .next (s.freeze { code := 0x04, arg := 5, reg := a.val, addr := (y % 2 ^ 48).toNat })))

/-- alloc makes a zeroed object with an OWN; free and creclaim bump the generation of theirs; each completes, past its
instruction (R22, R138, R139, R140, R222, R224). -/
def Obligations.ObjectsAllocateFreeReclaim : Prop :=
  ∀ (s : State) (d a b : CR), s.calm → s.alone → s.unbound [d, a, b] →
    let c := s.cur.reg a.val
    let o := objOf c
    let e := s.objAt o
    let n := (s.low b).toNat
    let top := if e.level < 2 then 2 ^ 18 else if e.level = 2 then 2 ^ 23 else 2 ^ 40
    let fits := 1 ≤ n ∧ n ≤ top ∧ (e.level = 1 → n % 128 = 0)
    let past (t : State) : Prop := t.cur.pc = (s.cur.pc + 4) % 2 ^ 48 ∧ t.cur.retired = s.cur.retired + 1 ∧ t.cur.state = .ready
    (d = 0 → exec (.alloc d a b) s = .next (s.freeze { code := 0x01 }) ∧
      exec (.creclaim d a) s = .next (s.freeze { code := 0x01 })) ∧
    (d ≠ 0 → s.usable c [4] →
      (¬fits → exec (.alloc d a b) s = .next (s.freeze { code := 0x04, arg := 5, reg := a.val })) ∧
      (fits → s.requestsBefore o s.core s.slot ≠ [] →
        exec (.alloc d a b) s = .next ((s.request o s.core s.slot).waits (.cleaning o))) ∧
      (fits → s.requestsBefore o s.core s.slot = [] →
        (∀ base, s.room o n true = some base →
          (∀ m, s.pickEntry s.dom.part 65535 = some m → exec (.alloc d a b) s =
            .next ((((s.served).makeObj m o base n s.core s.cur.asid 65536).drawn).went 4 (fun t =>
              t.setReg d.val (mkCap 0 (rbitsOf c) 0 (s.objAt m).gen m 0)))) ∧
          (s.pickEntry s.dom.part 65535 = none →
            exec (.alloc d a b) s = .next ((s.served).went 4 (fun t => t.setReg d.val (word64 2))))) ∧
        (s.room o n true = none → s.room o n false = none →
          exec (.alloc d a b) s = .next ((s.served).went 4 (fun t => t.setReg d.val (word64 1)))) ∧
        (s.room o n true = none → (s.room o n false).isSome = true →
          exec (.alloc d a b) s = .next ((s.request o s.core s.slot).waits (.cleaning o))))) ∧
    (s.usable c [0] → e.pinned = false → s.quiet o → e.gen < 65535 → exec (.free a) s =
      .next (((((s.drainObj o).freeHome o).bumped o).freeObj o).went 4 (fun t => t.setReg a.val CReg.zero))) ∧
    (d ≠ 0 → c.tag = true → wellFormed c = true → s.dom.supv = false →
      exec (.creclaim d a) s = .next (s.freeze { code := 0x1D, arg := 0, reg := a.val })) ∧
    (d ≠ 0 → c.tag = true → wellFormed c = true → s.dom.supv = true → kindOf c < 2 → engOnly c = false →
      e.part = s.dom.part → e.entKind ≠ 0 → e.retired = false → e.transit = false →
      let s2 := (s.drainObj o).bumped o
      let s3 := (s2.setOwner o (s2.devOf s2.cur.asid) s2.core s2.cur.asid).modObj o (fun e =>
        { e with poisoned := false, held := 65536 })
      (s.named o = true → exec (.creclaim d a) s = .next ((s.cores.foldl (fun (s : State) (k : Nat × Core) =>
        s.cancelCmds k.1 (fun x => x.names o)) s).waits (.cancelled o))) ∧
      (s.named o = false → s.loading o = false → ((s.drainObj o).objAt o).gen < 65535 →
        exec (.creclaim d a) s = .next (s3.went 4 (fun t =>
          (if isShade c then t.setReg a.val CReg.zero else t).setReg d.val (mkCap 0 (rbitsOf c) 0 (s3.objAt o).gen o 0))))) ∧
    -- each completes
    (d ≠ 0 → s.usable c [4] → fits → s.requestsBefore o s.core s.slot = [] →
      ∀ base m, s.room o n true = some base → s.pickEntry s.dom.part 65535 = some m →
      ∃ t, exec (.alloc d a b) s = .next t ∧ past t ∧ t.cur.reg d.val = mkCap 0 (rbitsOf c) 0 (s.objAt m).gen m 0 ∧
        (t.objAt m).entKind = 1 ∧ (t.objAt m).length = n ∧ (t.objAt m).ownCore = s.core ∧ (t.objAt m).ownCtx = s.cur.asid) ∧
    (s.usable c [0] → e.pinned = false → s.quiet o → e.gen < 65535 →
      ∃ t, exec (.free a) s = .next t ∧ past t ∧ t.cur.reg a.val = CReg.zero ∧
        (t.objAt o).entKind = 0 ∧ (t.objAt o).gen = e.gen + 1) ∧
    (d ≠ 0 → c.tag = true → wellFormed c = true → s.dom.supv = true → kindOf c = 0 → engOnly c = false → e.part = s.dom.part →
      e.entKind ≠ 0 → e.retired = false → e.transit = false → s.named o = false → s.loading o = false → e.gen < 65535 →
      ∃ t, exec (.creclaim d a) s = .next t ∧ past t ∧ t.cur.reg d.val = mkCap 0 (rbitsOf c) 0 (e.gen + 1) o 0 ∧
        (t.objAt o).poisoned = false ∧ (t.objAt o).held = 65536 ∧ (t.objAt o).gen = e.gen + 1 ∧ (t.objAt o).ownCore = s.core ∧
        (t.objAt o).ownCtx = s.cur.asid)

/-- split divides an OWN or a SHADE into shades of the same total; join adds them to a SHADE or an OWN (R29, R130, R141, R142).
-/
def Obligations.ShadesSplitAndJoin : Prop :=
  ∀ (s : State) (d a b : CR), s.calm → s.alone → s.unbound [d, a, b] →
    let c := s.cur.reg a.val
    let x := s.cur.reg b.val
    let o := objOf c
    let f := (s.low b).toNat
    let h := if kindOf c = 0 then 65536 else fracOf c
    let shade (n g rb : Nat) : CReg := mkCap 1 rb (n % 65536) g o (cursorOf c)
    let rest (g : Nat) : CReg := if h = f then CReg.zero else shade (h - f) g (rbitsOf c)
    let sum := fracOf c + (if b = 0 then 0 else fracOf x)
    let rb := rbitsOf c ||| (if b = 0 then 0 else rbitsOf x)
    let taken := s.tableAcquire s.core s.slot false o
    let spent (t : Slot) : Slot := if b = 0 then t.setReg a.val CReg.zero else (t.setReg a.val CReg.zero).setReg b.val CReg.zero
    (d = 0 → exec (.split d a b) s = .next (s.freeze { code := 0x01 }) ∧
      exec (.join d a b) s = .next (s.freeze { code := 0x01 })) ∧
    (d ≠ 0 → c.tag = true → wellFormed c = true → kindOf c < 6 → (1 < kindOf c ∨ noSplit c = true ∨ d = a) →
      exec (.split d a b) s = .next (s.freeze { code := 0x06, arg := 3, reg := a.val })) ∧
    (d ≠ 0 → d ≠ a → s.usable c [0, 1] → noSplit c = false →
      (f = 0 ∨ h < f → exec (.split d a b) s = .next (s.freeze { code := 0x04, arg := 5, reg := a.val })) ∧
      (1 ≤ f → f ≤ h → kindOf c = 1 → exec (.split d a b) s = .next (s.went 4 (fun t =>
        (t.setReg a.val (rest (genOf c))).setReg d.val (shade f (genOf c) (rbitsOf c))))) ∧
      (1 ≤ f → f ≤ h → kindOf c = 0 → s.quiet o → genOf c < 65535 →
        let s1 := (s.drainObj o).releaseObj s.core s.slot o
        let s2 := (s1.tickAt s.core s.slot).bumped o
        s1.mustRebase s.core s.slot = false →
        exec (.split d a b) s = .next ((s2.tableRelease s2.core s2.cur.asid false o s2.clockNow).went 4 (fun t =>
          (t.setReg a.val (rest (genOf c + 1))).setReg d.val (shade f (genOf c + 1) (rbitsOf c)))))) ∧
    (d ≠ 0 → s.usable c [1] → a ≠ b → (b = 0 ∨ s.usable x [1] ∧ objOf x = o) →
      s.anyCmd s.core s.cur.asid (fun k => k.borrows o) = false →
      (sum < 65536 → exec (.join d a b) s = .next (taken.went 4 (fun t => (spent t).setReg d.val (shade sum (genOf c) rb)))) ∧
      (sum = 65536 → s.quiet o → genOf c < 65535 →
        let s1 := (s.drainObj o).tableAcquire s.core s.slot false o
        let s2 := s1.bumped o
        let s3 := (s2.setOwner o (s2.devOf s2.cur.asid) s2.core s2.cur.asid).modObj o (fun e => { e with held := 65536 })
        exec (.join d a b) s = .next (s3.went 4 (fun t =>
          (spent t).setReg d.val (mkCap 0 rb 0 (genOf c + 1) o (cursorOf c))))))

/-- take and peek deliver a full word and wait at an empty one; put fills an empty word and waits at a full one (R132, R146,
R147, R297, R300). -/
def Obligations.SyncWordsTakePutPeek : Prop :=
  ∀ (s : State) (d a : CR) (off : BitVec 12) (strict : Bool) (x : Nat), s.calm → s.alone → s.unbound [d, a] → s.waiters = [] →
    let c := s.cur.reg a.val
    let v := s.cur.reg d.val
    let s1 := s.drain s.core s.slot
    let travels : Prop := v.tag = false ∨ noSend v = false ∧ engOnly v = false ∧ kindOf v ≠ 5
    let waits (i : Instr) (op : Nat) : Prop := exec i s =
      .next (if s1.listRoom x then (s.queued x op).waits (.deferred x) else s.waits (.retry x))
    (d = 0 → exec (.take d a off) s = .next (s.freeze { code := 0x01 })) ∧
    (s.passes .sync c off.toInt 16 16 → s.liesAt (objOf c) (cursorOf c + off.toInt).toNat x → x % 16 = 0 → s1.waiters = [] →
      (s1.isFull x = true →
        (d ≠ 0 → isOwn (s1.wordAt x) = false → exec (.take d a off) s =
          .next (((s1.emptyWord x).tableAcquire s.core s.slot true x).went 4 (fun t => t.setReg d.val (s1.wordAt x)))) ∧
        exec (.peek d a off) s = .next ((s1.tableAcquire s.core s.slot true x).went 4 (fun t =>
          t.setReg d.val { s1.wordAt x with tag := false })) ∧
        (travels → waits (.put d a off strict) 2)) ∧
      (s1.isFull x = false →
        (d ≠ 0 → waits (.take d a off) 0) ∧ waits (.peek d a off) 1 ∧
        (isOwn v = false → travels →
          (isShade v = true → s1.anyCmd s1.core s1.cur.asid (fun k => k.borrows (objOf v)) = false) →
          let s2 := if isShade v then s1.invalidate s1.core (objOf v) true else s1
          s2.mayTick .device → exec (.put d a off strict) s = .next (((s2.publish x).fillWord x v).went 4 (fun t =>
            if isShade v then t.setReg d.val CReg.zero else t))))) ∧
    (∀ j w, (s.slotAt s.core j).state = .wait (.retry w) → exec (.syncRetry s.core j) s =
      .next (s.modSlot s.core j (fun t => { t with state := .ready })))

/-- The atomics write the new value of their operation to a full, untagged word and deliver the old one (R148, R149, R150,
R151). -/
def Obligations.AtomicsUpdateTheirWord : Prop :=
  ∀ (s : State) (d a b : CR) (strict : Bool) (ty : AFTy) (ctl : BitVec 4) (y : Nat), s.calm → s.alone → s.unbound [d, a, b] →
    s.waiters = [] →
    let c := s.cur.reg a.val
    let w := y / 16 * 16
    let s1 := s.drain s.core s.slot
    let s2 := (s1.releaseAll s.core s.slot .device).tableAcquire s.core s.slot true w
    let does (i : Instr) (n : Nat) (new : Nat → Nat) (old : Nat → CReg) (f : Nat → Slot → Slot) : Prop :=
      s.passes .atomic c 0 n n → kindOf c = 2 → s.liesAt (objOf c) (cursorOf c) y → y % n = 0 → s1.waiters = [] →
        let x := leNat (Memory.read s2.mem y n)
        let s3 := (s2.poked y (leBytes n (new x))).modCur (f x)
        (s1.isFull w = true → s1.tagAt w = false → s3.mayTick .device →
          exec i s = .next ((s3.publish w).went 4 (fun t => t.setReg d.val (old x)))) ∧
        (s1.isFull w = false → s1.listRoom w = true → exec i s = .next ((s.queued w 3).waits (.deferred w)))
    let int (i : CR → CR → CR → Bool → Bool → Instr) (f : ∀ n, BitVec n → BitVec n → BitVec n → BitVec n) : Prop :=
      does (i d a b strict false) 4 (fun x => (f 32 (.ofNat 32 x) ((s.wide b).setWidth 32) ((s.wide d).setWidth 32)).toNat)
        (fun x => word64 ((BitVec.ofNat 32 x).signExtend 64)) (fun _ t => t) ∧
      does (i d a b strict true) 8 (fun x => (f 64 (.ofNat 64 x) (s.low b) (s.low d)).toNat)
        (fun x => word64 (.ofNat 64 x)) (fun _ t => t)
    let float (i : Instr) (f : FFmt → Ctl → Nat → Nat → Lane) : Prop :=
      let fmt := atomicFmt ty
      let r (x : Nat) : Lane := f fmt (s.cur.atomicCtl ctl 0) x ((s.wide b).toNat % 2 ^ fmt.width)
      does i (fmt.width / 8) (fun x => (r x).pat) (fun x => word64 (.ofNat 64 x)) (fun x t => t.raise (r x).flags)
    int .amoAdd (fun _ x y _ => x + y) ∧ int .amoAnd (fun _ x y _ => x &&& y) ∧ int .amoOr (fun _ x y _ => x ||| y) ∧
    int .amoXor (fun _ x y _ => x ^^^ y) ∧ int .amoSwap (fun _ _ y _ => y) ∧
    int .amoMin (fun _ x y _ => if x.toInt ≤ y.toInt then x else y) ∧
    int .amoMax (fun _ x y _ => if x.toInt ≤ y.toInt then y else x) ∧
    int .amoMinn (fun _ x y _ => if x.toNat ≤ y.toNat then x else y) ∧
    int .amoMaxn (fun _ x y _ => if x.toNat ≤ y.toNat then y else x) ∧
    int .amoCas (fun _ x y z => if x = z then y else x) ∧
    does (.amoCas2 d a b strict) 16 (fun x => if x = (s.wide d).toNat then (s.wide b).toNat else x)
      (fun x => word128 (.ofNat 128 x)) (fun _ t => t) ∧
    (s.cur.stochastic = false →
      float (.amoFadd d a b strict ty ctl) (fun f c x y => fAdd f c false x y) ∧
      float (.amoFmin d a b strict ty ctl) (fun f c x y => fSel f c false x y) ∧
      float (.amoFmax d a b strict ty ctl) (fun f c x y => fSel f c true x y))

/-- msg, mcast, cont and send put a message with their header on its way (R32, R143, R152, R153, R161). -/
def Obligations.MessagesLeaveTheirStrand : Prop :=
  ∀ (s : State) (p a h : CR) (n : Fin 9) (hint : BitVec 2) (strict : Bool), s.calm → s.alone →
    s.unbound (p :: h :: a :: payRegs a n.val) →
    let port := s.cur.reg p.val
    let c := s.cur.reg a.val
    let user := ((s.low h).extractLsb' 40 24).toNat
    let cls := ((s.low h).extractLsb' 0 6).toNat
    let pay := (payRegs a n.val).map (fun k => s.cur.reg k.val)
    let to_ := (portDev port, portTarget port, portCtx port)
    let own := s.inDomain (portDev port) (portTarget port) (portCtx port)
    let ready (b : Bool) (u : State) : State := if b then u.announces .domain else u
    let head (t : State) (user send count cls : Nat) : Word := .ofNat 64 (user * 2 ^ 40 + t.devOf t.cur.asid % 2 ^ 16 * 2 ^ 24 +
      t.core % 2 ^ 13 * 2 ^ 11 + send * 2 ^ 10 + count * 2 ^ 6 + cls)
    let mail (t : State) (to_ : Nat × Nat × Nat) (hdr : Word) (pay : List CReg) (b : Bool) (form : Nat) : Msg :=
      { srcDev := t.devOf t.cur.asid, srcCore := t.core, srcCtx := t.cur.asid, dstDev := to_.1, dstCore := to_.2.1,
        dstCtx := to_.2.2, hdr := hdr, pay := pay, clk := if b then some t.clockNow else none, form := form }
    let leaves (i : Instr) (u : State) (m : State → Msg) : Prop :=
      (own = true → u.mayTick .domain) → exec i s = .next (((ready own u).sendMsg (m (ready own u))).went 4 (fun t => t))
    (s.sendable port cls → (∀ v ∈ pay, v.tag = false) →
      leaves (.msg p a h n) s (fun t => mail t to_ (head t user 0 n.val cls) pay own 0)) ∧
    (s.compat s.cur.asid = false ∨ n.val ≠ 1 → exec (.cont p a h n) s = .next (s.freeze { code := 0x01 })) ∧
    (s.compat s.cur.asid = true → n.val = 1 → s.sendable port cls → c.tag = false →
      leaves (.cont p a h n) s (fun t => mail t to_ (head t user 0 1 cls) [c] own 3)) ∧
    (s.sendable port (portLo port) → noSend port = false → noSend c = false →
      (s.usable c [2, 4] ∨ c.tag = true ∧ wellFormed c = true ∧ kindOf c = 7 ∧ engOnly c = false) →
      leaves (.send a p hint strict) s (fun t =>
        mail t to_ (head t 0 1 2 (portLo port)) [c, CReg.zero] own 2)) ∧
    (port.tag = true → wellFormed port = true → s.portPerm port cls true = none → (∀ v ∈ pay, v.tag = false) →
      (∀ m ∈ s.castTo port, s.held_ m.1 m.2 (portCtx port) = false) →
      let mine := (s.castTo port).any (fun m => s.inDomain m.1 m.2 (portCtx port))
      (mine = true → s.mayTick .domain) →
      let t := ready mine s
      exec (.mcast p a h n) s = .next (((s.castTo port).foldl (fun (u : State) (m : Nat × Nat) =>
        u.sendMsg (mail u (m.1, m.2, portCtx port) (head t user 0 n.val cls) pay
          (s.inDomain m.1 m.2 (portCtx port)) 1)) t).went 4 (fun t => t)))

/-- bind makes a CODE capability the handler of a class and frees its held messages; unbind removes it (R154). -/
def Obligations.HandlersAreBound : Prop :=
  ∀ (s : State) (a : CR) (cls : BitVec 6), s.calm → s.alone → s.unbound [a] →
    let c := s.cur.reg a.val
    let k := cls.toNat
    (c.tag = true → wellFormed c = true → kindOf c = 3 → engOnly c = false → s.entryHere (objOf c) = true →
      genCurrent (s.objAt (objOf c)) (genOf c) = true → (k = 63 → s.dom.supv = true) →
      exec (.bind a cls) s = .next (((s.modCurDom (fun d =>
        { d with bindings := putT d.bindings k c })).unhold s.core s.cur.asid k).went 4 (fun t => t))) ∧
    ((k = 63 → s.dom.supv = true) →
      exec (.unbind cls) s = .next ((s.modCurDom (fun d => { d with bindings := dropT d.bindings k })).went 4 (fun t => t))) ∧
    (k = 63 → s.dom.supv = false → exec (.unbind cls) s = .next (s.freeze { code := 0x1D }) ∧
      (c.tag = true → wellFormed c = true → exec (.bind a cls) s =
        .next (s.freeze { code := 0x1D, arg := 0, reg := a.val })))

/-- hstart and pair start a helper in the lowest vacant slot; hwait takes its result; hkill kills it (R18, R89, R155, R156,
R157). -/
def Obligations.HelpersStartEndAndDie : Prop :=
  ∀ (s : State) (d a b : CR), s.calm → s.alone → s.unbound (d :: a :: argRegs b) →
    let c := s.cur.reg a.val
    let k := s.coreAt s.core
    let args := (argRegs b).map (fun r => s.cur.reg r.val)
    let s1 := s.announces .domain
    let serial := s1.dom.serial % 2 ^ 24
    let g := xorStep s.cur.seed.toNat
    let s2 := s1.modCur (fun t => { t with seed := .ofNat 64 (xorStep g) })
    let new := helperSlot s.cur args c g serial
    let handle (two : Nat) (i : Nat) : CReg := word64 (.ofNat 64 (serial * 2 ^ 8 + two * 2 ^ 6 + i))
    let known (u : State) (two : Bool) (i : Nat) : State := u.modCurDom (fun m =>
      { m with serial := (m.serial + 1) % 2 ^ 24, handles := m.handles ++ [⟨serial, two, i, none⟩] })
    let starts (need : Nat) : Prop := k.helpers + need ≤ 10 ∧ k.starts = []
    let x := s.low a
    (c.tag = true → wellFormed c = true → kindOf c = 3 → engOnly c = false → s.entryHere (objOf c) = true →
      genCurrent (s.objAt (objOf c)) (genOf c) = true → (∀ v ∈ args, isShade v = false) → s.mayTick .domain →
      (∀ i ∈ k.open_.head?, starts 1 → exec (.hstart d a b) s =
        .next ((known (s2.startIn s.core i (some s1.clockNow) new) false i).went 4 (fun t => t.setReg d.val (handle 0 i)))) ∧
      (∀ i ∈ k.open_.head?, ∀ j ∈ k.open_.tail.head?, starts 2 → exec (.pair d a b) s =
        .next ((known ((s2.startIn s.core i (some s1.clockNow) { new with pair := 1, partner := j }).startIn s.core j
          (some s1.clockNow) { new with pair := 2, partner := i }) true i).went 4 (fun t => t.setReg d.val (handle 1 i)))) ∧
      (k.open_ = [] → exec (.hstart d a b) s =
        .next ((s.modCore s.core (fun k => { k with starts := k.starts ++ [s.slot] })).waits .helper))) ∧
    (d ≠ 0 →
      (s.dom.handleAt x.toNat = none → exec (.hwait d a) s = .next (s.went 4 (fun t => t.setReg d.val (word64 0)))) ∧
      (∀ h, s.dom.handleAt x.toNat = some h →
        (h.ended = none → exec (.hwait d a) s = .next (s.waits (.handle h.serial))) ∧
        (∀ r, h.ended = some r → exec (.hwait d a) s = .next (((s.acquire r.2).modCurDom (fun m =>
          { m with handles := m.handles.filter (fun y => y.serial != h.serial) })).went 4 (fun t => t.setReg d.val r.1))))) ∧
    (s.dom.handleAt x.toNat = none → exec (.hkill a) s = .next (s.went 4 (fun t => t))) ∧
    (∀ h, s.dom.handleAt x.toNat = some h → h.ended = none →
      (∀ j, j < 16 → j ≠ h.slot → (s.slotAt s.core j).serial ≠ h.serial ∨ (s.slotAt s.core j).kind ≠ 1) → h.slot < 16 →
      h.slot ≠ s.slot → s.hasDom s.core s.cur.asid = true →
      let u := s.slotAt s.core h.slot
      u.state = .ready → u.pair = 0 → u.kind = 1 → u.asid = s.cur.asid → u.serial = h.serial → u.sbuf = [] → u.frame = none →
        Leads (exec (.hkill a) s) (fun t => t.slotAt s.core h.slot = u.emptied ∧ t.cur.c = s.cur.c ∧
          t.cur.pc = (s.cur.pc + 4) % 2 ^ 48 ∧
          ∃ y ∈ t.dom.handles, y.serial = h.serial ∧ y.ended.map (fun e => e.1) = some (word64 (BitVec.allOnes 64))))

/-- wany, wall, ffr and tclr act on TAGS; post and grab on the work list of the core (R132, R158, R159, R161). -/
def Obligations.TagsAndWorkLists : Prop :=
  ∀ (s : State) (d a : CR), s.calm → s.alone → s.unbound [d, d + 1, a, a + 1] →
    let m := s.low a
    let tags := s.dom.tags
    let seen := s.dom.tagClks.filter (fun x => m.getLsbD x.1 && tags.getLsbD x.1)
    let observed := seen.foldl (fun (s : State) (x : Nat × Carried) => s.acquire x.2) s
    let s1 := s.announces .domain
    let y := s.cur.reg (a + 1).val
    let mine (w : WorkEntry) : Bool := w.asid == s.cur.asid
    let entry : WorkEntry := ⟨s1.cur.asid, m, y, s1.clockNow⟩
    (m &&& tags ≠ 0 → exec (.wany a) s = .next (observed.went 4 (fun t => t))) ∧
    (m ≠ 0 → m &&& tags = 0 → exec (.wany a) s = .next (s.waits (.anyTag m))) ∧
    (m = 0 → s.compat s.cur.asid = false → exec (.wany a) s = .next (s.went 4 (fun t => t))) ∧
    (m &&& tags = m → exec (.wall a) s = .next (observed.went 4 (fun t => t))) ∧
    (m &&& tags ≠ m → exec (.wall a) s = .next (s.waits (.allTags m))) ∧
    (∃ k ≤ 64, (∀ j < k, (m &&& tags).getLsbD j = false) ∧ (k < 64 → (m &&& tags).getLsbD k = true) ∧
      exec (.ffr d a) s = .next (observed.went 4 (fun t => t.setReg d.val (word64 (.ofNat 64 k))))) ∧
    exec (.tclr a) s = .next ((s.modCurDom (fun u =>
      let gone := m &&& ~~~u.won s.time
      { u with tags := u.tags &&& ~~~gone, tagClks := u.tagClks.filter (fun p => !gone.getLsbD p.1) })).went 4 (fun t => t)) ∧
    ((s.cur.reg a.val).tag = true → exec (.post a) s = .next (s.freeze { code := 0x06, arg := 3, reg := a.val })) ∧
    ((s.cur.reg a.val).tag = false → (y.tag = true → noSend y = false ∧ engOnly y = false ∧ kindOf y ∉ [3, 5, 6]) → s.mayTick .domain →
      (∀ u, s1.addWork s1.core entry = some u → exec (.post a) s = .next (u.went 4 (fun t =>
        if isShade y then t.setReg (a + 1).val CReg.zero else t))) ∧
      (s1.addWork s1.core entry = none → exec (.post a) s = .next (s.freeze { code := 0x0F }))) ∧
    (∀ w, (s.coreAt s.core).work.find? mine = some w → exec (.grab d) s =
      .next (((s.modCore s.core (fun k => { k with work := k.work.erase w })).acquire w.clk).went 4 (fun t =>
        (t.setReg d.val (word128 (1#64 ++ w.word))).setReg (d + 1).val w.reg))) ∧
    ((s.coreAt s.core).work.find? mine = none →
      (s.dom.workRecs = false → exec (.grab d) s = .next (s.went 4 (fun t =>
        (t.setReg d.val CReg.zero).setReg (d + 1).val CReg.zero))) ∧
      (s.dom.workRecs = true → exec (.grab d) s = .next (s.waits .work)))

/-- bar arrives and waits for its group; when all have arrived it completes; bar.add moves the counter (R132, R160, R299). -/
def Obligations.BarriersGatherTheirGroup : Prop :=
  ∀ (s : State) (a : CR) (g : BitVec 8) (w : Group), s.calm → s.alone → s.unbound [a] →
    let n := g.toNat
    let part := s.dom.part
    let scope := groupRelease w.scope
    let s1 := s.announces scope
    let arrived := (s1.arriveAt part n s1.clockNow).modCur (fun t =>
      { t with barrier := some (n, w.inst), state := .wait (.barrier n w.inst) })
    let sum : Int := w.pending + (s.low a).toInt
    let moved := s.modPart part (fun p => { p with groups := putT p.groups n { w with pending := sum.toNat } })
    (s.dom.memberOf n = false →
      exec (.bar g) s = .next (s.freeze { code := 0x06, arg := 3 }) ∧
      exec (.barAdd a g) s = .next (s.freeze { code := 0x06, arg := 3 })) ∧
    (s.dom.memberOf n = true → lookT (s.partAt part).groups n = some w →
      (s.cur.barrier = none → (scope.wide = true → s.owesRemote s.core s.cur.born = false) → s.mayTick scope →
        exec (.bar g) s = .next arrived ∧
        (w.pending = 0 → w.early = [] → w.members = [(s.devOf s.cur.asid, s.core)] → s.partOf s.cur.asid = part →
          (∀ k ∈ s.cores, ∀ t ∈ k.2.slots, t.2.barrier = none) →
            let t := arrived.tryBarrier part n
            t.cur.state = .ready ∧ t.cur.pc = (s.cur.pc + 4) % 2 ^ 48 ∧ t.cur.c = s.cur.c ∧ t.cur.barrier = none ∧
            ∃ v, lookT (t.partAt part).groups n = some v ∧ v.inst = w.inst + 1 ∧ v.arrived = [])) ∧
      (∀ m i, s.cur.barrier = some (m, i) →
        (m = n ∧ i = w.inst → exec (.bar g) s = .next (s.waits (.barrier n w.inst))) ∧
        (m ≠ n ∨ i ≠ w.inst → exec (.bar g) s = .next (s.went 4 (fun t => { t with barrier := none })))) ∧
      (0 ≤ sum → sum < 2 ^ 64 → exec (.barAdd a g) s = .next (moved.went 4 (fun t => t))) ∧
      (sum < 0 ∨ 2 ^ 64 ≤ sum →
        exec (.barAdd a g) s = .next (s.freeze { code := 0x16, arg := n })))

/-- The integer vector instructions compute each active lane as R165 gives it (R27, R28, R60, R162, R164, R165). -/
def Obligations.VectorIntegerLanes : Prop :=
  ∀ (s : State) (d a b : VR) (p : PR) (t : ITy), s.calm → s.vectorFree →
    let w := laneW t
    let signed : Bool := t == .i8 || t == .i4 || t == .i64
    let val (x : BitVec w) : Int := if signed then x.toInt else x.toNat
    let lo : Int := if signed then -2 ^ (w - 1) else 0
    let hi : Int := if signed then 2 ^ (w - 1) - 1 else 2 ^ w - 1
    let x (k : Nat) : BitVec w := laneOf (s.cur.vreg a.val) w k
    let y (k : Nat) : BitVec w := laneOf (s.cur.vreg b.val) w k
    let sh (k : Nat) : Nat := (y k).toNat % w
    let does (i : Instr) (f : Nat → BitVec w) : Prop := s.setsLanes i d p w f
    let int (i : Instr) (f : Int → Int → Int) : Prop := does i (fun k => .ofInt w (f (val (x k)) (val (y k))))
    int (.vadd d a b p t) (fun x y => x + y) ∧ int (.vsub d a b p t) (fun x y => x - y) ∧
    int (.vmul d a b p t) (fun x y => x * y) ∧
    int (.vmin d a b p t) (fun x y => if x ≤ y then x else y) ∧ int (.vmax d a b p t) (fun x y => if x ≤ y then y else x) ∧
    does (.vand d a b p t) (fun k => x k &&& y k) ∧ does (.vor d a b p t) (fun k => x k ||| y k) ∧
    does (.vxor d a b p t) (fun k => x k ^^^ y k) ∧ does (.vshl d a b p t) (fun k => x k <<< sh k) ∧
    does (.vshr d a b p t) (fun k => if signed then (x k).sshiftRight (sh k) else x k >>> sh k) ∧
    int (.vadds d a b p t) (fun x y => max lo (min hi (x + y))) ∧ int (.vsubs d a b p t) (fun x y => max lo (min hi (x - y))) ∧
    int (.vmulh d a b p t) (fun x y => x * y / 2 ^ w) ∧ int (.vavg d a b p t) (fun x y => (x + y + 1) / 2) ∧
    (signed = true → does (.vabs d a p t) (fun k => if (x k).toInt < 0 then -x k else x k) ∧
      does (.vneg d a p t) (fun k => -x k))

/-- The floating vector instructions compute each active lane with one operation and collect its flags (R27, R28, R87, R88, R93,
R101, R162, R163, R166). -/
def Obligations.VectorFloatingLanes : Prop :=
  ∀ (s : State) (d a b : VR) (p : PR) (t : FTy), s.calm → s.alone → s.vectorFree → s.cur.stochastic = false →
    let fmt := laneFmt t
    let w := fmt.width
    let subn := if t = .f64 ∨ t = .f32 then s.cur.fpmode.getLsbD 4 else false
    let way := if t = .f64 ∨ t = .f32 then (if subn then 1 else 0) else 2
    let ctl : Ctl := ⟨(s.cur.fpmode &&& 7).toNat, s.cur.fpmode.getLsbD 5, s.cur.fpmode.getLsbD 6, way, 0⟩
    let ln (v : VR) (k : Nat) : Nat := (laneOf (s.cur.vreg v.val) w k).toNat
    let live := (List.range (256 / w)).filter (fun k => governs (s.cur.preg p.val) w k)
    let does (i : Instr) (f : Nat → Lane) : Prop :=
      (subn = false ∨ (∀ k ∈ live, (f k).assist = false) →
        Leads (exec i s) (fun u =>
          u = s.went 4 (fun x => (x.raise (live.foldl (fun z k => z ||| (f k).flags) 0)).setV d.val (u.cur.vreg d.val)) ∧
          ∀ k < 256 / w, (laneOf (u.cur.vreg d.val) w k).toNat =
            if governs (s.cur.preg p.val) w k then (f k).pat % 2 ^ w else ln d k)) ∧
      (subn = true → (∃ k ∈ live, (f k).assist = true) → s.cur.frame = none →
        (s.assistOf s.cur.asid = none → exec i s = .next (s.freeze { code := 0x01 })) ∧
        (∀ r, s.assistOf s.cur.asid = some r → (s.coreAt s.core).cacheUsed < 32 → Leads (exec i s) (fun u =>
          u.cur.state = .ready ∧ u.cur.code = r ∧ u.cur.v = s.cur.v ∧ u.cur.frame.isSome = true ∧
          (u.cur.frame.map (fun f => (f.v, f.p, f.code, f.fpmode, f.pc0))) =
            some (s.cur.v, s.cur.p, s.cur.code, s.cur.fpmode, s.cur.pc))))
    let bin (i : Instr) (f : FFmt → Ctl → Nat → Nat → Lane) : Prop := does i (fun k => f fmt ctl (ln a k) (ln b k))
    let one (i : Instr) (f : FFmt → Ctl → Nat → Lane) : Prop := does i (fun k => f fmt ctl (ln a k))
    bin (.vfadd d a b p t) (fun f c x y => fAdd f c false x y) ∧ bin (.vfsub d a b p t) (fun f c x y => fAdd f c true x y) ∧
    bin (.vfmul d a b p t) fMul ∧ bin (.vfdiv d a b p t) fDiv ∧
    does (.vfma d a b p t) (fun k => fMa fmt ctl (ln a k) (ln b k) (ln d k)) ∧
    bin (.vfmin d a b p t) (fun f c x y => fSel f c false x y) ∧ bin (.vfmax d a b p t) (fun f c x y => fSel f c true x y) ∧
    one (.vfabs d a p t) (fun f c x => fSign f c true x) ∧ one (.vfneg d a p t) (fun f c x => fSign f c false x) ∧
    one (.vfsqrt d a p t) fSqrt

/-- Compares write every bit of a predicate; vsel takes each lane from one of two registers; predicates combine (R23, R28, R167,
R168, R169). -/
def Obligations.ComparesPredicatesAndSelect : Prop :=
  ∀ (s : State) (d p : PR) (v a b : VR) (t : ITy) (u : FTy) (r : VRel), s.calm → s.vectorFree →
    let pg := s.cur.preg p.val
    let bits (f : Nat → Bool) : PReg := .ofNat 32 ((List.range 32).foldl (fun z j => if f j then z + 2 ^ j else z) 0)
    let w := laneW t
    let val (x : BitVec w) : Int := if t = .i8 ∨ t = .i64 then x.toInt else x.toNat
    let holds (x y : Int) : Bool := match r with
      | .eq => x == y
      | .ne => x != y
      | .lt => decide (x < y)
      | .le => decide (x ≤ y)
      | .gt => decide (y < x)
      | .ge => decide (y ≤ x)
    let f := laneFmt u
    let fx (k : Nat) : Nat := (laneOf (s.cur.vreg a.val) f.width k).toNat
    let fy (k : Nat) : Nat := (laneOf (s.cur.vreg b.val) f.width k).toNat
    let nan (x : Nat) : Bool := (f.unpack x).isNan
    let fholds (k : Nat) : Bool := if nan (fx k) || nan (fy k) then r == .ne else holds (fCmp f (fx k) (fy k)) 0
    let raises (k : Nat) : Bool := governs pg f.width k && (if r = .eq ∨ r = .ne
      then (f.unpack (fx k)).sig ||| (f.unpack (fy k)).sig != 0 else nan (fx k) || nan (fy k))
    let gives (i : Instr) (x : PReg) : Prop := exec i s = .next (s.went 4 (fun z => z.setP d.val x))
    (w ≠ 4 → gives (.vcmp d a b p t r) (bits (fun j => governs pg w (8 * j / w) &&
      holds (val (laneOf (s.cur.vreg a.val) w (8 * j / w))) (val (laneOf (s.cur.vreg b.val) w (8 * j / w)))))) ∧
    exec (.vfcmp d a b p u r) s = .next (s.went 4 (fun z =>
      (z.raise (if (List.range (256 / f.width)).any raises then 16 else 0)).setP d.val
        (bits (fun j => governs pg f.width (8 * j / f.width) && fholds (8 * j / f.width))))) ∧
    Leads (exec (.vsel v a b p t) s) (fun z => z = s.went 4 (fun x => x.setV v.val (z.cur.vreg v.val)) ∧
      ∀ k < 256 / w, laneOf (z.cur.vreg v.val) w k =
        if governs pg w k then laneOf (s.cur.vreg a.val) w k else laneOf (s.cur.vreg b.val) w k) ∧
    (∀ x y : PR, gives (.pand d x y) (s.cur.preg x.val &&& s.cur.preg y.val) ∧
      gives (.por d x y) (s.cur.preg x.val ||| s.cur.preg y.val) ∧ gives (.pxor d x y) (s.cur.preg x.val ^^^ s.cur.preg y.val))

/-- vperm, vbcast, vins and vext move lanes; the reductions combine the active ones (R24, R28, R100, R170, R171). -/
def Obligations.LanesMoveAndReduce : Prop :=
  ∀ (s : State) (d a b : VR) (p : PR) (t : ITy) (u : FTy) (c x y : CR), s.calm → s.vectorFree → s.unbound [c, x, y] →
    let w := laneW t
    let n := 256 / w
    let pg := s.cur.preg p.val
    let signed : Bool := t == .i8 || t == .i4 || t == .i64
    let ln (v : VR) (k : Nat) : BitVec w := laneOf (s.cur.vreg v.val) w k
    let wide (x : BitVec w) : BitVec 64 := if signed then x.signExtend 64 else x.setWidth 64
    let val (x : BitVec w) : Int := if signed then x.toInt else x.toNat
    let k := (s.low y).toNat % n
    let vals := ((List.range n).filter (fun k => governs pg w k)).map (fun k => val (ln a k))
    let hi : Int := if signed then 2 ^ (w - 1) - 1 else 2 ^ w - 1
    let lo : Int := if signed then -2 ^ (w - 1) else 0
    let gives (i : Instr) (v : BitVec 64) : Prop := exec i s = .next (s.went 4 (fun z => z.setReg c.val (word64 v)))
    let f := laneFmt u
    let g := if u = .f64 then fmtF64 else fmtF32
    let xs := ((List.range (256 / f.width)).filter (fun k => governs pg f.width k)).map (fun k =>
      (laneOf (s.cur.vreg a.val) f.width k).toNat)
    let ctl : Ctl := ⟨(s.cur.fpmode &&& 7).toNat, s.cur.fpmode.getLsbD 5, s.cur.fpmode.getLsbD 6, 2, 0⟩
    let fgives (i : Instr) (l : Lane) : Prop := exec i s =
      .next (s.went 4 (fun z => (z.raise l.flags).setReg c.val (word64 (.ofNat 64 l.pat))))
    s.setsLanes (.vperm d a b p t) d p w (fun k => ln a ((ln b k).toNat % n)) ∧
    s.setsLanes (.vbcast d x p t) d p w (fun _ => (s.low x).setWidth w) ∧
    s.setsLanes (.vins d x y p t) d p w (fun j => if j = k then (s.low x).setWidth w else ln d j) ∧
    gives (.vext c a y t) (wide (ln a k)) ∧
    gives (.vredadd c a p t) (.ofInt 64 vals.sum) ∧ gives (.vredmin c a p t) (.ofInt 64 (vals.foldl min hi)) ∧
    gives (.vredmax c a p t) (.ofInt 64 (vals.foldl max lo)) ∧
    (s.cur.stochastic = false → fgives (.vfredadd c a p u) (redSum f g ctl xs) ∧
      fgives (.vfredmin c a p u) (redSel f g ctl false xs) ∧ fgives (.vfredmax c a p u) (redSel f g ctl true xs))

/-- vcvt converts the lanes under p7; vmxq and vmxd code and decode blocks of 32 elements (R27, R62, R95, R96, R97, R172, R173,
R174, R175). -/
def Obligations.VectorConversions : Prop :=
  ∀ (s : State) (d a : VR) (to_ from_ : Fmt), s.calm → s.vectorFree → s.cur.stochastic = false →
    let ws := fmtLane from_
    let wd := fmtLane to_
    let n := min (256 / ws) (256 / wd)
    let p7 := s.cur.preg 7
    let ctl (way : Nat) : Ctl := ⟨(s.cur.fpmode &&& 7).toNat, s.cur.fpmode.getLsbD 5, s.cur.fpmode.getLsbD 6, way, 0⟩
    let way := if (from_ = .f32 ∧ to_ = .f64) ∨ (from_ = .f64 ∧ to_ = .f32)
      then (if s.cur.fpmode.getLsbD 4 then 1 else 0) else 2
    let conv (k : Nat) : Lane :=
      convLane (kindOfFmt to_) (kindOfFmt from_) (ctl way) (laneOf (s.cur.vreg a.val) ws k).toNat
    let live := (List.range n).filter (fun k => governs p7 ws k)
    -- element i of a block in a group of r registers, for vmxq from `from_` and for vmxd to `to_`
    let at_ (v : VR) (r w i : Nat) : Nat := (laneOf (s.cur.vreg ((v.val + i / (32 / r)) % 16)) w (i % (32 / r))).toNat
    let on (r w i : Nat) : Bool := governs p7 w (i % (32 / r))
    let src_ := match kindOfFmt from_ with
      | .fp f => f
      | .int _ _ => fmtF32
    let block := (List.range 32).map (fun i => if on from_.group ws i then src_.unpack (at_ a from_.group ws i) else .num false 0 0)
    let q := quantise to_ (ctl 2) block (List.replicate 32 0)
    let dec (i : Nat) : Lane := mxDecode to_ from_ (ctl 2) (laneOf (s.cur.vreg ((a.val + 1) % 16)) 8 0).toNat
      (laneOf (s.cur.vreg a.val) ws i).toNat
    let lit := (List.range 32).filter (fun i => on to_.group wd i)
    ((way ≠ 1 ∨ ∀ k ∈ live, (conv k).assist = false) → Instr.wf (.vcvt d a to_ from_) = true →
      Leads (exec (.vcvt d a to_ from_) s) (fun t =>
        t = s.went 4 (fun u => (u.raise (live.foldl (fun z k => z ||| (conv k).flags) 0)).setV d.val (t.cur.vreg d.val)) ∧
        ∀ k < 256 / wd, (laneOf (t.cur.vreg d.val) wd k).toNat = if n ≤ k then 0
          else if governs p7 ws k then (conv k).pat % 2 ^ wd else (laneOf (s.cur.vreg d.val) wd k).toNat)) ∧
    (Instr.wf (.vmxq d a to_ from_) = true → Leads (exec (.vmxq d a to_ from_) s) (fun t =>
      t = s.went 4 (fun u => ((u.raise q.2.2).setV d.val (t.cur.vreg d.val)).setV ((d.val + 1) % 16) (.ofNat 256 q.1)) ∧
      ∀ i < 256 / wd, (laneOf (t.cur.vreg d.val) wd i).toNat = if i < 32 then q.2.1.getD i 0 % 2 ^ wd else 0)) ∧
    (Instr.wf (.vmxd d a to_ from_) = true → Leads (exec (.vmxd d a to_ from_) s) (fun t =>
      t.cur.fpflags = s.cur.fpflags ||| .ofNat 64 (lit.foldl (fun z i => z ||| (dec i).flags) 0) ∧
      t.mem = s.mem ∧ t.cur.c = s.cur.c ∧ t.cur.p = s.cur.p ∧ t.cur.pc = (s.cur.pc + 4) % 2 ^ 48 ∧ t.cur.seed = s.cur.seed ∧
      (∀ i < 32, let k := (d.val + i / (32 / to_.group)) % 16
        (laneOf (t.cur.vreg k) wd (i % (32 / to_.group))).toNat =
          if on to_.group wd i then (dec i).pat % 2 ^ wd else at_ d to_.group wd i) ∧
      ∀ k < 16, (∀ j < to_.group, k ≠ (d.val + j) % 16) → t.cur.vreg k = s.cur.vreg k))

/-- vld, vst, vgather and vscatter move the active bytes or elements and no others (R28, R131, R176, R178, R179). -/
def Obligations.VectorMemoryMovesActiveBytes : Prop :=
  ∀ (s : State) (d vi : VR) (a : CR) (p : PR) (off : BitVec 9) (wc : Fin 4) (x : Nat) (y : Nat → Nat),
    s.calm → s.alone → s.vectorFree → s.unbound [a] → s.cur.sbuf = [] →
    let c := s.cur.reg a.val
    let o := objOf c
    let e := s.objAt o
    let pg := s.cur.preg p.val
    let on := (List.range 32).filter (fun j => pg.getLsbD j)
    let lo := on.headD 0
    let hi := on.getLastD 0
    let loc : Int := cursorOf c + off.toInt * 32
    let byte (v : VReg) (j : Nat) : Byte := laneOf v 8 j
    let spans (op : Op) (w : Bool) : Prop := s.passes op c (off.toInt * 32 + lo) (hi - lo + 1) 1 ∧ loc % 32 = 0 ∧
      s.liesAt o (loc + lo).toNat x ∧ s.raceFree c (loc + lo).toNat x (hi - lo + 1) w ∧ e.ptab = false ∧
      (w = true → s.lineDue (isOwn c) o (loc + lo).toNat x (hi - lo + 1) = none)
    let near : Bool := on.all (fun j => s.atHand s.core o (x + (j - lo)) 1)
    let n := 2 ^ wc.val
    let w := 8 * n
    let idx (k : Nat) : Nat := (laneOf (s.cur.vreg vi.val) w k).toNat
    let live := (List.range (32 / n)).filter (fun k => governs pg w k)
    let elems (op : Op) (wr : Bool) : Prop := ∀ k ∈ live, s.passes op c (idx k * n) n n ∧
      s.liesAt o (cursorOf c + idx k * n) (y k) ∧ s.raceFree c (cursorOf c + idx k * n) (y k) n wr ∧
      (wr = true → s.lineDue (isOwn c) o (cursorOf c + idx k * n) (y k) n = none)
    (on = [] → s.passes .vload c (off.toInt * 32) 0 1 → loc % 32 = 0 → s.liesAt o loc.toNat x →
      exec (.vld d a p off) s = .next (s.went 4 (fun t => t))) ∧
    (on ≠ [] → spans .vload false →
      (near = true → Leads (exec (.vld d a p off) s) (fun t =>
        t = s.went 4 (fun u => u.setV d.val (t.cur.vreg d.val)) ∧
        ∀ j < 32, byte (t.cur.vreg d.val) j =
          if pg.getLsbD j then (s.seen s.core s.slot o (x + (j - lo)) 1).headD 0 else byte (s.cur.vreg d.val) j)) ∧
      (near = false → exec (.vld d a p off) s = .next (s.parks (.reply
        ⟨false, 1, d.val, 0, 32, on.map (fun j => (j, (loc + lo).toNat + (j - lo), x + (j - lo))), o, [], isOwn c⟩ 4)))) ∧
    (on ≠ [] → spans .vstore true → exec (.vst d a p off) s = .next (s.went 4 (fun t =>
      s.stored t c (loc + lo).toNat x ((List.range (hi - lo + 1)).map (fun j =>
        if pg.getLsbD (lo + j) then some (byte (s.cur.vreg d.val) (lo + j)) else none)) none))) ∧
    (live = [] → exec (.vgather d a vi p wc) s = .next (s.went 4 (fun t => t)) ∧
      exec (.vscatter d a vi p wc) s = .next (s.went 4 (fun t => t))) ∧
    (live ≠ [] → elems .vload false → (∀ k ∈ live, ∀ j < n, s.atHand s.core o (y k + j) 1 = true) →
      Leads (exec (.vgather d a vi p wc) s) (fun t => t = s.went 4 (fun u => u.setV d.val (t.cur.vreg d.val)) ∧
        ∀ k < 32 / n, ∀ j < n, byte (t.cur.vreg d.val) (k * n + j) =
          if governs pg w k then (s.seen s.core s.slot o (y k + j) 1).headD 0 else byte (s.cur.vreg d.val) (k * n + j))) ∧
    (live ≠ [] → live.length ≤ 8 → e.ptab = false → elems .vstore true →
      exec (.vscatter d a vi p wc) s = .next (s.went 4 (fun t =>
        { t with
          sbuf := live.map (fun k => ⟨o, cursorOf c + idx k * n, y k,
            (List.range n).map (fun j => some (byte (s.cur.vreg d.val) (k * n + j))), none, clkAt t.clock s.slot, isOwn c⟩)
          wrote := putN t.wrote o })))

/-- vloop captures its block and goes past it; each replay runs the next word with its registers staggered (R180, R181, R182).
-/
def Obligations.VectorLoopsCaptureAndReplay : Prop :=
  ∀ (s : State) (cnt : CR) (nm1 stag : BitVec 4) (icnt : BitVec 12) (y : Nat → Nat),
    let n := nm1.toNat + 1
    let o := objOf s.cur.code
    let pc := s.cur.pc
    let parcel (j : Nat) : Nat := leNat (s.seen s.core 16 o (y j) 2)
    let words := (List.range n).map (fun k => parcel (2 * k) * 2 ^ 16 + parcel (2 * k + 1))
    let count := if cnt = 0 then icnt.toNat else (s.low cnt).toNat
    let l : Loop := { words := words.map (fun w => .ofNat 32 w), count := count, stagger := stag.toNat, k := 0, j := 0,
                      pc0 := pc + 4, ahead := 0, stopped := false }
    (s.calm → s.vectorFree → s.unbound [cnt] → pc + 4 + 4 * n ≤ (s.objAt o).length →
      (∀ j < 2 * n, s.liesAt o (pc + 4 + 2 * j) (y j)) →
      (words.all captures = true → exec (.vloop cnt nm1 stag icnt) s = .next (
        if count = 0 then s.jumped (pc + 4 + 4 * n) (fun t => t)
        else (s.modCore s.core (fun k => { k with loopSlot := some s.slot })).jumped (pc + 4 + 4 * n) (fun t =>
          { t with loop := some l }))) ∧
      (words.all captures = false → s.alone → exec (.vloop cnt nm1 stag icnt) s = .next (s.freeze { code := 0x01 }))) ∧
    (∀ (i : Nat) (l : Loop) (x : Instr), s.agenda = [] → (s.coreAt s.core).loopSlot = some i → s.replaySlot s.core = some i →
      coreOk s.core = true → (s.slotAt s.core i).loop = some l → l.stopped = true →
      decodePattern 4 (l.words.getD l.j 0).toNat = .ok x →
      Sys2Proof.Machine.step { s with agenda := [.replay s.core] } =
        exec (staggered (l.k * l.stagger) x)
          { s.modSlot s.core i (fun t => { t.setPc (l.pc0 + 4 * l.j) with
                                           state := .ready, insn := (l.words.getD l.j 0).toNat, again := false })
            with slot := i, ir := (l.words.getD l.j 0).toNat, replaying := true, busy := true }) ∧
    (∀ (l : Loop) (d a b : VR) (p : PR) (t : ITy), s.cur.state = .ready → s.cur.pend = .none → s.replaying = true →
      s.cur.loop = some l → Leads (exec (.vadd d a b p t) s) (fun u =>
        u.cur.pc = l.ahead % 2 ^ 48 ∧ u.cur.retired = s.cur.retired + 1 ∧ u.cur.c = s.cur.c ∧ u.mem = s.mem ∧
        u.cur.loop = (
          if l.j + 1 < l.words.length then (if l.k < l.count then some { l with j := l.j + 1, stopped := false, parked := none } else none)
          else if l.k + 1 < l.count then some { l with j := 0, k := l.k + 1, stopped := false, parked := none } else none)))

/-- Tile queues are defined, advanced, released and waited for, tile copies move rows of 128 bytes, and all six complete (R184,
R185, R186, R187, R188). -/
def Obligations.TileQueuesAndCopies : Prop :=
  ∀ (s : State) (d a b : CR) (q : QR) (n : Nat), s.calm → s.alone → s.unbound [d, a, b] → (s.low b).toNat = n →
    let party (u : State) : Party := u.party s.core s.slot
    let holds := s.isHolder s.core s.cur.asid = true
    let faults (i : Instr) (code step reg : Nat) : Prop := exec i s = .next (s.freeze { code := code, arg := step, reg := reg })
    let gone (i : Instr) (u : State) : Prop := exec i s = .next (u.went 4 id)
    let set (u : State) (x : Queue) : State := u.setQueue s.core q.val x
    let idle := s.anyCmd s.core s.cur.asid (fun k => k.namesQueue q.val) = false
    let c := s.cur.reg a.val
    let t := s.cur.reg d.val
    let tile (c : CReg) (kinds : List Nat) : Prop := s.usable c kinds ∧ s.tileSide (s.objAt (objOf c)) = true ∧
      cursorOf c % 128 = 0 ∧ cursorOf c + 128 * n ≤ (s.objAt (objOf c)).length
    let side (c : CReg) (kinds : List Nat) : Prop := s.usable c kinds ∧ s.memorySide (s.objAt (objOf c)) = true ∧
      cursorOf c % 64 = 0 ∧ cursorOf c + 128 * n ≤ (s.objAt (objOf c)).length
    let spot (c : CReg) (xs : List (Nat × Nat × Nat)) : Prop := s.spanned (objOf c) (cursorOf c) (128 * n) xs ∧
      (n = 0 → ∃ x, s.liesAt (objOf c) (cursorOf c) x)
    let calmly (u : State) (c d : CReg) : Prop := u.ordered (party u) (objOf c) ∧ u.ordered (party u) (objOf d)
    let copied (u : State) (c : CReg) (xs : List (Nat × Nat × Nat)) (own : Bool) (o : Nat) (ys : List (Nat × Nat × Nat)) : State :=
      u.writeSpans own o ys (u.spanBytes (objOf c) xs)
    let done (i : Instr) (p : State → Prop) : Prop := ∃ t, exec i s = .next t ∧ t.cur.pc = (s.cur.pc + 4) % 2 ^ 48 ∧
      t.cur.retired = s.cur.retired + 1 ∧ t.cur.state = .ready ∧ p t
    let now (p : Queue → Prop) (t : State) : Prop := ∃ y, t.queueAt s.core q.val = some y ∧ p y
    let lies (c : CReg) : Prop := (∃ xs, s.spanned (objOf c) (cursorOf c) (128 * n) xs) ∧
      (n = 0 → ∃ x, s.liesAt (objOf c) (cursorOf c) x)
    (¬holds → faults (.tqDef a b q) 0x06 3 0 ∧ faults (.tqAdv b q) 0x06 3 0 ∧ faults (.tqRel b q) 0x06 3 0 ∧ faults (.tqWait b q) 0x06 3 0) ∧
    (holds → s.queueAt s.core q.val = none →
      faults (.tqAdv b q) 0x06 3 0 ∧ faults (.tqRel b q) 0x06 3 0 ∧ faults (.tqWait b q) 0x06 3 0) ∧
    (holds → n = 0 →
      (idle → gone (.tqDef a b q) (s.modCore s.core (fun k => { k with mx := { k.mx with queues := dropT k.mx.queues q.val } }))) ∧
      (¬idle → exec (.tqDef a b q) s = .next (s.waits (.queueBusy q.val)))) ∧
    (holds → 0 < n → n ≤ 2048 → tile c [0] → idle →
      gone (.tqDef a b q) (set s { cap := c, n := n, prod := 0, read := 0, free := 0, clks := [] })) ∧
    (holds → ∀ x, s.queueAt s.core q.val = some x → genCurrent (s.objAt (objOf x.cap)) (genOf x.cap) = true →
      (x.room < n → faults (.tqAdv b q) 0x04 5 b.val) ∧
      (n ≤ x.room → s.mustRebase s.core s.slot = false →
        let u := s.tickAt s.core s.slot
        gone (.tqAdv b q) (set u (x.produce n u.clockNow))) ∧
      (x.held < n → faults (.tqRel b q) 0x04 5 b.val) ∧
      (n ≤ x.held → gone (.tqRel b q) (set s (x.release n))) ∧
      (x.n < n → faults (.tqWait b q) 0x04 5 b.val) ∧
      (x.filled < n → n ≤ x.n → exec (.tqWait b q) s = .next (s.waits (.filled q.val n))) ∧
      (n ≤ x.filled → n ≤ x.n → gone (.tqWait b q) ((x.nextClks n).foldl (fun u k => u.acquire k) s)) ∧
      -- with QM: into and out of the rows of the queue
      (s.usable x.cap [0] → n ≤ 2048 → n ≤ x.n →
        (∀ xs, side c [0, 1, 3] → spot c xs → n ≤ x.room →
          let u := s.drain s.core s.slot
          let v := copied u c xs true (objOf x.cap) (s.rowSpans x x.prod n)
          let w := v.tickAt s.core s.slot
          calmly u c x.cap → v.mustRebase s.core s.slot = false → gone (.tld d a b q true) (set w (x.produce n w.clockNow))) ∧
        (∀ ys, side t [0] → spot t ys → n ≤ x.filled →
          let u := ((x.nextClks n).foldl (fun u k => u.acquire k) s).drain s.core s.slot
          calmly u x.cap t → gone (.tst d a b q true)
            (set (copied u x.cap (s.rowSpans x x.read n) (isOwn t) (objOf t) ys) (x.consume n))))) ∧
    (∀ xs ys, n ≤ 2048 →
      (tile t [0] → side c [0, 1, 3] → spot c xs → spot t ys →
        let u := s.drain s.core s.slot
        let to_ := s.localAddr (s.objAt (objOf t)) (cursorOf t)
        calmly u c t → gone (.tld d a b q false) (copied u c xs (isOwn t) (objOf t) ys) ∧
          (Memory.wf u.mem = true → to_ + 128 * n ≤ hostBase → Leads (exec (.tld d a b q false) s) (fun r => ∀ x, Memory.get r.mem x =
            if to_ ≤ x ∧ x < to_ + 128 * n then (u.spanBytes (objOf c) xs).getD (x - to_) 0 else Memory.get u.mem x))) ∧
      (tile c [0, 1, 3] → side t [0] → spot c xs → spot t ys →
        let u := s.drain s.core s.slot
        calmly u c t → gone (.tst d a b q false) (copied u c xs (isOwn t) (objOf t) ys))) ∧
    -- each completes
    (holds →
      (idle → n = 0 → done (.tqDef a b q) (fun t => t.queueAt s.core q.val = none)) ∧
      (idle → 0 < n → n ≤ 2048 → tile c [0] → done (.tqDef a b q) (fun t =>
        t.queueAt s.core q.val = some { cap := c, n := n, prod := 0, read := 0, free := 0, clks := [] })) ∧
      (∀ x, s.queueAt s.core q.val = some x → genCurrent (s.objAt (objOf x.cap)) (genOf x.cap) = true →
        (n ≤ x.room → s.mustRebase s.core s.slot = false → done (.tqAdv b q) (now (fun y =>
          y.prod = (x.prod + n) % 2 ^ 32 ∧ y.read = x.read ∧ y.free = x.free))) ∧
        (n ≤ x.held → done (.tqRel b q) (now (fun y => y = x.release n))) ∧
        (n ≤ x.filled → n ≤ x.n → done (.tqWait b q) (now (fun y => y = x))) ∧
        (s.usable x.cap [0] → n ≤ 2048 → n ≤ x.n →
          (side c [0, 1, 3] → lies c → n ≤ x.room →
            let u := s.drain s.core s.slot
            calmly u c x.cap → u.mustRebase s.core s.slot = false → done (.tld d a b q true) (now (fun y =>
              y.prod = (x.prod + n) % 2 ^ 32 ∧ y.read = x.read ∧ y.free = x.free))) ∧
          (side t [0] → lies t → n ≤ x.filled →
            calmly (((x.nextClks n).foldl (fun u k => u.acquire k) s).drain s.core s.slot) x.cap t →
            done (.tst d a b q true) (now (fun y => y = x.consume n))))) ∧
      (n ≤ 2048 → lies c → lies t →
        (tile t [0] → side c [0, 1, 3] → calmly (s.drain s.core s.slot) c t →
          done (.tld d a b q false) (fun r => r.queueAt s.core q.val = s.queueAt s.core q.val)) ∧
        (tile c [0, 1, 3] → side t [0] → calmly (s.drain s.core s.slot) c t →
          done (.tst d a b q false) (fun r => r.queueAt s.core q.val = s.queueAt s.core q.val))))

/-- epush puts a command in its port; epop, estat and aget read results, port status and accumulators (R189, R190, R193, R194,
R195). -/
def Obligations.EnginePortsTakeAndGive : Prop :=
  ∀ (s : State) (d a : CR) (e : EP) (strict bank : Bool) (g : BitVec 4), s.calm → s.alone →
    let r (j : Nat) : CR := Fin.ofNat 32 (a.val + j)
    let reg (j : Nat) : CReg := s.cur.reg (r j).val
    let h := (reg 0).val
    let code := (h.extractLsb' 0 8).toNat
    let mark := h.getLsbD 47
    let port := (s.coreAt s.core).port e.val
    let op := Instr.epush a e strict
    let rec_ := s.parse s.core s.cur.asid e.val (reg 0) (reg 1) (reg 2) (reg 3)
    let fits (op_ : Option Role) (c : CReg) (moves : Bool) : Prop := ∀ x, op_ = some x →
        let o := s.objAt (objOf c)
        c.tag = true ∧ wellFormed c = true ∧ kindOf c ∈ x.kinds ∧ s.placeOk x.place o = true ∧
        (moves = true → o.pinned = false ∧ o.level ≠ 4) ∧ s.entryHere (objOf c) = true ∧ genCurrent o (genOf c) = true ∧
        (x.start = true → cursorOf c = 0) ∧ (∀ n, x.exact_ = some n → o.length = n) ∧ cursorOf c + x.n ≤ o.length ∧
        cursorOf c % x.align = 0 ∧ o.poisoned = false
    let holds := s.isHolder s.core s.cur.asid = true
    (s.unbound [r 0, r 1, r 2, r 3] →
      (rec_ = none → exec op s = .next (s.freeze { code := 0x01 })) ∧
      (rec_.isSome = true → e.val = 0 → ¬holds → exec op s = .next (s.freeze { code := 0x06, arg := 3 })) ∧
      (∀ x, rec_ = some x → (e.val = 0 → holds) → (code = 0x14 → s.dom.supv = true) → fits x.x (reg 1) (code == 0x11) →
        fits x.y (reg 2) false → strict = false →
        let sc := s.pushScope x (reg 1) (reg 2)
        let sent (u : State) : Prop :=
          let w := (u.modCur (fun t => { t with raised := false })).releaseAll s.core s.slot sc
          let v := w.tickAt s.core s.slot
          (sc = .device ∨ s.owesRemote s.core s.cur.born = false) → w.mustRebase s.core s.slot = false → port.length < (if e.val = 0 then 16 else 8) →
            exec op s = .next ((v.pushed (reg 0) (reg 1) (reg 2) (reg 3) v.clockNow e.val x.bytes).went 4 id)
        (mark = false ∨ s.cur.raised = true → sent s ∧ ((if e.val = 0 then 16 else 8) ≤ port.length → exec op s = .next (s.waits (.port e.val)))) ∧
        (mark = true → s.cur.raised = false → ∀ y, (lookT (s.partAt s.dom.part).groups (h.extractLsb' 48 8).toNat) = some y →
          y.pending + x.bytes < 2 ^ 64 →
          let count (u : State) : State := u.modPart s.dom.part (fun p => { p with
            groups := putT p.groups (h.extractLsb' 48 8).toNat { y with pending := y.pending + x.bytes } })
          sent (count s) ∧ ((if e.val = 0 then 16 else 8) ≤ port.length →
            exec op s = .next (((count s).modCur (fun t => { t with raised := true })).waits (.port e.val)))))) ∧
    (d = 0 → exec (.epop d e) s = .next (s.freeze { code := 0x01 }) ∧ exec (.aget d a bank g) s = .next (s.freeze { code := 0x01 })) ∧
    (s.unbound [d, a] →
      (∀ x xs, s.dom.results e.val = x :: xs → d ≠ 0 → exec (.epop d e) s = .next
        (((s.acquire x.clk).modCurDom (fun y => { y with elements := putT y.elements e.val xs })).went 4
          (fun t => t.setReg d.val x.val))) ∧
      (s.dom.results e.val = [] → d ≠ 0 → s.elementDue s.core s.cur.asid e.val = false →
        exec (.epop d e) s = .next (s.went 4 (fun t => t.setReg d.val CReg.zero))) ∧
      (s.dom.results e.val = [] → d ≠ 0 → s.elementDue s.core s.cur.asid e.val = true →
        exec (.epop d e) s = .next (s.waits (.element e.val))) ∧
      (let n := (port.filter (fun k => k.asid == s.cur.asid)).length
       let m := (s.dom.results e.val).length
       let seq := (lookT s.dom.doneSeq e.val).getD 0
       let matrix := if e.val = 0 then
         2 * (!(s.coreAt s.core).retiredCols.isEmpty).toNat + (s.isHolder s.core s.cur.asid).toNat else 0
       exec (.estat d e) s = .next (s.went 4 (fun t => t.setReg d.val
         (word64 (.ofNat 64 (n % 256 * 2 ^ 40 + m % 256 * 2 ^ 32 + seq % 65536 * 2 ^ 16 + matrix)))))) ∧
      (d ≠ 0 → ¬holds → exec (.aget d a bank g) s = .next (s.freeze { code := 0x06, arg := 3 })) ∧
      (d ≠ 0 → holds →
        let busy := ((s.coreAt s.core).port 0).any (fun k => k.asid == s.cur.asid && k.targets bank.toNat)
        (busy = true → exec (.aget d a bank g) s = .next (s.waits (.bank bank.toNat))) ∧
        (busy = false →
          let u := match lookT (s.coreAt s.core).mx.bankClks bank.toNat with
            | some x => s.acquire x
            | none => s
          let acc (j : Nat) : Nat := (s.coreAt s.core).mx.accAt bank.toNat ((s.low a).toNat % 256) (4 * g.toNat + j)
          exec (.aget d a bank g) s = .next (u.went 4 (fun t => t.setReg d.val
            (word128 (.ofNat 128 (acc 0 + acc 1 * 2 ^ 32 + acc 2 * 2 ^ 64 + acc 3 * 2 ^ 96))))))))

/-- shuf.open loads a plan, shuf.hold holds a side block, shuf.close ends a shuffle, shuf.stat reads its counts (R214, R215,
R358, R364). -/
def Obligations.ShufflesOpenAndClose : Prop :=
  ∀ (s : State) (d a b : CR), s.calm → s.alone → s.unbound [d, a, b] →
    let c := s.cur.reg a.val
    let e := s.objAt (objOf c)
    let part := s.dom.part
    let p := s.partAt part
    let sid := (s.low b).toNat % 65536
    let ready := s.usable c [0, 1] ∧ (e.level = 0 ∨ e.level = 2 ∨ e.level = 3) ∧ cursorOf c ≤ e.length
    let holds (x : Packet) : Bool := match x.body with
      | .block y => y.shuf == sid && s.partOf x.ctx == part
      | .lake y => y.shuf == sid && s.partOf x.ctx == part
      | _ => false
    (∀ hs xs, ready →
      let u := s.drain s.core s.slot
      let len := (u.objAt (objOf c)).length
      u.spanned (objOf c) 0 (min 16 len) hs → (len = 0 → ∃ x, u.liesAt (objOf c) 0 x) →
      let h := leNat (u.spanBytes (objOf c) hs)
      u.spanned (objOf c) 0 (min (16 * (1 + h / 2 ^ 16 % 2 ^ 16 + h / 2 ^ 32 % 2 ^ 8)) len) xs →
      u.ordered (u.party s.core s.slot) (objOf c) →
      let q := u.partAt part
      (q.shuffles.length < 16 → lookT q.shuffles sid = none → exec (.shufOpen a b) s =
        .next ((u.modPart part (fun p => { p with
          shuffles := putT p.shuffles sid (u.shuffleOf part (u.spanBytes (objOf c) xs)) })).went 4 id)) ∧
      (16 ≤ q.shuffles.length ∨ (lookT q.shuffles sid).isSome = true → exec (.shufOpen a b) s = .next (s.waits (.shuffle sid false)))) ∧
    (ready →
      let side : Side := ⟨(s.low b).toNat % 2 ^ 32, objOf c, cursorOf c, genOf c⟩
      let rest := p.sides.filter (fun x => x.id != side.id)
      exec (.shufHold a b) s = .next ((s.modPart part (fun p =>
        if rest.length < 256 then { p with sides := rest ++ [side] } else p)).went 4 id)) ∧
    (let busy := s.shuffling part sid || s.holds.any (fun h => h.part == part && h.shuf == sid)
     (busy = true → exec (.shufClose b) s = .next (s.waits (.shuffle sid true))) ∧
     (busy = false → Leads (exec (.shufClose b) s) (fun t =>
       lookT (t.partAt part).shuffles sid = none ∧ (t.partAt part).sides = p.sides.filter (fun x => x.id / 65536 != sid) ∧
       (t.partAt part).active = p.active.filter (fun r => r.id != sid) ∧ t.lakes = s.lakes.filter (fun x => !holds x) ∧
       t.mem = s.mem ∧ t.cur.c = s.cur.c ∧ t.cur.pc = (s.cur.pc + 4) % 2 ^ 48))) ∧
    (d = 0 → exec (.shufStat d b) s = .next (s.freeze { code := 0x01 })) ∧
    (d ≠ 0 → exec (.shufStat d b) s = .next (s.went 4 (fun t => t.setReg d.val (word64 (.ofNat 64 (
      match lookT p.shuffles sid with
        | some x => 1 + min x.coded 65535 * 2 ^ 16 + min x.nacks 65535 * 2 ^ 32
        | none => 0))))))

/-- The matrix commands compute, load, pass, drain, clear and mark as R197 to R202 say (R98, R99, R196, R197, R198, R199, R200,
R201, R202). -/
def Obligations.MatrixCommandsRun : Prop :=
  ∀ (s : State) (core : Nat) (k : Cmd),
    let u := s.engineStart core 0 k
    let p := k.param
    let rows := bitsAt p 8 9
    let arow := bitsAt p 0 8
    let fmt := bitsAt p 28 4
    let mx (t : State) : MatrixState := (t.coreAt core).mx
    let runs (code : Nat) : Prop := s.runnable core 0 code = some k ∧ s.stale k = false
    -- a strand that the end of the command lets past its barrier goes on there, with nothing pending
    let settled : Prop := ∀ c i n m, (s.slotAt c i).state = .wait (.barrier n m) → (s.slotAt c i).pend = .none
    let calmly (c : CReg) : Prop := u.spoiled c = false ∧ u.quietFor core 0 k c
    let ends (i : Instr) (t : State) (status count : Nat) : Prop := exec i s = .next (t.ends core 0 k status count 0)
    (∀ us, s.runnable core 0 1 = none → exec (.mma core us) s = .next s) ∧
    (s.runnable core 0 2 = none → exec (.loadb core) s = .next s ∧ exec (.ringClaim core) s = .next s) ∧
    (∀ us, ∀ x ∈ [(1, Instr.mma core us), (2, .loadb core), (2, .ringClaim core), (3, .passb core), (4, .drain core), (5, .zero core),
        (6, .mark core)], s.runnable core 0 x.1 = some k → s.stale k = true →
      exec x.2 s = .next (s.ends core 0 k 0x0C k.soFar ((s.coreAt core).eventsOf k))) ∧
    (runs 6 → ends (.mark core) u 0 0) ∧
    (runs 5 → let t := u.modCore core (fun c => { c with mx := c.mx.clearRows (bitsAt p 17 1) arow rows })
      ends (.zero core) t 0 rows ∧
      ∀ b < 2, ∀ r < 256, ∀ c < 64, (mx t).accAt b r c =
        if b = bitsAt p 17 1 ∧ arow ≤ r ∧ r < arow + rows then 0 else (mx s).accAt b r c) ∧
    (runs 2 → bit p 27 = false → calmly k.x →
      let e := u.objAt (objOf k.x)
      let n := 128 * (if fmt < 3 then 64 else if fmt = 7 then 68 else 66)
      let a := u.localAddr e (cursorOf k.x)
      let l : Latch := { fmt := fmt, bytes := Memory.read u.mem a n, tags := (List.range (n / 16)).map (fun i => u.tagAt (a + 16 * i)),
                         obj := objOf k.x, gen := e.gen, own := isOwn k.x, rbits := rbitsOf k.x }
      ends (.loadb core) (u.modCore core (fun c => { c with mx := { c.mx with latch := some l } })) 0 (n / 128)) ∧
    (runs 2 → bit p 27 = true → isOwn k.x = true → calmly k.x → ∀ r, (u.coreAt core).ring = some r →
      (r.asid ≠ k.asid → ends (.ringClaim core) u 4 0) ∧
      (r.asid = k.asid → u.loading (objOf k.x) = false → u.loading r.latch.obj = false → exec (.loadb core) s = .next (u.claimTile core k r) ∧
        exec (.ringClaim core) s = .next (u.claimTile core k r))) ∧
    (runs 2 → bit p 27 = true → (u.coreAt core).ring = none → exec (.ringClaim core) s = .next u) ∧
    (runs 3 →
      ((mx u).latch = none → ends (.passb core) u 1 0) ∧
      (∀ l, (mx u).latch = some l →
        let e := u.objAt l.obj
        let mine : Bool := l.own && !bit l.rbits 2 && genCurrent e l.gen && e.ownCore == core && e.ownCtx == k.asid && !e.transit
        (mine = false → ends (.passb core) u 3 0) ∧
        (mine = true → u.loading l.obj = false → (u.coreAt (ringNext core)).ring = none →
          let v := (u.drainObj l.obj).writeBackObj core l.obj
          (v.objAt l.obj).gen < 65535 → Leads (exec (.passb core) s) (fun t =>
            (mx t).latch = none ∧ t.outcome core 0 k = some (0, tileRows l.fmt, 0, none) ∧
            (t.objAt l.obj).transit = true ∧ (t.objAt l.obj).gen = (v.objAt l.obj).gen + 1 ∧
            (t.coreAt (ringNext core)).ring = some ⟨{ l with gen := (v.objAt l.obj).gen + 1 }, k.asid⟩)))) ∧
    (runs 4 → k.wrote = 0 →
      let f := drainFmt fmt
      let n := if fmt = 0 then 2 * rows else if fmt < 3 then rows else (rows + 1) / 2
      let vs := (List.range rows).flatMap (fun i => (List.range 64).map (fun j => (mx u).accAt (bitsAt p 17 1) (arow + i) j))
      let r := drainValues f (bitsAt p 25 3) (bit p 24) vs k.y.lo
      let bs := drainBytes fmt r.1 n
      let drains (c : CReg) (xs : List (Nat × Nat × Nat)) : Prop :=
        let t := u.engineWrite (u.cmdParty core 0 k) (objOf c) xs bs
        let t := if bit p 23 then t.modCore core (fun c => { c with mx := c.mx.clearRows (bitsAt p 17 1) arow rows }) else t
        exec (.drain core) s = .next (t.ends core 0 k 0 n (drainEvents r.2))
      (bit p 22 = false → calmly k.x → isOwn k.x = true → drains k.x (u.spansAt k.asid (objOf k.x) (cursorOf k.x) (128 * n)) ∧
        (let a := u.localAddr (u.objAt (objOf k.x)) (cursorOf k.x)
         (u.objAt (objOf k.x)).level < 3 → (u.objAt (objOf k.x)).ptab = false → a + 128 * n ≤ hostBase → Memory.wf s.mem = true → settled →
          Leads (exec (.drain core) s) (fun t => ∀ x, Memory.get t.mem x =
            if a ≤ x ∧ x < a + 128 * n then bs.getD (x - a) 0 else Memory.get s.mem x))) ∧
      (bit p 22 = true → ∀ q, u.liveQueue core (bitsAt p 19 3) = some q → u.spoiled q.cap = false → n ≤ q.room →
        u.ordered (u.cmdParty core 0 k) (objOf q.cap) → drains q.cap (u.rowSpans q q.prod n))) ∧
    (runs 1 → k.wrote = 0 →
      let c := pairClass fmt
      let sr := if c = 3 then (rows + 31) / 32 else if c = 4 then (rows + 15) / 16 else 0
      let q := bitsAt p 25 3
      let sq := if sr = 0 then q else bitsAt p 22 3
      ∀ x, u.liveQueue core q = some x → ∀ y, u.liveQueue core sq = some y → ∀ l, (mx u).latch = some l →
      pairClass l.fmt = c → rows ≤ x.filled → sr ≤ y.filled → u.spoiled x.cap = false → u.spoiled y.cap = false →
      let v := (x.nextClks rows ++ (if sr = 0 then [] else y.nextClks sr)).foldl (fun v z => v.engineAcquire core k.asid 16 z) u
      v.ordered (v.cmdParty core 0 k) (objOf x.cap) → v.ordered (v.cmdParty core 0 k) (objOf y.cap) →
      let as_ := u.engineBytes (u.rowSpans x x.read rows)
      let ss := u.engineBytes (u.rowSpans y y.read sr)
      let sum (i j : Nat) : Machine.Sum := passSum 44 (passTerms (decide (3 ≤ c))
        ((List.range (depthOf fmt)).map (fun z => mxAt fmt (as_.drop (128 * i)) z)) (latchCol l j) (rowScales c ss i) (latchScales l j))
      Leads (exec (.mma core []) s) (fun t =>
        (∀ r < 256, ∀ j < 64, (mx t).accAt (bitsAt p 20 1) r j =
          if arow ≤ r ∧ r < arow + rows then accAdd ((mx s).accAt (bitsAt p 20 1) r j) (sum (r - arow) j)
          else (mx s).accAt (bitsAt p 20 1) r j) ∧
        (∀ r < 256, ∀ j < 64, (mx t).accAt (1 - bitsAt p 20 1) r j = (mx s).accAt (1 - bitsAt p 20 1) r j) ∧
        (t.queueAt core q).map (fun z => z.read) = some ((x.read + rows + (if sq = q then sr else 0)) % 2 ^ 32) ∧
        (t.outcome core 0 k).map (fun z => (z.1, z.2.1)) = some (0, rows) ∧ (settled → t.mem = s.mem)))

/-- The commands of e1, and RGET and RPUT, write their destinations or send their requests (R192, R204, R205, R206, R207, R208,
R212, R383). -/
def Obligations.TransferCommandsRun : Prop :=
  ∀ (s : State) (core : Nat) (k : Cmd),
    let p := k.param
    let runs (port code : Nat) : Prop := s.runnable core port code = some k ∧ s.stale k = false
    let part := (s.domAt core k.asid).part
    -- a strand that the end of the command lets past its barrier goes on there, with nothing pending
    let settled : Prop := ∀ c i n m, (s.slotAt c i).state = .wait (.barrier n m) → (s.slotAt c i).pend = .none
    -- what DECRYPT does, and with a mishap of its read
    let deciphers (h : Option Mishap) : Out := if h = none then exec (.decrypt core) s else s.runDecrypt core h
    (let u := s.engineStart core 1 k
     let who := u.cmdParty core 1 k
     let n := bitsAt p 0 41
     let sound (c : CReg) : Prop := u.spoiled c = false ∧ u.quietFor core 1 k c
     let target (c : CReg) : Prop := u.spoiled c = false ∧ u.ordered who (objOf c)
     let fresh := k.wrote = 0 ∧ k.got = []
     let xs (n : Nat) := u.spansAt k.asid (objOf k.x) (cursorOf k.x) n
     let ys := u.spansAt k.asid (objOf k.y) (cursorOf k.y) n
     let pattern (n : Nat) := (List.range n).map (fun i => (leBytes 16 k.z.val.toNat).getD (i % 16) 0)
     (∀ (m : Option Mishap) (host : Bool),
       let cut := match m.filter (fun x => (x.status == 7 || x.status == 8 || (host && x.status == 10)) && decide (x.after < n)) with
         | some x => (x.after, x.status)
         | none => (n, 0)
       let writes (u : State) (i : Instr) (bs : List Byte) : Prop := exec i s = .next (
         ((u.engineWrite who (objOf k.y) (takeSpans ys cut.1) bs).poisonDest core 1 k cut.2).ends core 1 k cut.2 cut.1 0)
       0 < n → fresh →
       (runs 1 0x10 → host = ((u.objAt (objOf k.x)).level == 4) → sound k.x → target k.y → spanTotal (xs n) = n →
         spanTotal (xs cut.1) = cut.1 → spanTotal ys = n →
         let bs := u.engineBytes (xs cut.1)
         writes (u.modCmd core 1 k (fun x => { x with got := bs })) (.copy core m) bs) ∧
       (runs 1 0x12 → host = false → target k.y → spanTotal ys = n → writes u (.fill core m) (pattern cut.1))) ∧
     (∀ m, n = 0 → (runs 1 0x10 → u.spoiled k.x = false → u.spoiled k.y = false → u.zeroOk k.asid (objOf k.x) (cursorOf k.x) = true →
       ∀ a, u.flatNow k.asid (objOf k.y) (cursorOf k.y) = .ok a →
         let v := if hostBase ≤ a then { u with out := u.out ++ [.hostWrite (a - hostBase) []] } else u
         exec (.copy core m) s = .next (v.ends core 1 k 0 0 0))) ∧
     (∀ m, ∀ x ∈ [(0x10, Instr.copy core m), (0x11, .move core), (0x12, .fill core m), (0x14, .ckpt core m)],
       s.runnable core 1 x.1 = some k → s.stale k = true → exec x.2 s = .next (s.ends core 1 k 0x0C k.soFar ((s.coreAt core).eventsOf k))) ∧
     (∀ m, s.runnable core 1 0x13 = some k → s.stale k = true →
       let out := deciphers m
       let id := k.z.val.toNat % 256
       let steps (w : State) : Prop := out = .next (w.ends core 1 k 0x0C k.soFar ((s.coreAt core).eventsOf k))
       (lookT (s.partAt part).streams id = none ∨ (s.partAt part).tdi ≠ 2 → steps s) ∧
       (∀ st, lookT (s.partAt part).streams id = some st → (s.partAt part).tdi = 2 → part ≠ 0 → st.counter < 2 ^ 64 - 1 →
         steps (s.modPart part (fun q => { q with streams := putT q.streams id { st with counter := st.counter + 1 } })))) ∧
     (let e := u.objAt (objOf k.y)
      let a := u.localAddr e (cursorOf k.y)
      let only (i : Instr) (bs : List Byte) : Prop := Leads (exec i s) (fun t => ∀ x, Memory.get t.mem x =
        if a ≤ x ∧ x < a + n then bs.getD (x - a) 0 else Memory.get u.mem x)
      target k.y → fresh → e.level < 3 → e.ptab = false → a + n ≤ hostBase → Memory.wf u.mem = true → settled →
        (runs 1 0x12 → only (.fill core none) (pattern n)) ∧
        (runs 1 0x10 → sound k.x → spanTotal (xs n) = n → only (.copy core none) (u.engineBytes (xs n)))) ∧
     (runs 1 0x11 → isOwn k.x = true → sound k.x → u.loading (objOf k.x) = false →
       let o := objOf k.x
       let len := (u.objAt o).length
       (u.room (objOf k.y) len true = none → exec (.move core) s = .next (u.ends core 1 k 5 0 0)) ∧
       (∀ base, u.room (objOf k.y) len true = some base → spanTotal (u.spansAt k.asid o 0 len) = len →
         let pool := u.objAt (objOf k.y)
         let there : Obj := { u.objAt o with level := pool.level, key := pool.key, base := base, poolId := objOf k.y }
         spanTotal (u.spansIn k.asid there 0 len) = len →
         let v := ((u.drainObj o).writeBackObj core o).dropAllLines o
         (v.objAt o).gen < 65535 →
         let w := ((v.bumped o).rehome o (objOf k.y) base k.asid).modObj o (fun e => { e with transit := true })
         exec (.move core) s = .next (w.ends core 1 k 0 len 0 (some (w.ownCap o (rbitsOf k.x) (cursorOf k.x)))))) ∧
     (runs 1 0x13 →
       ∀ (h : Option Mishap),
       let out := deciphers h
       let id := k.z.val.toNat % 256
       let m := bitsAt p 0 36
       let from_ := u.spansAt k.asid (objOf k.x) (cursorOf k.x) (m + 16)
       let to_ := u.spansAt k.asid (objOf k.y) 0 m
       ((u.partAt part).tdi ≠ 2 → out = .next (u.ends core 1 k 0x0E 0 0)) ∧
       (lookT (u.partAt part).streams id = none → out = .next (u.ends core 1 k 0x0E 0 0)) ∧
       (∀ st, lookT (u.partAt part).streams id = some st → (u.partAt part).tdi = 2 → part ≠ 0 → st.counter < 2 ^ 64 - 1 →
         let next_ := { st with counter := st.counter + 1 }
         let w := u.modPart part (fun q => { q with streams := putT q.streams id next_ })
         let o := objOf k.y
         (u.spoiled k.x = true ∨ u.spoiled k.y = true → out = .next (w.ends core 1 k 8 0 0)) ∧
         (∀ x, h = some x → x.status = 7 ∨ x.status = 8 ∨ x.status = 10 ∧ (u.objAt (objOf k.x)).level = 4 → x.after < m + 16 →
           u.spoiled k.x = false → u.spoiled k.y = false → spanTotal from_ = m + 16 → spanTotal to_ = m → u.loading o = false →
           out = .next ((w.poisonDest core 1 k x.status).ends core 1 k x.status 0 0)) ∧
         (target k.y → u.spoiled k.x = false → spanTotal from_ = m + 16 → spanTotal to_ = m → u.loading o = false →
           let v := w.drainObj o
           (v.objAt o).gen < 65535 →
           let src_ := v.engineBytes from_
           let a := v.localAddr (v.objAt o) 0
           Leads (exec (.decrypt core) s) (fun t => lookT (t.partAt part).streams id = some next_ ∧
             match gcmOpen st.key (.ofNat 96 (st.salt.toNat * 2 ^ 64 + st.counter)) (src_.take m) (.ofNat 128 (leNat (src_.drop m))) with
             | some bs => (t.outcome core 1 k).map (fun z => (z.1, z.2.1)) = some (0, m) ∧ (t.objAt o).transit = true ∧
                 (t.objAt o).gen = (v.objAt o).gen + 1 ∧
                 ((v.objAt o).level < 3 → (v.objAt o).ptab = false → a + m ≤ hostBase → Memory.wf v.mem = true → settled →
                   ∀ x, Memory.get t.mem x = if a ≤ x ∧ x < a + m then bs.getD (x - a) 0 else Memory.get v.mem x)
             | none => (t.outcome core 1 k).map (fun z => z.1) = some 9)))) ∧
     (let y := u.objAt (objOf k.y)
      let m := min 4096 (n - k.wrote)
      let xs := u.spansAt k.asid (objOf k.x) (cursorOf k.x + k.wrote) m
      let bs := u.engineBytes xs
      let body := Body.ewrite core 1 k.seq y.homeObj y.homeGen (cursorOf k.y + k.wrote) bs
      let u := u.modCmd core 1 k (fun x => { x with got := bs })
      runs 1 0x14 → sound k.x → u.spoiled k.y = false → spanTotal xs = m →
        0 < m ∨ u.zeroOk k.asid (objOf k.x) (cursorOf k.x + k.wrote) = true →
        (u.inject part y.homeDev true 0 core k.asid body = none → exec (.ckpt core none) s = .next (u.remoteEnds core 1 k 0x0A)) ∧
        (∀ v, u.inject part y.homeDev true 0 core k.asid body = some v →
          exec (.ckpt core none) s = .next (v.modCmd core 1 k (fun x => { x with sent := true, since := s.time }))))) ∧
    (let u := s.engineStart core 2 k
     let n := bitsAt p 0 40
     let sound (c : CReg) : Prop := u.spoiled c = false ∧ u.quietFor core 2 k c
     let m := min 4096 (n - k.wrote)
     let xs := u.spansAt k.asid (objOf k.x) (cursorOf k.x + k.wrote) m
     let ys := u.spansAt k.asid (objOf k.y) (cursorOf k.y + k.wrote) m
     let bs := u.engineBytes xs
     let x := u.objAt (objOf k.x)
     let y := u.objAt (objOf k.y)
     let supv := (s.domAt core k.asid).supv
     let asks (i : Instr) (u : State) (dev : Nat) (b : Body) : Prop :=
       (u.inject part dev supv 0 core k.asid b = none → exec i s = .next (u.remoteEnds core 2 k 0x0A)) ∧
       (∀ v, u.inject part dev supv 0 core k.asid b = some v →
         exec i s = .next (v.modCmd core 2 k (fun x => { x with sent := true, since := s.time })))
     (runs 2 0x25 → sound k.x → u.spoiled k.y = false → spanTotal xs = m →
       0 < m ∨ u.zeroOk k.asid (objOf k.x) (cursorOf k.x + k.wrote) = true →
       asks (.rput core none) (u.modCmd core 2 k (fun x => { x with got := bs })) y.homeDev
         (.ewrite core 2 k.seq y.homeObj y.homeGen (cursorOf k.y + k.wrote) bs)) ∧
     (runs 2 0x24 → u.spoiled k.y = false → u.spoiled k.x = false → spanTotal ys = m →
       0 < m ∨ u.zeroOk k.asid (objOf k.y) (cursorOf k.y + k.wrote) = true →
       asks (.rget core none) u x.homeDev (.eread core 2 k.seq x.homeObj x.homeGen (cursorOf k.x + k.wrote) m)) ∧
     (∀ m, ∀ x ∈ [(0x24, Instr.rget core m), (0x25, .rput core m)], s.runnable core 2 x.1 = some k → s.stale k = true →
       exec x.2 s = .next (s.ends core 2 k 0x0C k.soFar ((s.coreAt core).eventsOf k))))

/-- AREDUCE, AGATHER and BCAST write one result for all members; SHUFFLE sends its blocks (R209, R210, R211, R213, R358). -/
def Obligations.CollectivesAndShuffleRun : Prop :=
  ∀ (s : State) (core : Nat) (k : Cmd) (others : List Member),
    let dev := s.devOf k.asid
    let part := (s.domAt core k.asid).part
    let g := bitsAt k.param 56 8
    let ms := s.membersOf part g
    -- a strand that the end of the command lets past its barrier goes on there, with nothing pending
    let settled : Prop := ∀ c i n m, (s.slotAt c i).state = .wait (.barrier n m) → (s.slotAt c i).pend = .none
    (∀ x ∈ [(0x20, Instr.areduce core others), (0x21, Instr.agather core others), (0x22, Instr.bcast core others)],
      s.runnable core 2 x.1 = some k → k.got = [] → (dev, core) ∈ ms →
      let code := x.1
      let ls? := s.localMembers k.asid code g ms
      let far? := farMembers dev ms others
      (s.runnables core 2 x.1 = [k] → ls? = none ∨ far? = none → exec x.2 s = .next s) ∧
      (∀ ls, ls? = some ls → ∀ far, far? = some far →
        let u := ls.foldl (fun u l => u.engineStart l.core 2 l.cmd) s
        let root := k.z.val.toNat
        let alike := (∀ l ∈ ls, l.cmd.param = k.param ∧ l.cmd.z.val.toNat = root) ∧ ∀ m ∈ far, m.param.toNat = k.param ∧ m.z.toNat = root
        (¬alike → exec x.2 s = .next (ls.foldl (fun t l => t.ends l.core 2 l.cmd 0x0B 0 0) u)) ∧
        (alike →
          (∀ l ∈ ls, u.spoiled l.cmd.x = false ∧ u.spoiled l.cmd.y = false ∧ u.stale l.cmd = false ∧ l.cmd.wrote = 0 ∧
            u.quietFor l.core 2 l.cmd l.cmd.x ∧
            ((code = 0x22 → root = l.rank) → sourceLen code k.param ≤ spanTotal (u.readsOf code l)) ∧
            u.bytesOf l.core 2 l.cmd ≤ spanTotal (u.writesOf l)) →
          let src_ (r : Nat) : List Byte := match ls.find? (fun l => l.rank == r), far.find? (fun m => m.rank == r) with
            | some l, _ => u.engineBytes (u.readsOf code l)
            | none, some m => m.bytes
            | none, none => []
          let srcs := (List.range ms.length).map src_
          let res := if code = 0x20 then redAll k.param srcs else if code = 0x21 then (srcs.flatten, 0) else (srcs.getD root [], 0)
          let has (t : State) (l : Local) : State := t.modCmd l.core 2 l.cmd (fun k => { k with got := res.1, events := res.2 })
          let v := ls.foldl (fun t l => if l.cmd.read then t else t.modCmd l.core 2 l.cmd (fun k => { k with read := true })) u
          let put (t : State) (l : Local) : State :=
            ((has t l).engineWrite (t.cmdParty l.core 2 l.cmd) (objOf l.cmd.y) (t.writesOf l) res.1).ends l.core 2 l.cmd 0
              (t.bytesOf l.core 2 l.cmd) res.2
          (∀ i l, ls[i]? = some l → let t := (ls.take i).foldl put v
            t.ordered (t.cmdParty l.core 2 l.cmd) (objOf l.cmd.y)) →
          exec x.2 s = .next (ls.foldl put v)))) ∧
    (let id := k.z.val.toNat % 65536
     s.runnable core 2 0x23 = some k → s.stale k = true →
      (heads [] ((s.coreAt core).port 2)).find? (fun k => k.code_ == 0x23 && k.sent && k.done.isNone && !k.stopped) = none →
      exec (.shuffle core) s = .next ((s.modPart part (fun p => { p with shuffles := mapT p.shuffles id (fun x => { x with ran := true }) })).ends
        core 2 k 0x0C k.soFar ((s.coreAt core).eventsOf k))) ∧
    (s.runnable core 2 0x23 = some k → s.stale k = false →
      (heads [] ((s.coreAt core).port 2)).find? (fun k => k.code_ == 0x23 && k.sent && k.done.isNone && !k.stopped) = none →
      let u := s.engineStart core 2 k
      let id := k.z.val.toNat % 65536
      (lookT (u.partAt part).shuffles id = none → exec (.shuffle core) s = .next (u.ends core 2 k 0x0B 0 0)) ∧
      (∀ sh, lookT (u.partAt part).shuffles id = some sh →
        let plan := planOf sh.plan
        let outs := plan.sends (s.jobDev part)
        let xs (x : Xfer) : List (Nat × Nat × Nat) := u.spansAt k.asid (objOf k.x) (cursorOf k.x + x.srcOff) plan.len
        (sh.invalid = true ∨ sh.ran = true → exec (.shuffle core) s = .next (u.ends core 2 k 0x0B 0 0)) ∧
        let n := packetsOf plan.len
        let w := u.modPart part (fun p => { p with shuffles := mapT p.shuffles id (fun x => { x with ran := true }) })
        let whole : Prop := ∀ x ∈ outs, plan.len ≤ spanTotal (xs x)
        let room (c : CReg) (n : Nat) : Prop := n = 0 ∨ cursorOf c + n ≤ (u.objAt (objOf c)).length
        let roomy : Prop := room k.x (plan.outExtent (s.jobDev part)) ∧ room k.y (plan.inExtent (s.jobDev part))
        (sh.invalid = false → sh.ran = false →
          (u.spoiled k.x = true ∨ u.spoiled k.y = true → exec (.shuffle core) s = .next (w.ends core 2 k 8 0 0)) ∧
          (u.spoiled k.x = false → u.spoiled k.y = false →
            (¬whole → exec (.shuffle core) s = .next (w.ends core 2 k 6 0 0)) ∧
            (whole → sh.bad = true ∨ ¬roomy → exec (.shuffle core) s = .next (w.ends core 2 k 0x0B 0 0)))) ∧
        (sh.invalid = false → sh.ran = false → sh.bad = false → u.spoiled k.x = false → u.spoiled k.y = false → u.quietFor core 2 k k.x →
          whole → roomy → (∀ x ∈ outs, (u.remapOf part x.dst).isSome = true) → s.lakes = [] →
          Leads (exec (.shuffle core) s) (fun t =>
            (∃ y, lookT (t.partAt part).shuffles id = some y ∧ y.ran = true) ∧
            (∃ r ∈ (t.partAt part).active, r.id = id ∧ r.core = core ∧ r.placed = [] ∧ r.sent.map (fun y => y.1) = outs.map (fun x => x.block)) ∧
            (settled → t.mem = u.mem) ∧ ∀ x ∈ outs, ∀ i < n, ∃ q, Output.packet 8 q ∈ t.out ∧ q.nocode = false ∧
              q.body = .block (blockOf id sh.digest x (u.engineBytes (xs x)) i)))))

/-- COMMAND_COMPLETION makes an end visible; LEAVE_GRANT grants leave; COMMAND_REMOTE_TIMEOUT ends a command (R191, R192, R193,
R384, R385, R407). -/
def Obligations.CommandsEndAndAreGranted : Prop :=
  ∀ (s : State) (core : Nat) (e : EP) (k : Cmd) (ks : List Cmd),
    let port := (s.coreAt core).port e.val
    let first (f : Cmd → Bool) : Option Cmd := (heads [] port).find? f
    let d := s.domAt core k.asid
    (port = [] → exec (.commandCompletion core e) s = .next s ∧ exec (.leaveGrant core e) s = .next s ∧
      exec (.commandRemoteTimeout core e) s = .next s) ∧
    (port = k :: ks → (∀ x ∈ ks, x.asid = k.asid) → s.hasDom core k.asid = true →
      ∀ status count events el, k.done = some (status, count, events, el) →
      let always := (k.h.val.extractLsb' 0 8 == 2 && k.h.val.getLsbD 91) || k.h.val.extractLsb' 0 8 == 0x11
      let queues := k.h.val.getLsbD 56 || el.isSome || always
      (queues = true → (d.results e.val).length < 16) →
      clkAt (d.engineClk (16 + e.val)) (16 + e.val) < clkMax →
      (∀ c i n m, (s.slotAt c i).state = .wait (.barrier n m) → (s.slotAt c i).pend = .none) →
      Leads (exec (.commandCompletion core e) s) (fun t =>
        let d' := t.domAt core k.asid
        ((t.coreAt core).port e.val).map (fun x => (x.asid, x.seq, x.done)) =
          (ks.filter (fun x => x.seq != k.seq)).map (fun x => (x.asid, x.seq, x.done)) ∧
        lookT d'.doneSeq e.val = some k.seq ∧
        d'.tags = (if k.h.val.getLsbD 57 then d.tags ||| .ofNat 64 (2 ^ (k.h.val.extractLsb' 58 6).toNat) else d.tags) ∧
        (d'.results e.val).map (fun x => x.val) = (d.results e.val).map (fun x => x.val) ++ (if queues then
          [el.getD (word128 (.ofNat 128 (count % 2 ^ 64 * 2 ^ 64 + (k.h.val.extractLsb' 58 6).toNat * 2 ^ 58
            + (k.h.val.extractLsb' 0 8).toNat * 2 ^ 50 + events % 256 * 2 ^ 32 + k.seq % 65536 * 2 ^ 16 + status)))] else []) ∧
        ∀ c i, (t.slotAt c i).c = (s.slotAt c i).c)) ∧
    (first (fun x => x.done.isNone && !s.hasLeave core e.val x && s.leaveFirst core x) = some k →
      let again := decide (0 < k.leave)
      (s.grantOpen (core / 2048) again = false → exec (.leaveGrant core e) s = .next s) ∧
      (s.grantOpen (core / 2048) again = true →
        let w := s.time - k.since
        let u := if 0 < w then s.count core k.asid 0x121 w else s
        let u := if 0 < w ∧ k.waited = false then u.count core k.asid 0x120 1 else u
        exec (.leaveGrant core e) s = .next ((u.modCmd core e.val k (fun x =>
          { x with leave := x.leave + 1, since := s.time, waited := x.waited || decide (0 < w) })).modDie
            (core / 2048) (fun x => { x with granted := x.granted + 1 - again.toNat, grantAt := some s.time })))) ∧
    (first (fun x => x.done.isNone && !x.stopped && s.waitsRemote core x && decide (x.since + 100000 ≤ s.time)) = some k →
      exec (.commandRemoteTimeout core e) s = .next ((s.ends core e.val k 0x0A k.soFar ((s.coreAt core).eventsOf k)).count core k.asid 0x0C5 1)) ∧
    (first (fun x => x.done.isNone && !x.stopped && s.waitsRemote core x && decide (x.since + 100000 ≤ s.time)) = none →
      exec (.commandRemoteTimeout core e) s = .next s)

/-- Steps of the memory system end the waits of strands: walks, updates, stores, timeouts, commits, transfers (R125, R126, R127,
R222, R226, R230, R232, R233, R240, R241, R375). -/
def Obligations.MemoryStepsEndWaits : Prop :=
  ∀ (s : State) (c i : Nat),
    let t := s.slotAt c i
    let alone := t.pair = 0 ∧ t.pend = .none
    let frozen (code : Nat) (u : State) : Prop := u.slotAt c i = { t with state := .frozen, lastCode := code, again := false }
    (∀ asid page va l, let die := c / 2048
      s.walkers die asid page = [(c, i, va, l)] → alone →
      (s.dies.filter (fun d => d.2.active.contains (asid, page))).map (fun d => d.1) = [die] →
      let v := (s.modDie die (fun d => { d with walks := d.walks.erase (asid, page) })).keepTrail die asid va
      (∀ p, v.walkBy die asid l va = .ok p → Leads (exec (.pageWalk asid page) s) (fun u =>
        u.slotAt c i = { t with state := .ready } ∧ (⟨asid, p.va, p.size, p.tgt, p.pa⟩ : Tlb) ∈ (u.coreAt c).tlb ∧ u.mem = s.mem)) ∧
      (∀ x, v.walkBy die asid l va = .error x → Leads (exec (.pageWalk asid page) s) (frozen 0x09))) ∧
    (∀ o, (s.loading o = true → exec (.entryUpdate o) s = .next s) ∧
      (s.loading o = false → Leads (exec (.entryUpdate o) s) (fun u => u.mem = s.mem ∧
        u.slotAt c i = if t.state = .wait (.entry o) then { t with state := .ready } else t))) ∧
    (∀ n, t.state = .wait (.translation n) → alone → t.sbuf = [] → 0 < n → Leads (exec (.translationStore c i) s) (fun u =>
      u.slotAt c i = ({ t with state := .ready, retired := t.retired + 1, insn := 0, again := false } : Slot).setPc (t.pc + n))) ∧
    (∀ a n, t.state = .wait (.reply a n) → alone → a.pops = [] →
      ((s.objAt a.obj).level = 4 → Leads (exec (.timeout c i) s) (frozen 0x1C)) ∧
      (∀ r, t.region = some r → (s.objAt a.obj).level = 5 → t.waited s.time = true →
        let dev := (s.objAt a.obj).homeDev
        r.e ≠ 0 → 0 ≤ r.target → r.target + 2 ≤ (s.objAt (objOf r.code)).length → r.target < 2 ^ 48 →
        Leads (exec (.noReply c i dev) s) (fun u => u.slotAt c i = ({ t with
          c := putT r.c r.e (word64 (.ofNat 64 (dev % 2 ^ 16 * 2 ^ 16 + 1))), p := r.p, code := r.code, fpmode := r.fpmode,
          fpflags := r.fpflags, seed := r.seed, region := none, state := .ready, retired := t.retired + 1, insn := 0, again := false } : Slot).setPc r.target.toNat))) ∧
    (∀ r, t.region = some r → ∀ x, r.commit = some x → t.state = .wait .commit → alone → t.streams = [] → x.answers = [] →
      let ans (d : Nat) : List (Nat × Option Nat) := [(d, none)]
      let n := x.dests.length
      0 < n → s.time ≤ x.sent + 100000 →
      Leads (exec (.commitOutcome c i (x.dests.flatMap ans)) s) (fun u => u.slotAt c i =
        (({ t with state := .ready, region := none, retired := t.retired + 1, insn := 0, again := false } : Slot).setPc (t.pc + 4)).setReg (x.sr % 32)
          (word64 (.ofNat 64 (n % 256 * 2 ^ 40)))) ∧
      (s.time < x.sent + 100000 → Leads (exec (.commitOutcome c i []) s) (fun u => u.slotAt c i = t ∧ u.mem = s.mem ∧ u.net = s.net))) ∧
    (∀ k, s.cleaning = [k] → (s.objAt k.pool).entKind = 2 → Leads (exec (.cleaningDone k.pool k.base) s) (fun u =>
      u.cleaning = [] ∧ (u.objAt k.pool).inUse = (s.objAt k.pool).inUse - k.len ∧ u.mem = s.mem)) ∧
    (∀ o, ∀ x, s.transfers.find? (fun x => x.obj == o && x.sent.isNone) = some x →
      ∀ m, s.net.find? (fun m => m.pay.any (fun y => isOwn y && objOf y == o)) = some m → m.dstDev = s.devOf m.srcCtx →
      ∀ l, x.copyTo = some l →
        let k := s.clusterAt ((s.objAt o).ownCore / 32)
        let pool := (s.domAt m.dstCore m.dstCtx).rx l
        let of_ (m : Msg) : Bool := m.pay.any (fun y => isOwn y && objOf y == o)
        let fallback (m : Msg) : Msg := if of_ m = true ∧ m.form = 2 then
          { m with pay := [m.pay.getD 0 CReg.zero, word64 (.ofNat 64 ((m.pay.getD 1 CReg.zero).lo ||| 1))] } else m
        (k.halted = true → exec (.transferPlacement o) s = .next s) ∧
        (k.halted = false → x.leave < s.copyLeave x → s.grantOpen ((s.objAt o).ownCore / 2048) (decide (0 < x.leave)) = true →
          Leads (exec (.transferPlacement o) s) (fun u => u.objAt o = s.objAt o ∧ u.mem = s.mem ∧ u.net = s.net ∧
            u.transfers = s.transfers.map (fun y => if y.obj = o then { y with leave := y.leave + 1 } else y))) ∧
        (k.halted = false → s.copyLeave x ≤ x.leave → (pool = none ∨ ∀ p ∈ pool, s.room p (s.objAt o).length true = none) →
          Leads (exec (.transferPlacement o) s) (fun u => u.objAt o = s.objAt o ∧ u.mem = s.mem ∧
            u.transfers = s.transfers.filter (fun y => y.obj != o) ∧ u.net = s.net.map fallback)) ∧
        (k.halted = false → s.copyLeave x ≤ x.leave → ∀ p, (s.domAt m.dstCore m.dstCtx).rx l = some p → ∀ b, s.room p (s.objAt o).length true = some b →
          Leads (exec (.transferPlacement o) s) (fun u => (u.objAt o).poolId = p ∧ (u.objAt o).base = b ∧
            (u.objAt o).level = (s.objAt p).level ∧ u.transfers = s.transfers.filter (fun y => y.obj != o)))) ∧
    (∀ o, ∀ x, s.transfers.find? (fun x => x.obj == o) = some x → ∀ y, x.sent = some y →
      (s.time < y.1 → exec (.transferBounce o) s = .next s) ∧
      (y.1 ≤ s.time → y.2.form < 4 → y.2.srcDev = s.devOf y.2.srcCtx → s.hasDom y.2.srcCore y.2.srcCtx = true →
        s.landingOf y.2 = none → s.held_ y.2.srcDev y.2.srcCore y.2.srcCtx = false →
        Leads (exec (.transferBounce o) s) (fun u => u.net = s.net ++ [bounceMsg y.2 (s.carriesPoison y.2)] ∧
          ∀ z ∈ y.2.pay, isOwn z = true → (u.objAt (objOf z)).transit = false)))

/-- Starts, messages, spilled entries and levelled work move as R277 to R286 say (R18, R155, R270, R277, R278, R282, R283, R285,
R286). -/
def Obligations.StrandsArriveMoveAndSpill : Prop :=
  ∀ (s : State) (c : Nat),
    let k := s.coreAt c
    (∀ i rest, k.starts = i :: rest → ∀ d a b : CR, s.insnAt c i = some (.hstart d a b) →
      let t := s.slotAt c i
      let code := t.reg a.val
      let x := (s.domAt c t.asid).serial % 2 ^ 24
      t.state = .wait .helper → t.pend = .none → t.pair = 0 → t.streams = [] → k.helpers < 10 →
      code.tag = true → wellFormed code = true → kindOf code = 3 → engOnly code = false → k.checkCache.contains (objOf code) = true →
      genCurrent (s.objAt (objOf code)) (genOf code) = true → (∀ r ∈ argRegs b, isShade (t.reg r.val) = false) →
      (s.releaseAll c i .domain).mustRebase c i = false → ∀ j ∈ k.open_.head?, Leads (exec (.helperStart c) s) (fun u =>
        let h := u.slotAt c j
        let p := u.slotAt c i
        h.state = .ready ∧ h.kind = 1 ∧ h.asid = t.asid ∧ h.code = code ∧ h.fpmode = t.fpmode ∧
        (∀ n < 4, h.reg (n + 1) = if b = 0 then CReg.zero else t.reg ((b.val + n) % 32)) ∧
        p.state = .ready ∧ p.pc = (t.pc + 4) % 2 ^ 48 ∧ (u.coreAt c).starts = rest ∧
        (d ≠ 0 → p.reg d.val = word64 (.ofNat 64 (x * 2 ^ 8 + j))))) ∧
    (∀ pick, let ms := (s.arrivals c).filter (fun m => s.placed m)
      let kl := s.clusterAt (c / 32)
      (kl.halted = true ∨ kl.power ≠ 0 → exec (.messageArrival c pick) s = .next s) ∧
      (∀ m, ms[pick % ms.length]? = some m → kl.halted = false → kl.power = 0 → s.hasDom c m.dstCtx = true → k.outOfService = false →
        s.carriesPoison m = false → m.form ≠ 3 → (s.domAt c m.dstCtx).msgRecs = false →
        let bound := (lookT (s.domAt c m.dstCtx).bindings m.cls).isSome
        (k.inbox.length < 64 → (bound = true ∨ k.heldCount < 16) → Leads (exec (.messageArrival c pick) s) (fun u =>
          (u.coreAt c).inbox = k.inbox ++ [⟨m, !bound, k.arrived⟩] ∧ (u.coreAt c).arrived = k.arrived + 1 ∧ (u.coreAt c).episode = (k.episode || decide (63 ≤ k.inbox.length)) ∧
          (s.landingOf m = none → u.mem = s.mem))) ∧
        (64 ≤ k.inbox.length → Leads (exec (.messageArrival c pick) s) (fun u =>
          (u.coreAt c).inbox = k.inbox ∧ (u.coreAt c).episode = true)))) ∧
    (∀ e ∈ k.inbox, let may (x : InboxEntry) : Prop := x.held = false ∧ (s.domAt c x.msg.dstCtx).stopped = false
      may e → (∀ x ∈ k.inbox, may x → x ≠ e → e.order < x.order) → s.carriesPoison e.msg = false →
      ∀ code, lookT (s.domAt c e.msg.dstCtx).bindings e.msg.cls = some code →
      ∀ i, (k.open_.drop (s.reserved c)).head? = some i → Leads (exec (.messageClaim c) s) (fun u =>
        let t := u.slotAt c i
        t.state = .ready ∧ t.kind = 2 ∧ t.asid = e.msg.dstCtx ∧ t.code = code ∧ t.seed = e.msg.hdr ∧ t.cls = e.msg.cls ∧
        (∀ n < 8, t.reg (n + 1) = e.msg.pay.getD n CReg.zero) ∧ t.reg 9 = word64 e.msg.hdr ∧
        (u.coreAt c).inbox = k.inbox.erase e)) ∧
    (∀ v, k.tcc.find? Saved.starting = some v → ∀ t, v.images = [t] →
      (s.slotAt c 0).state = .vacant → s.e0Busy c t.asid = false → Leads (exec (.controlStrandEntry c) s) (fun u =>
        (u.slotAt c 0).state = .ready ∧ (u.slotAt c 0).asid = t.asid ∧ (u.slotAt c 0).code = t.code ∧ (u.slotAt c 0).c = t.c ∧
        (u.coreAt c).holder = some t.asid ∧ (u.coreAt c).tcc = k.tcc.filter (fun x => x.handle != v.handle))) ∧
    (k.tcc = [] → exec (.controlStrandEntry c) s = .next s) ∧
    (∀ a, let d := s.domAt c a
      let n := min 4 (k.inbox.length - 48)
      s.hasDom c a = true →
      (s.maySpill c (.spillOut c) = true → k.heldCount < 16 → (∀ e ∈ k.inbox, e.msg.dstCore = c ∧ e.msg.dstCtx = a ∧
          ∀ m h n, .message m h n ∈ d.heap → n ≤ e.order) →
        k.inbox.Pairwise (fun x y => x.order ≤ y.order) → d.heap.length + 4 ≤ d.heapSize →
        Leads (exec (.spillOut c) s) (fun u => (u.coreAt c).inbox = k.inbox.drop n ∧
          (u.domAt c a).heap = d.heap ++ (k.inbox.take n).map (fun e => .message e.msg e.held e.order) ∧
          (u.coreAt c).episode = decide (48 < k.inbox.length - n))) ∧
      (∀ l : List (Msg × Bool × Nat), s.maySpill c (.spillReplay c a) = true → d.heap = l.map (fun x => .message x.1 x.2.1 x.2.2) → (∀ x ∈ l, x.1.dstCtx = a ∧ x.1.form ≠ 3 ∧ s.carriesPoison x.1 = false ∧
          d.bound x.1.cls = true) →
        Leads (exec (.spillReplay c a) s) (fun u => (u.coreAt c).inbox = k.inbox ++ (l.take 4).map (fun x => ⟨x.1, false, x.2.2⟩) ∧
          (u.domAt c a).heap = d.heap.drop 4)) ∧
      (∀ l : List WorkEntry, s.maySpill c (.workReplay c a) = true → d.heap = l.map .work →
        let m := min 4 (32 - k.work.length)
        Leads (exec (.workReplay c a) s) (fun u => (u.coreAt c).work = k.work ++ l.take m ∧ (u.domAt c a).heap = d.heap.drop m))) ∧
    (s.time % 8192 ≠ 0 → exec .levellingSample s = .next s) ∧
    (∀ a to_ n, s.time % 8192 = 0 → s.domains = [(domKey c a, s.domAt c a), (domKey to_ a, s.domAt to_ a)] → a < 4096 → c ≠ to_ →
      (s.domAt c a).stopped = false → (s.domAt to_ a).stopped = false → s.shipping c a = some (to_, n) → s.shipping to_ a = none →
      (∀ w ∈ k.work, w.asid = a ∧ w.reg.tag = false) → Leads (exec .levellingSample s) (fun u =>
        (u.coreAt c).work.Perm (k.work.take (k.work.length - n)) ∧
        (u.coreAt to_).shipped = (s.coreAt to_).shipped ++ (k.work.drop (k.work.length - n)).map (fun w => (c, w)))) ∧
    (∀ x w, k.shipped = [(x, w)] → w.reg.tag = false → s.hasDom c w.asid = true → k.work.length < 32 → (s.clusterAt (c / 32)).power = 0 →
      (s.domAt c w.asid).workRecs = false → Leads (exec (.workShipArrival c) s) (fun u =>
        (u.coreAt c).work = k.work ++ [w] ∧ (u.coreAt c).shipped = [] ∧ u.mem = s.mem))

/-- Launch records are queued, performed in order with a status each, and retired when quiescent (R264, R266, R270, R272, R273,
R339, R370, R371). -/
def Obligations.LaunchesQueueRunAndRetire : Prop :=
  ∀ (s : State) (fn : Nat) (v : Word),
    let p := s.partAt fn
    let ticket := (v.extractLsb' 56 8).toNat
    let told (u : State) (t code : Nat) : Prop := (u.partAt fn).status = (p.status ++ [(t, code)]).drop (p.status.length + 1 - 64)
    (s.fnOpen fn = false → exec (.launchSubmit fn v) s = .next s ∧ exec (.lqstatusRead fn) s = .next s) ∧
    (s.fnTakes fn = false → exec (.launchSubmit fn v) s = .next s) ∧
    (s.fnTakes fn = true → s.fnOpen fn = true → p.queue.length < 16 → Leads (exec (.launchSubmit fn v) s) (fun u =>
      (u.partAt fn).queue = p.queue ++ [(ticket, (v.extractLsb' 6 34).toNat * 64)] ∧ u.mem = s.mem ∧ u.cores = s.cores)) ∧
    (s.fnTakes fn = true → s.fnOpen fn = true → 16 ≤ p.queue.length → Leads (exec (.launchSubmit fn v) s) (fun u =>
      (u.partAt fn).queue = p.queue ∧ told u ticket 3)) ∧
    (s.fnExists fn = true → p.flr = false → s.fnOpen fn = true →
      (p.status = [] → Leads (exec (.lqstatusRead fn) s) (fun u => u.out = s.out ++ [.hostRead fn 8 0] ∧ u.parts = s.parts)) ∧
      (∀ t rest, p.status = t :: rest → Leads (exec (.lqstatusRead fn) s) (fun u => (u.partAt fn).status = rest ∧
        u.out = s.out ++ [.hostRead fn 8 (2 ^ 63 + t.1 % 256 * 2 ^ 48 + t.2 % 256)]))) ∧
    (s.headRecord fn = none → exec (.launch fn) s = .next s ∧ exec (.launchRetire fn) s = .next s) ∧
    (∀ h, s.headRecord fn = some h →
      let r := h.2.2
      let asid := recAsid r
      let cores := recCores r
      let named := (List.range 4).filterMap (fun g => if bit (recGroup r g) 127 then some (bitsAt (recGroup r g) 119 8) else none)
      (recRetire r = false → named.any (fun g => (lookT p.groups g).isSome) = false →
        let made := ((s.launchContext r fn (cores.headD 0)).bind (fun u => u.launchDebug r fn (cores.headD 0))).bind
          (fun u => State.launchCores r fn cores u [] [])
        Leads (exec (.launch fn) s) (fun u =>
          match s.recordFault fn h.2.1 r, made with
          | some code, _ => (u.partAt fn).queue = p.queue.drop 1 ∧ told u h.1 code ∧ u.domains = s.domains ∧ u.objs = s.objs ∧
              u.cores = s.cores ∧ u.mem = s.mem
          | none, none => told u h.1 3 ∧ u.domains = s.domains ∧ u.objs = s.objs
          | none, some x => (x.1.partAt fn).status = p.status → (x.2.map (fun m => m.1)).Nodup → asid < 4096 →
              (u.partAt fn).queue = (x.1.partAt fn).queue.drop 1 ∧ told u h.1 0 ∧
              (∃ l ∈ (u.partAt fn).running, l.ticket = h.1 ∧ l.asid = asid ∧ l.cores = x.2.map (fun m => m.1)) ∧
              ∀ m ∈ x.2, u.hasDom m.1 asid = true ∧
                ((x.1.slotAt m.1 0).state = .vacant → x.1.e0Busy m.1 asid = false → (x.1.coreAt m.1).tcc.any Saved.starting = false → recSupv r = false →
                  let t := u.slotAt m.1 0
                  t.state = .ready ∧ t.kind = 0 ∧ t.asid = asid ∧ t.pc = recEntry r % 2 ^ 48 ∧ t.c = m.2.1 ∧
                  (u.coreAt m.1).holder = some asid))) ∧
      -- where the record lies in no region of the partition, LAUNCH reports it
      (recRetire r = true → bitsAt (recDword r 0) 15 49 = 0 →
        let outside := Config.outsideRegion fn h.2.1
        (lookT s.ctxs asid = none → Leads (exec (.launchRetire fn) s) (fun u =>
          if outside then u = s else told u h.1 4 ∧ u.ctxs = s.ctxs)) ∧
        (∀ x, lookT s.ctxs asid = some x → x.part = fn → s.domains.any (fun d => d.1 % 4096 == asid) = false →
          Leads (exec (.launchRetire fn) s) (fun u => if outside then u = s else
            told u h.1 6 ∧ lookT u.ctxs asid = none ∧ (u.partAt fn).queue = p.queue.drop 1)))) ∧
    (s.time % 8192 ≠ 0 → exec .quiescenceTest s = .next s) ∧
    (∀ l, p.running = [l] → s.time % 8192 = 0 → s.parts = [(fn, p)] → (∀ c ∈ l.cores, s.quiescent c l.asid = true) →
      Leads (exec .quiescenceTest s) (fun u => (u.partAt fn).running = [] ∧ told u l.ticket 1 ∧
        (∀ g ∈ l.groups, lookT (u.partAt fn).groups g = none) ∧ ∀ c ∈ l.cores, u.hasDom c l.asid = false))

/-- OUT, IN and EXCHANGE save and restore strands; a stopped domain holds its messages back (R183, R184, R279, R287, R288, R289,
R290, R291). -/
def Obligations.StrandsAreSavedRestoredAndStopped : Prop :=
  ∀ (s : State) (c i : Nat) (all : Bool),
    let k := s.coreAt c
    let t := s.slotAt c i
    let result (r : Nat) (u : State) : Prop := (u.coreAt c).schedResult = r ∧ u.mem = s.mem ∧ ∀ j, u.slotAt c j = s.slotAt c j
    let marks (x : Option Nat) (u : State) : Prop := (u.coreAt c).schedBusy = true ∧ u.mem = s.mem ∧
      ∀ j, u.slotAt c j = if j = i then { t.recall with pend := { t.pend with out := some (all, x) } } else s.slotAt c j
    (k.schedBusy = true → ∀ h, Leads (exec (.schedOut c i all) s) (result 1) ∧ Leads (exec (.schedIn c i h all) s) (result 1) ∧
      Leads (exec (.schedExchange c i h all) s) (result 1)) ∧
    (k.schedBusy = false →
      (i = 15 → Leads (exec (.schedOut c i all) s) (result 5)) ∧
      (i ≠ 15 → t.state = .vacant ∨ t.state = .swap → Leads (exec (.schedOut c i all) s) (result 2)) ∧
      (i ≠ 15 → t.state ≠ .vacant → t.state ≠ .swap → t.pair = 0 →
        let room := k.makeRoom 1 64
        (room = none → Leads (exec (.schedOut c i all) s) (result 9)) ∧
        (room.isSome = true → Leads (exec (.schedOut c i all) s) (marks none)) ∧
        ∀ h, (∀ r, s.refuseIn none c i h all [i] = some r → Leads (exec (.schedExchange c i h all) s) (result r)) ∧
          (s.refuseIn none c i h all [i] = none → room.isSome = true → Leads (exec (.schedExchange c i h all) s) (marks (some h)))) ∧
      (∀ h, (∀ r, s.refuseIn none c i h all [] = some r → Leads (exec (.schedIn c i h all) s) (result r)) ∧
        (s.refuseIn none c i h all [] = none → ∀ v, k.saved h = some v → v.control = false → ∀ a, v.images = [a] →
          Leads (exec (.schedIn c i h all) s) (fun u => (u.coreAt c).schedResult = 0 ∧ u.mem = s.mem ∧ (u.coreAt c).saved h = none ∧
            u.slotAt c i = { a with image := t.image, accSel := t.accSel, lastIssue := t.lastIssue, opening := 0x040, again := false })))) ∧
    (∀ x, t.pend.out = some (x, none) →
      (t.state = .ready → t.pair = 0 → t.sbuf = [] → i ≠ 0 → k.thenIn = none → k.tcc.length < 65535 → Leads (exec (.swapBoundary c i) s) (fun u =>
        (u.slotAt c i).state = .swap ∧ u.mem = s.mem ∧ ∃ v, (u.coreAt c).saved (u.coreAt c).outHandle = some v ∧ v.control = false ∧
          v.images = [{ t with pend := { t.pend with out := none }, again := false, image := 0, accSel := 0, lastIssue := none }])) ∧
      (t.state = .swap → k.thenIn = none → Leads (exec (.swapBoundary c i) s) (fun u => (u.slotAt c i).state = .vacant ∧
        (u.coreAt c).schedResult = 0 ∧ (u.coreAt c).schedBusy = false ∧ u.mem = s.mem))) ∧
    let home : Prop := ∀ m ∈ s.net ++ s.outbox, m.dstDev = s.devOf m.dstCtx
    (∀ a, s.hasDom c a = true →
      Leads (exec (.domainStop c a) s) (fun u => (u.domAt c a).stopped = true ∧ (s.devOf a, c, a) ∈ u.notices ∧ u.mem = s.mem ∧
        u.cores = s.cores) ∧
      Leads (exec (.domainResume c a) s) (fun u => (u.domAt c a).stopped = false ∧ (s.devOf a, c, a) ∉ u.notices ∧
        (∀ m ∈ u.outbox, m.goesTo (s.devOf a) c a = false) ∧ (home → u.mem = s.mem ∧ u.cores = s.cores))) ∧
    (∀ dev a, Leads (exec (.stopnote dev c a true) s) (fun u => (dev, c, a) ∈ u.notices ∧ u.mem = s.mem ∧ u.cores = s.cores) ∧
      Leads (exec (.stopnote dev c a false) s) (fun u => (dev, c, a) ∉ u.notices ∧
        (∀ m ∈ u.outbox, m.goesTo dev c a = false) ∧ (home → u.mem = s.mem ∧ u.cores = s.cores)))

/-- CONTROL resumes, halts, kills and steps a strand; the cross-trigger halts a cluster; pairs match; errors poison (R157, R317,
R325, R329, R331, R332, R335, R338). -/
def Obligations.ControlResumesHaltsKillsAndSteps : Prop :=
  ∀ (s : State) (c i : Nat),
    let t := s.slotAt c i
    let leaves (x : Instr) (u : Slot) : Prop := Leads (exec x s) (fun v => v.slotAt c i = u)
    let cl := c / 32
    let untraced : Prop := (s.clusterAt cl).traces = []
    (t.image = 0 → t.pair = 0 →
      (t.state = .frozen → t.pend = .none → leaves (.resume c i) { t with state := .ready, trig := false } ∧
        leaves (.step c i) { t with state := .ready, trig := false, pend := { t.pend with step := some t.retired } }) ∧
      (t.state ≠ .frozen → exec (.resume c i) s = .next s ∧ exec (.step c i) s = .next s) ∧
      (t.state = .ready → t.pend = .none → leaves (.halt c i) { t with state := .frozen, lastCode := 0, trig := false, again := false }) ∧
      (t.state = .frozen ∨ t.state = .vacant → exec (.halt c i) s = .next s) ∧
      (t.state = .ready ∨ t.state = .frozen → t.sbuf = [] → leaves (.kill c i) t.emptied) ∧
      (t.state = .vacant → exec (.kill c i) s = .next s)) ∧
    ((s.clusterAt cl).arm = true → t.state = .ready → t.pend = .none → Leads (exec (.crossTriggerFire cl) s) (fun u =>
      (u.clusterAt cl).halted = true ∧ u.slotAt c i = { t with state := .frozen, lastCode := 0, trig := true, again := false } ∧ (untraced → u.mem = s.mem))) ∧
    ((s.clusterAt cl).arm = false → exec (.crossTriggerFire cl) s = .next s) ∧
    (t.state = .frozen → t.trig = true → Leads (exec (.crossTriggerRelease cl) s) (fun u =>
      (u.clusterAt cl).halted = false ∧ u.slotAt c i = { t with state := .ready, trig := false } ∧ (untraced → u.mem = s.mem))) ∧
    (t.pair ≠ 1 → t.pair ≠ 2 → exec (.pairEffectMatch c i) s = .next s) ∧
    (t.pair = 1 → t.partner ≠ i →
      let b := s.slotAt c t.partner
      ∀ x xs, t.held = x :: xs → ∀ y ys, b.held = y :: ys → x.matched = false → y.matched = false →
        t.state = .wait .pairing → b.state = .wait .pairing →
        (x = y → ∀ e, x.store = some e → t.sbuf.length < 8 → Leads (exec (.pairEffectMatch c i) s) (fun u =>
          u.slotAt c i = { t with held := xs, sbuf := t.sbuf ++ [e], state := .ready } ∧
          u.slotAt c t.partner = { b with held := { y with matched := true } :: ys, state := .ready } ∧ u.mem = s.mem)) ∧
        (x = y → x.store = none → Leads (exec (.pairEffectMatch c i) s) (fun u =>
          u.slotAt c i = { t with held := { x with matched := true } :: xs, state := .ready } ∧
          u.slotAt c t.partner = { b with held := { y with matched := true } :: ys, state := .ready } ∧ u.mem = s.mem)) ∧
        (x.word ≠ y.word → b.pair = 2 → b.partner = i → Leads (exec (.pairEffectMatch c i) s) (fun u =>
          (u.slotAt c i).state = .vacant ∧ (u.slotAt c t.partner).state = .vacant))) ∧
    (t.pair = 0 → ∀ o,
      (t.state = .ready → Leads (exec (.eccUncorr 0 c i o) s) (fun u => (u.objAt o).poisoned = true ∧ (u.slotAt c i).state = .frozen ∧
          (u.slotAt c i).lastCode = 0x0A ∧ (u.slotAt c i).c = t.c) ∧
        Leads (exec (.eccUncorr 3 c i o) s) (fun u => (u.objAt (objOf t.code)).poisoned = true ∧ (u.slotAt c i).state = .frozen)) ∧
      (t.state = .ready → t.sbuf = [] → leaves (.eccUncorr 1 c i o) t.emptied) ∧
      (∀ k, (heads [] ((s.coreAt c).port i)).find? (fun k => k.done.isNone && s.cmdReads c k o) = some k →
        Leads (exec (.eccUncorr 2 c i o) s) (fun u => u.outcome c i k = some (7, k.soFar, (s.coreAt c).eventsOf k, none) ∧
          ∀ d, k.dest = some d → d.tag = true → (u.objAt (objOf d)).poisoned = true)) ∧
      Leads (exec (.eccUncorr 4 c i o) s) (fun u => (u.coreAt c).outOfService = true ∧
        ∀ d ∈ s.domains, d.1 / 4096 = c → u.hasDom c (d.1 % 4096) = false))

/-- Race records close, the sweep retires stale lines, a domain rebases; counters, trace and copies are read (R306, R307, R314,
R393, R394, R395, R397, R398, R399, R406). -/
def Obligations.RaceReportsCountersAndTrace : Prop :=
  ∀ (s : State) (c asid : Nat),
    let d := s.domAt c asid
    let told (o : Output) (u : State) : Prop := u.out = s.out ++ [o] ∧ u.mem = s.mem ∧ u.cores = s.cores
    ((s.coreAt c).openRec = none → exec (.raceRecordAppend c) s = .next s) ∧
    (∀ r, (s.coreAt c).openRec = some r →
      (s.time < r.last + 1024 → exec (.raceRecordAppend c) s = .next s) ∧
      (r.last + 1024 ≤ s.time → Leads (exec (.raceRecordAppend c) s) (fun u => (u.coreAt c).openRec = none ∧ u.objs = s.objs ∧
        ((s.partAt r.part).raceRep.tag = false → u.mem = s.mem)))) ∧
    (∀ cl, let n := (s.clusterAt cl).sweep
      let a := lsBase (cl * 32 + n / 4096) + 64 * (n % 4096)
      n < 98304 → Leads (exec (.sweepVisit cl) s) (fun u => (u.clusterAt cl).sweep = n + 1 ∧ u.mem = s.mem ∧ u.cores = s.cores ∧
        (∀ l, l ≠ lineOf a → u.fieldAt l = s.fieldAt l) ∧
        ∀ o, s.objectOver a = some o → let m := s.fieldAt (lineOf a)
          (m.rb = s.epochOf o → u.fieldAt (lineOf a) = m) ∧
          (m.rb ≠ s.epochOf o → (u.fieldAt (lineOf a)).scope = 0 ∧ (u.fieldAt (lineOf a)).rb = s.epochOf o))) ∧
    (s.wantsRebase c asid = true → d.swept ≠ 2 → exec (.rebase c asid) s = .next s) ∧
    (s.wantsRebase c asid = true → d.swept = 2 → s.hasDom c asid = true → Leads (exec (.rebase c asid) s) (fun u =>
      (u.domAt c asid).epoch = (d.epoch + 1) % 4 ∧ (u.domAt c asid).floor = [] ∧ u.mem = s.mem ∧
      ∀ i, let t := s.slotAt c i
        (t.asid = asid → (lookT (s.coreAt c).slots i).isSome = true → u.slotAt c i =
          { t with clock := [], state := if t.state = .wait .rebase then .ready else t.state }) ∧
        (t.asid ≠ asid → u.slotAt c i = t))) ∧
    (∀ fn n (trusted : Bool), s.fnReads fn trusted = true → s.fnOpen fn = true →
      let p := s.partAt fn
      let x := s.counterSample fn n trusted
      let low := 0x8000 + 8 * n
      let mine := p.latch.valid = true ∧ p.latch.sel = p.sel ∧ p.latch.off = low
      Leads (exec (.counterRead fn n trusted) s) (told (.hostRead fn low x)) ∧
      Leads (exec (.counterReadLow fn n trusted) s) (fun u => told (.hostRead fn low (x % 2 ^ 32)) u ∧
        (u.partAt fn).latch = ⟨true, p.sel, low, x / 2 ^ 32⟩) ∧
      (mine → Leads (exec (.counterReadHigh fn n trusted) s) (fun u => told (.hostRead fn (low + 4) p.latch.high) u ∧
        (u.partAt fn).latch.valid = false)) ∧
      (¬ mine → Leads (exec (.counterReadHigh fn n trusted) s) (fun u => told (.hostRead fn (low + 4) (x / 2 ^ 32)) u ∧
        (u.partAt fn).latch = p.latch))) ∧
    (∀ part cls n, let w := s.policyWord part (0x30 + 4 * cls)
      trCode w = 3 → s.time % (trParam w * 10 ^ 6) = 0 → counterClass n = cls → domainCounter n = true → n < 0x143 →
      Leads (exec (.counterIntervalSnapshot part cls) s) (fun u => u.mem = s.mem ∧ u.cores = s.cores ∧
        lookT (u.partAt part).snaps (snapKey n false 0 0) = some (s.partSum part n))) ∧
    (∀ cl part, let k := s.clusterAt cl
      sampleDue s.time (k.traceOf part).period (k.traceOf part).en = false →
      (sampleDue s.time (bitsAt k.optrace 8 5) (k.optrace % 16) = false → exec (.traceSample cl part) s = .next s) ∧
      (∀ j < 24, ∀ i < 16, let x := cl * 32 + j
        let t := s.slotAt x i
        (∀ m < 24, ∀ n < 16, (m, n) ≠ (j, i) → (s.slotAt (cl * 32 + m) n).state = .vacant) → t.state ≠ .vacant →
        (s.domAt x t.asid).part = part → trCode (s.policyWord part 0x70) = 1 →
        sampleDue s.time (bitsAt k.optrace 8 5) (k.optrace % 16) = true → Leads (exec (.traceSample cl part) s) (fun u =>
          u.ring = (s.ring ++ [traceRec s.time 0 part x i t.asid t.pc t.state.code]).drop (s.ring.length + 1 - 65536) ∧
          u.mem = s.mem))) ∧
    (∀ part cls, let w := s.policyWord part (0x70 + 4 * cls)
      let t := trParam w * 10 ^ 6
      trCode w = 3 → t ≤ s.time → s.time % t = 0 → Leads (exec (.traceIntervalRecord part cls) s) (fun u =>
        u.ring = (s.ring ++ [traceRec (s.time - t) (0x10 + cls) part 0 0 0 0 ((lookT (s.partAt part).traceCounts cls).getD 0)]).drop
          (s.ring.length + 1 - 65536) ∧ lookT (u.partAt part).traceCounts cls = some 0 ∧ u.mem = s.mem)) ∧
    (s.fnOpen 0 = false → exec (.ofpop 0) s = .next s) ∧
    (s.fnOpen 0 = true → Leads (exec (.ofpop 0) s) (fun u => (u.partAt (s.partAt 0).ofpart).faults = (s.partAt (s.partAt 0).ofpart).faults.drop 1 ∧
      u.mem = s.mem ∧ u.cores = s.cores)) ∧
    (∀ fn, fn ≠ 0 → exec (.ofpop fn) s = .next s) ∧
    (∀ fn, s.fnExists fn = true → s.booted = true → Leads (exec (.deepestRead fn) s) (fun u => told (.hostRead fn 0x10010 (s.partAt fn).deepest) u ∧
      (u.partAt fn).deepest = 0))

/-- A home serves remote loads, batches, EWRITE and EREAD; links acknowledge, resend and lose; routers forward (R125, R126,
R212, R344, R345, R346, R350, R352, R353, R355, R356, R357). -/
def Obligations.HomeServesAndLinksCarry : Prop :=
  ∀ (s : State) (p : Packet) (port : Nat),
    let part := s.partOf p.ctx
    let l := s.linkAt port
    let due := p.dstJob = s.jobDev part ∧ s.keyIn part p.pkey = true ∧ s.seen_ p = false ∧
      (p.tc = 0 → p.seq = s.nextOf p ∧ s.reorder = [])
    let answers (b : Body) (u : State) : Prop := u.out = (s.answer p b).out ∧ u.objs = s.objs ∧ ∀ c i, u.slotAt c i = s.slotAt c i
    let freely (q : Nat) (x : Packet) : Prop := let k := s.linkAt q
      k.queue = [] ∧ x.body.flits ≤ k.credits.getD (vcOf q x) 0 ∧ k.replay.length + x.body.groups ≤ 64
    let whole (o loc n : Nat) := spanTotal (s.homeSpans o loc n) = n
    (∀ c i o gen loc n, p.body = .rload c i o gen loc n → due →
      (s.homeCheck p o gen loc n n false = none → whole o loc n → Leads (exec (.remoteLoadServe p) s) (fun u => u.mem = s.mem ∧
        answers (.rdata c i (.bytes (s.engineBytes (s.homeSpans o loc n)))) u)) ∧
      (∀ x, s.homeCheck p o gen loc n n false = some x → Leads (exec (.remoteLoadServe p) s) (fun u => u.mem = s.mem ∧
        answers (if x = 2 then .errcomp p.body else if x = 3 then .rdata c i .poisoned else .rdata c i (.refused x)) u))) ∧
    (∀ c e q o gen loc n, p.body = .eread c e q o gen loc n → due →
      (s.homeCheck p o gen loc n 1 false = none → whole o loc n → Leads (exec (.eread p) s) (fun u =>
        u.mem = s.mem ∧ answers (.eack c e q none (s.engineBytes (s.homeSpans o loc n))) u)) ∧
      (∀ x, s.homeCheck p o gen loc n 1 false = some x → Leads (exec (.eread p) s) (fun u => u.mem = s.mem ∧
        answers (.eack c e q (some x) []) u))) ∧
    (∀ c i, ∀ x : RemoteStore, p.body = .rbatch c i [x] → due → let n := x.bytes.length
      (s.homeCheck p x.homeObj x.homeGen x.loc n n true = none → (s.objAt x.homeObj).ptab = false →
        ∀ y, s.homeSpans x.homeObj x.loc n = [y] → y.2.2 = n → Leads (exec (.rbatch p) s) (fun u => answers (.rback c i none) u ∧
          u.mem = Memory.write s.mem y.2.1 x.bytes)) ∧
      (∀ code, s.homeCheck p x.homeObj x.homeGen x.loc n n true = some code → Leads (exec (.rbatch p) s) (fun u =>
        u.mem = s.mem ∧ answers (if code = 2 then .errcomp p.body else .rback c i (some code)) u))) ∧
    (∀ c e q o gen loc b, p.body = .ewrite c e q o gen loc b → due →
      (s.homeCheck p o gen loc b.length 1 true = none → (s.objAt o).ptab = false → s.mapped (s.objAt o).ownCtx o loc b.length = true → ∀ y, s.homeSpans o loc b.length = [y] → y.2.2 = b.length →
        Leads (exec (.ewrite p) s) (fun u => answers (.eack c e q none []) u ∧ u.mem = Memory.write s.mem y.2.1 b)) ∧
      (∀ code, s.homeCheck p o gen loc b.length 1 true = some code → Leads (exec (.ewrite p) s) (fun u =>
        u.mem = s.mem ∧ answers (.eack c e q (some code) []) u))) ∧
    ((∀ flits, ∀ ctl : BitVec 128, let g := bitsAt ctl.toNat 116 12
        let a := bitsAt ctl.toNat 104 12
        (l.width < 6 → exec (.linkGroupReceive port flits ctl) s = .next s) ∧
        let due := creditDue (owedBy ctl.toNat l.owed)
        let vc := bitsAt ctl.toNat 99 4
        (6 ≤ l.width → groupOk flits ctl = true → g = l.rxSeq → bit ctl.toNat 103 = false → l.queue = [] →
          Leads (exec (.linkGroupReceive port flits ctl) s) (fun u => u.out = s.out ++ [.control port g false due.1 due.2] ∧
            (u.linkAt port).credits = setL l.credits vc (min 64 (l.credits.getD vc 0 + 8 * bitsAt ctl.toNat 95 4)) ∧
            (u.linkAt port).rxSeq = (g + 1) % 4096 ∧ (u.linkAt port).replay = l.replay.filter (fun x => !acked a x.1) ∧
            u.mem = s.mem ∧ u.cores = s.cores)) ∧
        (6 ≤ l.width → groupOk flits ctl = false ∨ g ≠ l.rxSeq → Leads (exec (.linkGroupReceive port flits ctl) s) (fun u =>
          u = { s with out := s.out ++ [.control port ((l.rxSeq + 4095) % 4096) true 0 0] }))) ∧
      (∀ g, (∀ x ∈ l.replay, acked g x.1 = false) → l.replay ≠ [] →
       (8 ≤ l.tries → Leads (exec (.nak port g) s) (fun u => (u.linkAt port).width = 0)) ∧
       (l.tries < 8 → l.queue = [] → Leads (exec (.nak port g) s) (fun u =>
        u.out = s.out ++ l.replay.map (fun x => .group port x.1 x.2.1 x.2.2) ∧ (u.linkAt port).replay = l.replay ∧
        (u.linkAt port).tries = l.tries + 1 ∧ u.mem = s.mem))) ∧
      (l.replay = [] → l.queue = [] → Leads (exec (.linkDown port) s) (fun u =>
        u.linkAt port = { l with width := 0, tries := 0, credits := List.replicate 12 64, owed := List.replicate 12 0 } ∧
        u.out = s.out ∧ u.mem = s.mem ∧ u.cores = s.cores)) ∧
      (∀ n, (n < 6 → exec (.widthChange port n) s = exec (.linkDown port) s) ∧
        (6 ≤ n → Leads (exec (.widthChange port n) s) (fun u => u.linkAt port = { l with width :=
          if n < 12 then 6 else if n < 24 then 12 else 24 } ∧ u.out = s.out ∧ u.mem = s.mem))) ∧
      (s.keyDrops p = true → port ≠ 8 → Leads (exec (.packetHop port p) s) (fun u => u.out = s.out ∧ u.mem = s.mem ∧
        u.objs = s.objs ∧ u.cores = s.cores)) ∧
      (∀ c i r, p.body = .rdata c i r → s.keyDrops p = false → s.remapped p = false → p.dst ≠ s.phys →
        let q := nextPort s.extents s.phys p.dst
        q ≠ 8 → s.linkOk q = true → freely q { p with dl := nextDl s.extents s.phys q p.dl (q / 2 != port / 2) } → Leads (exec (.packetHop port p) s) (fun u => u.out = s.out ++
          [.packet q { p with dl := nextDl s.extents s.phys q p.dl (q / 2 != port / 2) }] ∧ u.mem = s.mem ∧ u.cores = s.cores)) ∧
      (l.nextFenced = false → exec (.isolatedReadAnswer port p) s = .next s) ∧
      (∀ b, l.nextFenced = true → p.privRead = true → poisonedAnswer p.body = some b →
        Leads (exec (.isolatedReadAnswer port p) s) (fun u => u.mem = s.mem ∧ answers b u)) ∧
      (∀ b, l.nextFenced = true → p.privRead = false → p.privWrite = true → poisonedAnswer p.body = some b → s.writeLog.length < 4096 →
        Leads (exec (.isolatedReadAnswer port p) s) (fun u => answers b u ∧ u.mem = s.mem ∧
          u.writeLog.length = s.writeLog.length + 1))) ∧
    (∀ job phys valid, phys < 65536 → Leads (exec (.remapWrite part job phys valid) s) (fun u =>
      lookT (u.partAt part).remap job = some ⟨valid, (match lookT (s.partAt part).remap job with
        | some r => (r.epoch + 1) % 256
        | none => 1), phys⟩ ∧ u.mem = s.mem ∧ u.cores = s.cores ∧ u.out = s.out)) ∧
    (∀ job, exec (.spareJobAssign part job 0) s = .next s) ∧
    (∀ job key, job < 65536 → 0 < key → key < 65536 → Leads (exec (.spareJobAssign part job key) s) (fun u =>
      u.partAt part = { s.partAt part with job := job, pkey := key } ∧ u.mem = s.mem ∧ u.cores = s.cores ∧ u.out = s.out)) ∧
    (∀ dev keys, Leads (exec (.deviceFence dev keys) s) (fun u => dev ∈ u.fenced ∧ (∀ x ∈ keys, x ∈ u.revoked) ∧
      (s.cores.all (fun k => k.2.slots.all (fun t => t.2.sbuf.isEmpty && !t.2.state.outstanding)) = true → u.mem = s.mem) ∧
      (∀ x < 8, s.hasLink x = true → neighbour s.extents s.phys x = dev → (u.linkAt x).nextFenced = true)))

/-- Coding routers hold, pair and code blocks; a receiver places or decodes them; senders resend and time out (R213, R358, R359,
R360, R361, R362, R363, R364). -/
def Obligations.CodingRoutersAndShuffleBlocks : Prop :=
  ∀ (s : State) (p : Packet),
    let part := s.partOf p.ctx
    -- a strand that the end of the command lets past its barrier goes on there, with nothing pending
    let settled : Prop := ∀ c i n m, (s.slotAt c i).state = .wait (.barrier n m) → (s.slotAt c i).pend = .none
    let same (u : State) : Prop := u.mem = s.mem ∧ u.cores = s.cores
    -- a packet has gone out, or waits at its link for credits
    let goes (x : Body → Bool) (u : State) : Prop := u.out.any (fun o => match o with
      | .packet _ q => x q.body
      | _ => false) = true ∨ ∃ port, (u.linkAt port).queue.any (fun w => x w.packet.body) = true
    let open_ (q : Packet) : Prop := let port := nextPort s.extents s.phys q.dst
      port ≠ 8 ∧ s.linkOk port = true
    let again_ (y : Block) (z : Body) : Bool := z == .block { y with coder := s.phys }
    (s.pointFor p = none → exec (.holdFirstArrival p) s = .next s ∧ exec (.holdPartnerArrival p) s = .next s) ∧
    (∀ b, ∀ x, p.body = .block b → s.pointFor p = some x → let plan := x.2.1
      let q := x.2.2.1
      let isA := x.2.2.2
      let kept := s.asHeld 8 p
      let ixs (a : Bool) : List Nat := if a then [b.ix] else []
      let held (st : Nat) (ps : List Packet) : HoldEntry := ⟨x.1, b.shuf, q.xa, q.xb, if isA then ps else [], if isA then [] else ps, plan.len,
        ixs isA, ixs (!isA), st, s.time, 0, 0, false, false⟩
      (s.holdAt x.1 b.shuf q.xa = none →
        (s.holdUsed + 2 * plan.len ≤ 2 ^ 21 → Leads (exec (.holdFirstArrival p) s) (fun u =>
          u.holdAt x.1 b.shuf q.xa = some (held 0 [kept]) ∧ u.out = s.out ∧ same u)) ∧
        (2 ^ 21 < s.holdUsed + 2 * plan.len → open_ p → Leads (exec (.holdFirstArrival p) s) (fun u =>
          u.holdAt x.1 b.shuf q.xa = some (held 2 []) ∧ goes (fun y => y == p.body) u ∧ same u))) ∧
      (∀ h, s.holdAt x.1 b.shuf q.xa = some h →
        let noted := if isA then { h with seenA := putN h.seenA b.ix } else { h with seenB := putN h.seenB b.ix }
        let grown := if isA then { noted with origA := h.origA ++ [kept] } else { noted with origB := h.origB ++ [kept] }
        let all := noted.seenA.length = b.npkt ∧ noted.seenB.length = b.npkt
        (h.state = 2 → open_ p → Leads (exec (.holdPartnerArrival p) s) (fun u => goes (fun y => y == p.body) u ∧ same u ∧
          (all → u.holdAt x.1 b.shuf q.xa = none) ∧ (¬all → u.holdAt x.1 b.shuf q.xa = some noted))) ∧
        (h.state = 1 ∨ h.state = 0 ∧ (if isA then h.seenA else h.seenB).contains b.ix = true → exec (.holdPartnerArrival p) s = .next s) ∧
        (h.state = 0 → (if isA then h.seenA else h.seenB).contains b.ix = false →
          (¬all → Leads (exec (.holdPartnerArrival p) s) (fun u => u.holdAt x.1 b.shuf q.xa = some grown ∧ u.out = s.out ∧ same u)) ∧
          (all → Leads (exec (.holdPartnerArrival p) s) (fun u =>
            u.holdAt x.1 b.shuf q.xa = some { grown with state := 1, timer := s.time } ∧ same u ∧
            ∀ i < b.npkt, ∀ a, grown.origA.find? (fun z => z.ix == i) = some a → ∀ c, grown.origB.find? (fun z => z.ix == i) = some c →
              ∀ y z, a.body = .block y → c.body = .block z → a.dst ≠ s.phys → open_ a → goes (fun w => match w with
                | .lake w => w.payload == xorBytes y.payload z.payload && w.ix == y.ix && w.coder == s.phys && w.rcvA == a.dst && w.rcvB == c.dst
                | _ => false) u))))) ∧
    (∀ h, s.holds = [h] →
      (h.state = 0 →
        (s.time < h.since + 8000 → exec (.pairwait h.shuf h.xa) s = .next s) ∧
        (h.since + 8000 ≤ s.time → Leads (exec (.pairwait h.shuf h.xa) s) (fun u =>
          u.holds = [{ h with state := 2, origA := [], origB := [] }] ∧ same u ∧
          ∀ a ∈ h.origA ++ h.origB, open_ a → goes (fun y => y == a.body) u))) ∧
      (h.state = 1 →
        (s.time < h.timer + 40000 → exec (.codedTimerExpiry h.shuf h.xa) s = .next s) ∧
        (h.timer + 40000 ≤ s.time → h.expiries ≠ 0 → Leads (exec (.codedTimerExpiry h.shuf h.xa) s) (fun u => u.holds = [] ∧
          u.out = s.out ∧ same u)) ∧
        (h.timer + 40000 ≤ s.time → h.expiries = 0 → Leads (exec (.codedTimerExpiry h.shuf h.xa) s) (fun u =>
          u.holds = [{ h with expiries := 1, timer := s.time }] ∧ same u ∧
          ∀ a y, a.body = .block y → open_ a → (h.sackA = false ∧ a ∈ h.origA ∨ h.sackB = false ∧ a ∈ h.origB) → goes (again_ y) u)) ∧
        (∀ b isA, s.holdFor p b = some (h, isA) →
          let other := if isA then h.sackB else h.sackA
          let mine := if isA then h.origA else h.origB
          (p.body = .sack b → other = false → Leads (exec (.sack p) s) (fun u =>
            u.holds = [if isA then { h with sackA := true } else { h with sackB := true }] ∧ u.out = s.out ∧ same u)) ∧
          (p.body = .sack b → other = true → Leads (exec (.sack p) s) (fun u => u.holds = [] ∧ same u ∧
            ∀ a ∈ h.origA.head?.toList ++ h.origB.head?.toList, ∀ y, a.body = .block y →
              goes (fun z => z == .sack { y with ix := 0, npkt := 0, payload := [] }) u)) ∧
          (∀ reason, p.body = .snack b reason → Leads (exec (.snack p) s) (fun u => same u ∧
            ∀ a ∈ mine, ∀ y, a.body = .block y → open_ a → goes (again_ y) u))))) ∧
    (∀ b, s.holdFor p b = none → ∀ x, s.runningOf part b.shuf = some x → ∀ plan, s.planAt part b.shuf = some plan →
      (s.partAt part).active = [x.1] →
      let events := (s.coreAt x.1.core).eventsOf x.2
      (p.body = .sack b → (plan.receives (s.jobDev part)).all (fun z => x.1.placed.contains z.block) = false →
        Leads (exec (.sack p) s) (fun u => same u ∧ (u.partAt part).active = [{ x.1 with sent := x.1.sent.map (fun z =>
          (z.1, z.2.1, z.2.2.1, z.2.2.2 || z.1 == b.block)) }])) ∧
      (p.body = .sack b → (plan.receives (s.jobDev part)).all (fun z => x.1.placed.contains z.block) = true →
        (plan.sends (s.jobDev part)).all (fun z => x.1.sent.any (fun v => v.1 == z.block && (v.2.2.2 || v.1 == b.block))) = true →
        Leads (exec (.sack p) s) (fun u => (settled → u.mem = s.mem) ∧ u.outcome x.1.core 2 x.2 = some (stDONE, x.2.soFar, events, none))) ∧
      (p.body = .snack b 4 →
        (s.sendsBlock part b = false → exec (.snack p) s = .next s) ∧
        (s.sendsBlock part b = true → Leads (exec (.snack p) s) (fun u =>
          u.outcome x.1.core 2 x.2 = some (stMISMATCH, x.2.soFar, events, none))))) ∧
    (∀ id, ∀ x, s.runningOf part id = some x → ∀ plan, s.planAt part id = some plan → ∀ sh, lookT (s.partAt part).shuffles id = some sh →
      (s.partAt part).active = [x.1] →
      let r := x.1
      let k := x.2
      let ends (u : State) : Prop := u.outcome r.core 2 k = some (stREMOTE, k.soFar, (s.coreAt r.core).eventsOf k, none)
      let again (y : Xfer) (u : State) : Prop := u.mem = s.mem ∧ let bs := (lookT r.kept y.block).getD []
        ∀ i < packetsOf bs.length, ∃ q, Output.packet 8 q ∈ u.out ∧ q.nocode = true ∧ q.body = .block (blockOf id sh.digest y bs i)
      (r.start + 200000 ≤ s.time → (plan.receives (s.jobDev part)).all (fun z => r.placed.contains z.block) = false →
        Leads (exec (.shuffleReceiveTimeout part id) s) ends) ∧
      (s.time < r.start + 200000 → exec (.shuffleReceiveTimeout part id) s = .next s) ∧
      (∀ y, (plan.sends (s.jobDev part)).find? (fun z => z.block == y.block) = some y →
        ∀ e, r.sent.find? (fun z => z.1 == y.block) = some e →
        (e.2.2.2 = true ∨ s.time < e.2.1 + 100000 → exec (.senderSackTimeout part id y.block) s = .next s) ∧
        (e.2.2.2 = false → e.2.1 + 100000 ≤ s.time →
          (e.2.2.1 = true → Leads (exec (.senderSackTimeout part id y.block) s) ends) ∧
          (e.2.2.1 = false → (s.remapOf part y.dst).isSome = true → Leads (exec (.senderSackTimeout part id y.block) s) (again y))) ∧
        (∀ b : Block, b.shuf = id → b.block = y.block → (s.remapOf part y.dst).isSome = true → p.body = .snack b 3 →
          Leads (exec (.busyResend p) s) (again y))) ∧
      (∀ y ∈ plan.receives (s.jobDev part), ∀ b : Block, b.shuf = id → b.digest = sh.digest → k.stopped = false →
        s.ordered (s.cmdParty r.core 2 k) (objOf k.y) → (s.objAt (objOf k.y)).ptab = false → y.block ∉ r.placed →
        lookT r.partly y.block = none → s.keyIn part p.pkey = true → settled →
        ∀ z, s.spansAt k.asid (objOf k.y) (cursorOf k.y + y.dstOff) plan.len = [z] → z.2.1 < hostBase → z.2.2 = plan.len →
        let sack (u : State) : Prop := goes (fun w => w == .sack { b with ix := 0, npkt := 0, payload := [] }) u
        let lands (bs : List Byte) (u : State) : Prop := u.mem = Memory.write s.mem z.2.1 bs ∧
          (u.partAt part).active.map (fun v => v.placed) = [r.placed ++ [y.block]]
        (b.npkt = 1 → b.ix = 0 → p.body = .block b → s.wholeBlock p b = some b) ∧
        (p.body = .block b → (plan.receives (s.jobDev part)).find? (fun z => z.block == b.block) = some y →
          (s.wholeBlock p b = none → s.buffered + b.payload.length ≤ 2 ^ 20 → Leads (exec (.block p) s) (fun u => same u ∧ u.out = s.out ∧
            p ∈ u.lakes)) ∧
          (∀ w, s.wholeBlock p b = some w → w.payload.length = plan.len → Leads (exec (.block p) s) (fun u => lands w.payload u ∧ sack u))) ∧
        (p.body = .lake b → b.rcvA = s.phys → b.rcvB = s.phys → b.block = y.block →
          (plan.receives (s.jobDev part)).find? (fun z => z.block == b.block || z.block == b.blockB) = some y →
          ∀ side, s.sideOf part r k b.blockB = some side → let xs := s.spansAt k.asid side.obj side.loc plan.len
          spanTotal xs = plan.len → s.ordered (s.cmdParty r.core 2 k) side.obj →
          ∀ w, s.wholeBlock p b = some w →
          let bs := xorBytes (s.engineBytes xs) w.payload
          bs.length = plan.len → crc64 bs = b.crcA → Leads (exec (.lake p) s) (fun u => lands bs u ∧ sack u))))

/-- Host writes, reads, doorbells, windows and resets of a function do what R339 and R370 to R378 say (R339, R370, R372, R377,
R378). -/
def Obligations.HostRequestsReachTheDevice : Prop :=
  ∀ (s : State) (fn : Nat),
    let p := s.partAt fn
    let open_ := s.fnExists fn = true ∧ p.flr = false ∧ s.fnOpen fn = true
    let near : Prop := ∀ m ∈ s.net, m.dstDev = s.devOf m.dstCtx
    let size (b : List (Option Byte)) : Nat := if b.all (fun x => x.isNone) then 0 else b.length
    let calm (u : State) : Prop := u.mem = s.mem ∧ u.objs = s.objs ∧ u.cores = s.cores
    let result (r : Nat) (u : State) : Prop := (u.partAt fn).winResult = r ∧ u.mem = s.mem ∧ u.cores = s.cores
    (open_ → ∀ addr,
      (∀ b, s.exportAt fn addr (size b) = none → Leads (exec (.inboundWrite fn addr b) s) (fun u => calm u ∧
        lookT (u.partAt fn).sums 0x140 = some (countTo ((lookT p.sums 0x140).getD 0) 1))) ∧
      (∀ b, ∀ x, s.exportAt fn addr (size b) = some x → s.atEdge (objOf x.1) = none → kindOf x.1 = 0 →
        let e := s.objAt (objOf x.1)
        e.level = 0 ∨ e.level = 2 ∨ e.level = 3 → e.ptab = false → s.ordered (s.inParty (objOf x.1)) (objOf x.1) →
        ∀ cs, s.inCells (objOf x.1) x.2 b = some cs → (∀ y ∈ cs, y.2.1 < hostBase) → Leads (exec (.inboundWrite fn addr b) s) (fun u =>
          u.mem = cs.foldl (fun m y => Memory.write m y.2.1 [y.2.2]) s.mem ∧ u.out = s.out ∧ ∀ c i, u.slotAt c i = s.slotAt c i)) ∧
      (∀ v, ∀ x, s.exportAt fn addr 16 = some x → s.atEdge (objOf x.1) = none → kindOf x.1 = 2 → x.2 % 16 = 0 →
        let e := s.objAt (objOf x.1)
        ∀ w, s.flatNow e.ownCtx (objOf x.1) x.2 = .ok w →
        (s.isFull w = false → s.engineWaits e.ownCore e.ownCtx 19 = false → s.waiters = [] → Leads (exec (.inboundSyncPut fn addr v) s) (fun u => u.isFull w = true ∧
          u.mem = Memory.write s.mem w (leBytes 16 v.toNat) ∧ u.tagAt w = false)) ∧
        (s.isFull w = true → s.listRoom w = true → Leads (exec (.inboundSyncPut fn addr v) s) (fun u => calm u ∧
          u.waiters.length = s.waiters.length + 1 ∧ u.fnHeld fn = (u.waiters.any (fun z => z.slot == 16 && u.partOf z.dst == fn)))) ∧
        (s.isFull w = true → s.listRoom w = false → Leads (exec (.inboundSyncPut fn addr v) s) (fun u => calm u ∧ u.waiters = s.waiters ∧
          (u.partAt fn).late = some (addr, v) ∧ u.fnOpen fn = false))) ∧
      (∀ n, (s.exportAt fn addr n).bind (fun x => s.atEdge (objOf x.1)) = none →
        (∀ bs, s.inValue fn addr n = some bs →
          exec (.inboundRead fn addr n) s = .next { s with out := s.out ++ [.inboundData fn addr bs] } ∧
          exec (.inboundSyncPeek fn addr n) s = .next { s with out := s.out ++ [.inboundData fn addr bs] }) ∧
        (s.inValue fn addr n = none →
          exec (.inboundRead fn addr n) s = .next { s with out := s.out ++ [.inboundRefused fn addr] } ∧
          exec (.inboundSyncPeek fn addr n) s = .next { s with out := s.out ++ [.inboundRefused fn addr] }))) ∧
    (s.fnTakes fn = true → s.fnOpen fn = true → ∀ d v, let c := (lookT p.dbports d).getD CReg.zero
      let ctx := portCtx c
      let to_ := portTarget c
      (c.tag = false → Leads (exec (.doorbellMessage fn d v) s) calm ∧ Leads (exec (.doorbellTag fn d v) s) calm) ∧
      (c.tag = true → wellFormed c = true → portGrp c = false → portDev c = s.jobDev fn → s.partOf ctx = fn →
        s.hasDom to_ ctx = true → s.engineWaits to_ ctx 19 = false →
        (v.getLsbD 63 = false → s.held_ (portDev c) to_ ctx = false → Leads (exec (.doorbellMessage fn d v) s) (fun u =>
          (near → u.mem = s.mem) ∧ u.net.any (fun m => m.cls == portLo c && m.dstCore == to_ && m.dstCtx == ctx && m.srcCore == 0x1FFF &&
            m.pay == [plain v.toNat] && m.form == 5) = true)) ∧
        (v.getLsbD 63 = true → (s.clusterAt (clusterOf to_)).power = 0 → Leads (exec (.doorbellTag fn d v) s) (fun u =>
          (u.domAt to_ ctx).tags = (s.domAt to_ ctx).tags ||| .ofNat 64 (2 ^ (v.toNat % 64)) ∧ u.mem = s.mem ∧ u.net = s.net)))) ∧
    (s.fnTakes fn = true → s.fnOpen fn = true → ∀ v, v.getLsbD 63 = true → p.winBusy.isSome = true →
      (v.getLsbD 62 = false → Leads (exec (.windowRegister fn v) s) (result 1)) ∧
      (v.getLsbD 62 = true → Leads (exec (.windowUnregister fn v) s) (result 1))) ∧
    (s.fnTakes fn = true → s.fnOpen fn = true → p.winBusy = none → ∀ v, v.getLsbD 63 = true → let x := v.toNat
      let win := bitsAt x 48 8
      let len := bitsAt x 20 24
      let asid := bitsAt x 0 12
      let formed := bitsAt x 56 5 = 0 ∧ bitsAt x 44 4 = 0 ∧ bitsAt x 12 8 = 0
      let placed := bitsAt p.winVa 48 16 = 0 ∧ bitsAt p.winVa 0 16 = 0 ∧ len ≠ 0
      let live := (lookT s.ctxs asid).any (fun y => y.part == fn)
      (v.getLsbD 62 = false →
        (¬ (formed ∧ placed) → Leads (exec (.windowRegister fn v) s) (result 7)) ∧
        (formed → placed → live = false → Leads (exec (.windowRegister fn v) s) (result 2)) ∧
        (formed → placed → live = true → (lookT p.windows win).isSome = true → Leads (exec (.windowRegister fn v) s) (result 4)) ∧
        (formed → placed → live = true → lookT p.windows win = none →
          (s.hostMapped asid p.winVa len = false → Leads (exec (.windowRegister fn v) s) (result 3)) ∧
          (s.hostMapped asid p.winVa len = true → ∀ o, s.pickEntry fn 65535 = some o → Leads (exec (.windowRegister fn v) s) (fun u =>
            (u.partAt fn).winResult = 0 ∧ u.mem = s.mem ∧ lookT (u.partAt fn).windows win = some ⟨o, bit x 61⟩ ∧ (u.objAt o).level = 4 ∧ (u.objAt o).base = p.winVa ∧
            (u.objAt o).length = len * 65536 ∧ (u.objAt o).pinned = true)))) ∧
      (v.getLsbD 62 = true → formed →
        (lookT p.windows win = none → Leads (exec (.windowUnregister fn v) s) (result 6)) ∧
        (∀ w, lookT p.windows win = some w →
          (s.loading w.obj = false → s.named w.obj = false → Leads (exec (.windowUnregister fn v) s) (fun u =>
            (u.partAt fn).winResult = 0 ∧ lookT (u.partAt fn).windows win = none ∧ (u.partAt fn).winBusy = none)) ∧
          (s.loading w.obj = true ∨ s.named w.obj = true → Leads (exec (.windowUnregister fn v) s) (fun u =>
            (u.partAt fn).winBusy = some win ∧ (u.partAt fn).windows = p.windows ∧ calm u))))) ∧
    (p.pstate = 0 → Leads (exec (.quiesce fn) s) (fun u => (u.partAt fn).pstate = 1 ∧ u.mem = s.mem ∧ u.cores = s.cores ∧
        ∀ d ∈ s.domainsIn fn, (u.domAt d.1 d.2).stopped = true) ∧
      Leads (exec (.partitionReset fn) s) (fun u => (u.partAt fn).pstate = 1 ∧ (u.partAt fn).resetPending = true ∧ u.mem = s.mem) ∧
      (p.tdi = 0 → Leads (exec (.flr fn) s) (fun u => (u.partAt fn).pstate = 1 ∧ (u.partAt fn).resetPending = true ∧
        (u.partAt fn).flr = true ∧ u.mem = s.mem))) ∧
    (p.pstate ≠ 0 → exec (.quiesce fn) s = .next s) ∧
    (p.pstate = 2 → Leads (exec (.partitionReset fn) s) (fun u => (u.partAt fn).pstate = 3 ∧ (u.partAt fn).windows = [] ∧
      (u.partAt fn).raceRep = CReg.zero ∧ u.ctxs = s.ctxs.filter (fun x => x.2.part != fn))) ∧
    (p.pstate = 1 → p.resetPending = false → Leads (exec (.quiesceComplete fn) s) (fun u => (u.partAt fn).pstate = 2)) ∧
    (p.pstate ≠ 1 → exec (.quiesceComplete fn) s = .next s) ∧
    (p.pstate = 3 → (∀ k ∈ s.cleaning, k.part ≠ fn) → Leads (exec (.resetComplete fn) s) (fun u => u.partAt fn =
      { p with pstate := 0, flr := false } ∧ u.out = s.out ++ [.report 0x80 fn] ∧ calm u)) ∧
    (p.pstate ≠ 3 → exec (.resetComplete fn) s = .next s)

/-- Temperature, cluster power, boot, measurements, policies, streams, TDI, migration, firmware and registers (R381, R382, R383,
R389, R390, R401, R404, R405, R406, R408, R410, R411). -/
def Obligations.PowerBootAndManagementAct : Prop :=
  ∀ (s : State) (fn : Nat),
    let p := s.partAt fn
    (∀ die t, let warm := { s.dieAt die with degrees := t }
      (110 ≤ t → Leads (exec (.thermalSample die t) s) (fun u => u.booted = false ∧ u.flash = s.flash ∧ u.domains = [] ∧
        u.out = s.out ++ [.report 0x81 die])) ∧
      (100 < t → t < 110 → Leads (exec (.thermalSample die t) s) (fun u => u.dieAt die = { warm with throttled := true } ∧
        u.mem = s.mem ∧ u.out = s.out ++ [.report 0x81 die])) ∧
      (95 ≤ t → t ≤ 100 → Leads (exec (.thermalSample die t) s) (fun u => u.dieAt die = warm ∧ u.mem = s.mem ∧ u.out = s.out)) ∧
      (t < 95 → Leads (exec (.thermalSample die t) s) (fun u => u.dieAt die = { warm with throttled := false } ∧ u.mem = s.mem ∧
        u.out = s.out))) ∧
    (∀ cl, let n := s.lowState cl
      let k := s.clusterAt cl
      (k.power ≠ 0 ∨ s.stirred cl = true ∨ n = 0 → exec (.clusterPowerEntry cl) s = .next s) ∧
      (k.power = 0 → s.stirred cl = false → n = 1 ∨ n = 2 → Leads (exec (.clusterPowerEntry cl) s) (fun u =>
        (u.clusterAt cl).power = n ∧ u.mem = s.mem ∧ u.cores = s.cores ∧ ∀ q ∈ s.partsIn cl, n ≤ (u.partAt q).deepest)) ∧
      (k.power = 0 → s.stirred cl = false → n = 3 → Leads (exec (.clusterPowerEntry cl) s) (fun u => (u.clusterAt cl).power = 3 ∧
        (u.clusterAt cl).tlb = [])) ∧
      (k.power = 0 ∨ s.stirred cl = false → exec (.clusterPowerExit cl) s = .next s) ∧
      (k.power ≠ 0 → k.power ≠ 3 → s.stirred cl = true → Leads (exec (.clusterPowerExit cl) s) (fun u => u.clusterAt cl = { k with power := 0, wake := false } ∧ u.mem = s.mem ∧
        u.cores = s.cores)) ∧
      (k.power = 3 → s.stirred cl = true → Leads (exec (.clusterPowerExit cl) s) (fun u => (u.clusterAt cl).power = 0 ∧
        ∀ a, csBase cl ≤ a → a < csBase cl + 2 ^ 23 → Memory.get u.mem a = 0))) ∧
    Leads (exec .deviceReset s) (fun u => u.domains = [] ∧
      match s.flash.check with
      | .error n => u.booted = false ∧ u.flash = s.flash ∧ u.out = s.out ++ [.report 0x82 n]
      | .ok n => u.booted = true ∧ u.flash = { s.flash with active := n } ∧ u.phys = s.flash.conf 8 8 % 2 ^ 16 ∧
          u.blocks = u.flash.measure ∧ u.aliasKey = Config.aliasKey Config.deviceKey u.flash.measure ∧ u.conf = s.flash.config ∧ u.out = s.out) ∧
    (s.booted = true → s.fnExists fn = true → exec (.getMeasurements fn) s = .next { s with out := s.out ++
      [.spdm fn s.aliasKey (s.blocks ++ if fn = 0 then [] else [sha512 (s.policyRecord fn)])] }) ∧
    (∀ secured r, let x := s.policyResult fn secured r
      Leads (exec (.policyInstall fn secured r) s) (fun u => u.out = s.out ++ [.policy fn x] ∧ u.mem = s.mem ∧ u.cores = s.cores ∧
        (u.partAt fn).policy = if x = 0 then some r else p.policy)) ∧
    (∀ n secured key salt, let may := secured = true ∧ fn ≠ 0 ∧ p.tdi = 2
      (may → Leads (exec (.streamInstall fn n secured key salt) s) (fun u => lookT (u.partAt fn).streams n = some ⟨key, salt, 0⟩ ∧
        u.mem = s.mem ∧ u.cores = s.cores)) ∧
      (¬ may → exec (.streamInstall fn n secured key salt) s = .next s)) ∧
    (∀ st, (tdiMay p.tdi st = false → exec (.tdiStateChange fn st) s = .next s) ∧
      (tdiMay p.tdi st = true → Leads (exec (.tdiStateChange fn st) s) (fun u => (u.partAt fn).tdi = st ∧
        (p.tdi ≠ 2 → u.mem = s.mem ∧ u.cores = s.cores) ∧ (p.tdi = 2 → st ≠ 2 → (u.partAt fn).streams = [])))) ∧
    (p.pstate = 2 → exec (.migrationExport fn) s = .next { s with out := s.out ++ [.image (s.imageOf fn)] }) ∧
    (p.pstate ≠ 2 → exec (.migrationExport fn) s = .next s) ∧
    (∀ i : Image, (s.importOk i = false → exec (.migrationImport i) s = .next s) ∧
      (s.importOk i = true → i.saved = [] → Leads (exec (.migrationImport i) s) (fun u => (u.partAt i.part).policy = i.policy ∧
        (u.partAt i.part).groups = i.groups ∧ (u.partAt i.part).latch = sectionLatch i.counters ∧ u.cores = s.cores ∧
        u.mem = i.bytes.foldl (fun m x => Memory.set m x.1 x.2) (i.spans.foldl (fun v x => v.wipe x.1 x.2) s).mem ∧
        ∀ x, i.objs = [x] → lookT u.objs x.1 = some x.2))) ∧
    (∀ w, Leads (exec (.firmwareUpdate w) s) (fun u => u.mem = s.mem ∧ u.cores = s.cores ∧
      if s.flash.active = 0 then u.flash = { s.flash with fwb := w } else u.flash = { s.flash with fwa := w })) ∧
    (s.booted = false → ∀ off v, exec (.registerWrite fn off v) s = .next s) ∧
    (s.fnExists fn = true → p.flr = false → s.fnOpen fn = true → ∀ v,
      (s.fnTakes fn = true → Leads (exec (.registerWrite fn 0x020 v) s) (fun u => u.partAt fn = { p with winVa := v.toNat } ∧
        u.mem = s.mem ∧ u.cores = s.cores)) ∧
      Leads (exec (.registerWrite fn 0x1000C v) s) (fun u => u.partAt fn = { p with latTol := v.toNat % 2 ^ 32 } ∧ u.mem = s.mem) ∧
      Leads (exec (.registerWrite fn 0x1000 v) s) (fun u => bitsAt (u.partAt fn).sel.toNat 34 12 = bitsAt v.toNat 34 12 ∧
        bitsAt (u.partAt fn).sel.toNat 50 13 = bitsAt v.toNat 50 13 ∧ bit (u.partAt fn).sel.toNat 63 = v.getLsbD 63 ∧
        u.mem = s.mem) ∧
      exec (.registerWrite fn 0x008 v) s = .next s ∧ exec (.registerWrite fn 0x030 v) s = .next s)

/-- Taking an exception freezes the strand at its instruction and sends its packet; resuming returns to it (R317, R319, R320,
R325, R331). -/
def Obligations.FaultsFreezeSendPacketsAndResume : Prop :=
  ∀ (s : State) (c i : Nat) (f : FaultInfo),
    let t := s.slotAt c i
    let part := (s.domAt c t.asid).part
    let dw := s.strandPacket c i false f
    let dword (k hi n : Nat) : Nat := bitsAt (dw.getD k 0).toNat hi n
    let u := s.freezeAt c i f
    let k := s.clusterAt (clusterOf c)
    let cross := f.code = 0x18 ∧ k.arm = true ∧ k.onBreak = true
    (t.pair = 0 → cross → (u.clusterAt (clusterOf c)).halted = true) ∧
    (t.pair = 0 → ¬ cross → bit k.optrace 3 = false → lookT k.traces part = none →
    (u.slotAt c i = { t with state := .frozen, lastCode := f.code % 256, again := false } ∧ u.mem = s.mem ∧ u.tags = s.tags ∧ u.objs = s.objs ∧
      u.time = s.time ∧ (∀ d j, d ≠ c ∨ j ≠ i → u.slotAt d j = s.slotAt d j) ∧ (∀ d j, (u.coreAt d).port j = (s.coreAt d).port j)) ∧
    (dw.length = 8 ∧ (f.code < 256 → dword 0 0 8 = f.code) ∧ (i < 16 → dword 0 8 4 = i) ∧ (t.kind < 4 → dword 0 14 2 = t.kind) ∧
      (t.asid < 4096 → dword 0 16 12 = t.asid) ∧ (c < 8192 → dword 0 28 13 = c) ∧ (part < 64 → dword 0 41 6 = part) ∧
      dword 0 47 1 = (if f.record.isEmpty then 0 else 1) ∧ dword 0 48 1 = 0 ∧ dword 0 49 1 = t.frame.isSome.toNat ∧ dword 0 50 14 = 0 ∧
      dword 1 0 64 = t.pc ∧ (t.insn < 2 ^ 32 → dword 2 0 64 = t.insn) ∧ (f.detail < 2 ^ 64 → dword 3 0 64 = f.detail) ∧ (s.time < 2 ^ 64 → dword 4 0 64 = s.time) ∧
      (f.addr < 2 ^ 48 → dword 5 0 64 = f.addr) ∧ dword 6 0 64 = 0 ∧ dword 7 0 64 = 0) ∧
    (s.packetTarget c t = 64 ∨ s.supervisor (s.packetTarget c t) = none →
      u.out = s.out ++ [.faultToManagement (dw ++ f.record)] ∧ u.net = s.net) ∧
    (∀ d, s.supervisor (s.packetTarget c t) = some d → s.packetTarget c t ≠ 64 → u.out = s.out ∧ ∃ m,
      (if s.held_ m.dstDev d m.dstCtx then u.outbox = s.outbox ++ [m] ∧ u.net = s.net else u.outbox = s.outbox ∧ u.net = s.net ++ [m]) ∧
      m.dstCore = d ∧ m.srcCore = c ∧ m.hdr.toNat % 64 = 63 ∧ m.pay = packRegs dw ++ packRegs f.record) ∧
    (t.state = .ready → t.image = 0 → t.pend = .none → Leads (exec (.resume c i) u) (fun v =>
      v.slotAt c i = { t with lastCode := f.code % 256, trig := false, again := false } ∧ v.mem = s.mem))) ∧
    (∀ (n w : Nat) (x : Ctx), let s0 := s
      s.agenda = [] → s.core = c → coreOk c = true → let s := s.inOrder c
      let t := s.slotAt c i
      let b := s.choose c i
      s.redoSlot c = none → s.pickSlot c = some i → i ≠ 15 → s.mayIssue c = true → t.pair = 0 → t.region = none → t.loop = none →
      t.pend = .none → fetch.run ⟨b, b, []⟩ = .ok ((n, w), x) → x.st.missing c i n = [] → (decodePattern n w).isOk = false →
      Leads (step s0) (fun v => (v.slotAt c i).state = .frozen ∧ (v.slotAt c i).lastCode = 0x01 ∧ (v.slotAt c i).c = t.c ∧
        (v.slotAt c i).code = t.code))

/-- Every step keeps memory in its one form: addresses rise strictly, and no byte listed is the blank one (R34, R36, R45). -/
def Obligations.MemoryStaysCanonical : Prop :=
  Kept (fun s => Memory.wf s.mem = true)

/-- After reset every entry is FREE, every slot VACANT, every link up; agenda steps run; memory is canonical (R8, R219, R274,
R301, R339, R343, R370, R380, R382, R405, R406). -/
def Obligations.ResetLeavesTheDevice : Prop :=
  let r := State.reset
  (∀ o, (r.objAt o).entKind = 0 ∧ (r.objAt o).gen = 0 ∧ (r.objAt o).length = 0 ∧ (r.objAt o).retired = false) ∧
  (∀ c i, (r.slotAt c i).state = .vacant) ∧ (∀ l, (r.fieldAt l).scope = 3 ∧ (r.fieldAt l).rb = 0) ∧
  (∀ k, (r.clusterAt k).power = 0 ∧ (r.clusterAt k).halted = false) ∧
  (∀ p, (r.partAt p).pstate = 0 ∧ (r.partAt p).latTol = 0x14 ∧ (r.partAt p).tenantOnly = false ∧ (r.partAt p).tdi = 0 ∧
    (r.partAt p).queue = []) ∧
  r.domains = [] ∧ (∀ p, (r.linkAt p).width = 24) ∧ Memory.wf r.mem = true ∧
  ∀ (s : State) (i : Instr) (rest : List Turn), s.agenda = .event i :: rest →
    (i.wf = true → i.isStep = true → step s = exec i ({ s with agenda := rest } : State).settled) ∧
    (i.wf = false ∨ i.isStep = false → step s = .next { s with agenda := rest }) ∧
    (∀ fn off trusted, step { s with agenda := .read fn off trusted :: rest } =
      ({ s with agenda := rest } : State).settled.readRegister fn off trusted)
end

