-- ==== Sys2Proof/Laws/State.lean ====
section
/-! SUPPORT. What the updates of State and of a slot leave alone: one lemma per field per update. -/

namespace Sys2Proof.Machine

section setCore
variable (s : State) (c : Nat) (k : Core)
@[simp] theorem State.setCore_time : (s.setCore c k).time = s.time := rfl
@[simp] theorem State.setCore_phys : (s.setCore c k).phys = s.phys := rfl
@[simp] theorem State.setCore_extents : (s.setCore c k).extents = s.extents := rfl
@[simp] theorem State.setCore_core : (s.setCore c k).core = s.core := rfl
@[simp] theorem State.setCore_slot : (s.setCore c k).slot = s.slot := rfl
@[simp] theorem State.setCore_ir : (s.setCore c k).ir = s.ir := rfl
@[simp] theorem State.setCore_replaying : (s.setCore c k).replaying = s.replaying := rfl
@[simp] theorem State.setCore_agenda : (s.setCore c k).agenda = s.agenda := rfl
@[simp] theorem State.setCore_fresh : (s.setCore c k).fresh = s.fresh := rfl
@[simp] theorem State.setCore_mem : (s.setCore c k).mem = s.mem := rfl
@[simp] theorem State.setCore_tags : (s.setCore c k).tags = s.tags := rfl
@[simp] theorem State.setCore_full : (s.setCore c k).full = s.full := rfl
@[simp] theorem State.setCore_waiters : (s.setCore c k).waiters = s.waiters := rfl
@[simp] theorem State.setCore_objs : (s.setCore c k).objs = s.objs := rfl
@[simp] theorem State.setCore_cleaning : (s.setCore c k).cleaning = s.cleaning := rfl
@[simp] theorem State.setCore_requests : (s.setCore c k).requests = s.requests := rfl
@[simp] theorem State.setCore_transfers : (s.setCore c k).transfers = s.transfers := rfl
@[simp] theorem State.setCore_mordant : (s.setCore c k).mordant = s.mordant := rfl
@[simp] theorem State.setCore_net : (s.setCore c k).net = s.net := rfl
@[simp] theorem State.setCore_outbox : (s.setCore c k).outbox = s.outbox := rfl
@[simp] theorem State.setCore_notices : (s.setCore c k).notices = s.notices := rfl
@[simp] theorem State.setCore_hostBuf : (s.setCore c k).hostBuf = s.hostBuf := rfl
@[simp] theorem State.setCore_clusters : (s.setCore c k).clusters = s.clusters := rfl
@[simp] theorem State.setCore_dies : (s.setCore c k).dies = s.dies := rfl
@[simp] theorem State.setCore_parts : (s.setCore c k).parts = s.parts := rfl
@[simp] theorem State.setCore_ctxs : (s.setCore c k).ctxs = s.ctxs := rfl
@[simp] theorem State.setCore_domains : (s.setCore c k).domains = s.domains := rfl
@[simp] theorem State.setCore_links : (s.setCore c k).links = s.links := rfl
@[simp] theorem State.setCore_revoked : (s.setCore c k).revoked = s.revoked := rfl
@[simp] theorem State.setCore_fenced : (s.setCore c k).fenced = s.fenced := rfl
@[simp] theorem State.setCore_sent : (s.setCore c k).sent = s.sent := rfl
@[simp] theorem State.setCore_delivered : (s.setCore c k).delivered = s.delivered := rfl
@[simp] theorem State.setCore_reorder : (s.setCore c k).reorder = s.reorder := rfl
@[simp] theorem State.setCore_writeLog : (s.setCore c k).writeLog = s.writeLog := rfl
@[simp] theorem State.setCore_holds : (s.setCore c k).holds = s.holds := rfl
@[simp] theorem State.setCore_lakes : (s.setCore c k).lakes = s.lakes := rfl
@[simp] theorem State.setCore_batches : (s.setCore c k).batches = s.batches := rfl
@[simp] theorem State.setCore_flash : (s.setCore c k).flash = s.flash := rfl
@[simp] theorem State.setCore_blocks : (s.setCore c k).blocks = s.blocks := rfl
@[simp] theorem State.setCore_booted : (s.setCore c k).booted = s.booted := rfl
@[simp] theorem State.setCore_busy : (s.setCore c k).busy = s.busy := rfl
@[simp] theorem State.setCore_landings : (s.setCore c k).landings = s.landings := rfl
@[simp] theorem State.setCore_pieces : (s.setCore c k).pieces = s.pieces := rfl
@[simp] theorem State.setCore_conf : (s.setCore c k).conf = s.conf := rfl
@[simp] theorem State.setCore_aliasKey : (s.setCore c k).aliasKey = s.aliasKey := rfl
@[simp] theorem State.setCore_ring : (s.setCore c k).ring = s.ring := rfl
@[simp] theorem State.setCore_out : (s.setCore c k).out = s.out := rfl
end setCore

section modCore
variable (s : State) (c : Nat) (f : Core → Core)
@[simp] theorem State.modCore_time : (s.modCore c f).time = s.time := rfl
@[simp] theorem State.modCore_phys : (s.modCore c f).phys = s.phys := rfl
@[simp] theorem State.modCore_extents : (s.modCore c f).extents = s.extents := rfl
@[simp] theorem State.modCore_core : (s.modCore c f).core = s.core := rfl
@[simp] theorem State.modCore_slot : (s.modCore c f).slot = s.slot := rfl
@[simp] theorem State.modCore_ir : (s.modCore c f).ir = s.ir := rfl
@[simp] theorem State.modCore_replaying : (s.modCore c f).replaying = s.replaying := rfl
@[simp] theorem State.modCore_agenda : (s.modCore c f).agenda = s.agenda := rfl
@[simp] theorem State.modCore_fresh : (s.modCore c f).fresh = s.fresh := rfl
@[simp] theorem State.modCore_mem : (s.modCore c f).mem = s.mem := rfl
@[simp] theorem State.modCore_tags : (s.modCore c f).tags = s.tags := rfl
@[simp] theorem State.modCore_full : (s.modCore c f).full = s.full := rfl
@[simp] theorem State.modCore_waiters : (s.modCore c f).waiters = s.waiters := rfl
@[simp] theorem State.modCore_objs : (s.modCore c f).objs = s.objs := rfl
@[simp] theorem State.modCore_cleaning : (s.modCore c f).cleaning = s.cleaning := rfl
@[simp] theorem State.modCore_requests : (s.modCore c f).requests = s.requests := rfl
@[simp] theorem State.modCore_transfers : (s.modCore c f).transfers = s.transfers := rfl
@[simp] theorem State.modCore_mordant : (s.modCore c f).mordant = s.mordant := rfl
@[simp] theorem State.modCore_net : (s.modCore c f).net = s.net := rfl
@[simp] theorem State.modCore_outbox : (s.modCore c f).outbox = s.outbox := rfl
@[simp] theorem State.modCore_notices : (s.modCore c f).notices = s.notices := rfl
@[simp] theorem State.modCore_hostBuf : (s.modCore c f).hostBuf = s.hostBuf := rfl
@[simp] theorem State.modCore_clusters : (s.modCore c f).clusters = s.clusters := rfl
@[simp] theorem State.modCore_dies : (s.modCore c f).dies = s.dies := rfl
@[simp] theorem State.modCore_parts : (s.modCore c f).parts = s.parts := rfl
@[simp] theorem State.modCore_ctxs : (s.modCore c f).ctxs = s.ctxs := rfl
@[simp] theorem State.modCore_domains : (s.modCore c f).domains = s.domains := rfl
@[simp] theorem State.modCore_links : (s.modCore c f).links = s.links := rfl
@[simp] theorem State.modCore_revoked : (s.modCore c f).revoked = s.revoked := rfl
@[simp] theorem State.modCore_fenced : (s.modCore c f).fenced = s.fenced := rfl
@[simp] theorem State.modCore_sent : (s.modCore c f).sent = s.sent := rfl
@[simp] theorem State.modCore_delivered : (s.modCore c f).delivered = s.delivered := rfl
@[simp] theorem State.modCore_reorder : (s.modCore c f).reorder = s.reorder := rfl
@[simp] theorem State.modCore_writeLog : (s.modCore c f).writeLog = s.writeLog := rfl
@[simp] theorem State.modCore_holds : (s.modCore c f).holds = s.holds := rfl
@[simp] theorem State.modCore_lakes : (s.modCore c f).lakes = s.lakes := rfl
@[simp] theorem State.modCore_batches : (s.modCore c f).batches = s.batches := rfl
@[simp] theorem State.modCore_flash : (s.modCore c f).flash = s.flash := rfl
@[simp] theorem State.modCore_blocks : (s.modCore c f).blocks = s.blocks := rfl
@[simp] theorem State.modCore_booted : (s.modCore c f).booted = s.booted := rfl
@[simp] theorem State.modCore_busy : (s.modCore c f).busy = s.busy := rfl
@[simp] theorem State.modCore_landings : (s.modCore c f).landings = s.landings := rfl
@[simp] theorem State.modCore_pieces : (s.modCore c f).pieces = s.pieces := rfl
@[simp] theorem State.modCore_conf : (s.modCore c f).conf = s.conf := rfl
@[simp] theorem State.modCore_aliasKey : (s.modCore c f).aliasKey = s.aliasKey := rfl
@[simp] theorem State.modCore_ring : (s.modCore c f).ring = s.ring := rfl
@[simp] theorem State.modCore_out : (s.modCore c f).out = s.out := rfl
end modCore

section setSlot
variable (s : State) (c i : Nat) (t : Slot)
@[simp] theorem State.setSlot_time : (s.setSlot c i t).time = s.time := rfl
@[simp] theorem State.setSlot_phys : (s.setSlot c i t).phys = s.phys := rfl
@[simp] theorem State.setSlot_extents : (s.setSlot c i t).extents = s.extents := rfl
@[simp] theorem State.setSlot_core : (s.setSlot c i t).core = s.core := rfl
@[simp] theorem State.setSlot_slot : (s.setSlot c i t).slot = s.slot := rfl
@[simp] theorem State.setSlot_ir : (s.setSlot c i t).ir = s.ir := rfl
@[simp] theorem State.setSlot_replaying : (s.setSlot c i t).replaying = s.replaying := rfl
@[simp] theorem State.setSlot_agenda : (s.setSlot c i t).agenda = s.agenda := rfl
@[simp] theorem State.setSlot_fresh : (s.setSlot c i t).fresh = s.fresh := rfl
@[simp] theorem State.setSlot_mem : (s.setSlot c i t).mem = s.mem := rfl
@[simp] theorem State.setSlot_tags : (s.setSlot c i t).tags = s.tags := rfl
@[simp] theorem State.setSlot_full : (s.setSlot c i t).full = s.full := rfl
@[simp] theorem State.setSlot_waiters : (s.setSlot c i t).waiters = s.waiters := rfl
@[simp] theorem State.setSlot_objs : (s.setSlot c i t).objs = s.objs := rfl
@[simp] theorem State.setSlot_cleaning : (s.setSlot c i t).cleaning = s.cleaning := rfl
@[simp] theorem State.setSlot_requests : (s.setSlot c i t).requests = s.requests := rfl
@[simp] theorem State.setSlot_transfers : (s.setSlot c i t).transfers = s.transfers := rfl
@[simp] theorem State.setSlot_mordant : (s.setSlot c i t).mordant = s.mordant := rfl
@[simp] theorem State.setSlot_net : (s.setSlot c i t).net = s.net := rfl
@[simp] theorem State.setSlot_outbox : (s.setSlot c i t).outbox = s.outbox := rfl
@[simp] theorem State.setSlot_notices : (s.setSlot c i t).notices = s.notices := rfl
@[simp] theorem State.setSlot_hostBuf : (s.setSlot c i t).hostBuf = s.hostBuf := rfl
@[simp] theorem State.setSlot_clusters : (s.setSlot c i t).clusters = s.clusters := rfl
@[simp] theorem State.setSlot_dies : (s.setSlot c i t).dies = s.dies := rfl
@[simp] theorem State.setSlot_parts : (s.setSlot c i t).parts = s.parts := rfl
@[simp] theorem State.setSlot_ctxs : (s.setSlot c i t).ctxs = s.ctxs := rfl
@[simp] theorem State.setSlot_domains : (s.setSlot c i t).domains = s.domains := rfl
@[simp] theorem State.setSlot_links : (s.setSlot c i t).links = s.links := rfl
@[simp] theorem State.setSlot_revoked : (s.setSlot c i t).revoked = s.revoked := rfl
@[simp] theorem State.setSlot_fenced : (s.setSlot c i t).fenced = s.fenced := rfl
@[simp] theorem State.setSlot_sent : (s.setSlot c i t).sent = s.sent := rfl
@[simp] theorem State.setSlot_delivered : (s.setSlot c i t).delivered = s.delivered := rfl
@[simp] theorem State.setSlot_reorder : (s.setSlot c i t).reorder = s.reorder := rfl
@[simp] theorem State.setSlot_writeLog : (s.setSlot c i t).writeLog = s.writeLog := rfl
@[simp] theorem State.setSlot_holds : (s.setSlot c i t).holds = s.holds := rfl
@[simp] theorem State.setSlot_lakes : (s.setSlot c i t).lakes = s.lakes := rfl
@[simp] theorem State.setSlot_batches : (s.setSlot c i t).batches = s.batches := rfl
@[simp] theorem State.setSlot_flash : (s.setSlot c i t).flash = s.flash := rfl
@[simp] theorem State.setSlot_blocks : (s.setSlot c i t).blocks = s.blocks := rfl
@[simp] theorem State.setSlot_booted : (s.setSlot c i t).booted = s.booted := rfl
@[simp] theorem State.setSlot_busy : (s.setSlot c i t).busy = s.busy := rfl
@[simp] theorem State.setSlot_landings : (s.setSlot c i t).landings = s.landings := rfl
@[simp] theorem State.setSlot_pieces : (s.setSlot c i t).pieces = s.pieces := rfl
@[simp] theorem State.setSlot_conf : (s.setSlot c i t).conf = s.conf := rfl
@[simp] theorem State.setSlot_aliasKey : (s.setSlot c i t).aliasKey = s.aliasKey := rfl
@[simp] theorem State.setSlot_ring : (s.setSlot c i t).ring = s.ring := rfl
@[simp] theorem State.setSlot_out : (s.setSlot c i t).out = s.out := rfl
end setSlot

section modSlot
variable (s : State) (c i : Nat) (f : Slot → Slot)
@[simp] theorem State.modSlot_time : (s.modSlot c i f).time = s.time := rfl
@[simp] theorem State.modSlot_phys : (s.modSlot c i f).phys = s.phys := rfl
@[simp] theorem State.modSlot_extents : (s.modSlot c i f).extents = s.extents := rfl
@[simp] theorem State.modSlot_core : (s.modSlot c i f).core = s.core := rfl
@[simp] theorem State.modSlot_slot : (s.modSlot c i f).slot = s.slot := rfl
@[simp] theorem State.modSlot_ir : (s.modSlot c i f).ir = s.ir := rfl
@[simp] theorem State.modSlot_replaying : (s.modSlot c i f).replaying = s.replaying := rfl
@[simp] theorem State.modSlot_agenda : (s.modSlot c i f).agenda = s.agenda := rfl
@[simp] theorem State.modSlot_fresh : (s.modSlot c i f).fresh = s.fresh := rfl
@[simp] theorem State.modSlot_mem : (s.modSlot c i f).mem = s.mem := rfl
@[simp] theorem State.modSlot_tags : (s.modSlot c i f).tags = s.tags := rfl
@[simp] theorem State.modSlot_full : (s.modSlot c i f).full = s.full := rfl
@[simp] theorem State.modSlot_waiters : (s.modSlot c i f).waiters = s.waiters := rfl
@[simp] theorem State.modSlot_objs : (s.modSlot c i f).objs = s.objs := rfl
@[simp] theorem State.modSlot_cleaning : (s.modSlot c i f).cleaning = s.cleaning := rfl
@[simp] theorem State.modSlot_requests : (s.modSlot c i f).requests = s.requests := rfl
@[simp] theorem State.modSlot_transfers : (s.modSlot c i f).transfers = s.transfers := rfl
@[simp] theorem State.modSlot_mordant : (s.modSlot c i f).mordant = s.mordant := rfl
@[simp] theorem State.modSlot_net : (s.modSlot c i f).net = s.net := rfl
@[simp] theorem State.modSlot_outbox : (s.modSlot c i f).outbox = s.outbox := rfl
@[simp] theorem State.modSlot_notices : (s.modSlot c i f).notices = s.notices := rfl
@[simp] theorem State.modSlot_hostBuf : (s.modSlot c i f).hostBuf = s.hostBuf := rfl
@[simp] theorem State.modSlot_clusters : (s.modSlot c i f).clusters = s.clusters := rfl
@[simp] theorem State.modSlot_dies : (s.modSlot c i f).dies = s.dies := rfl
@[simp] theorem State.modSlot_parts : (s.modSlot c i f).parts = s.parts := rfl
@[simp] theorem State.modSlot_ctxs : (s.modSlot c i f).ctxs = s.ctxs := rfl
@[simp] theorem State.modSlot_domains : (s.modSlot c i f).domains = s.domains := rfl
@[simp] theorem State.modSlot_links : (s.modSlot c i f).links = s.links := rfl
@[simp] theorem State.modSlot_revoked : (s.modSlot c i f).revoked = s.revoked := rfl
@[simp] theorem State.modSlot_fenced : (s.modSlot c i f).fenced = s.fenced := rfl
@[simp] theorem State.modSlot_sent : (s.modSlot c i f).sent = s.sent := rfl
@[simp] theorem State.modSlot_delivered : (s.modSlot c i f).delivered = s.delivered := rfl
@[simp] theorem State.modSlot_reorder : (s.modSlot c i f).reorder = s.reorder := rfl
@[simp] theorem State.modSlot_writeLog : (s.modSlot c i f).writeLog = s.writeLog := rfl
@[simp] theorem State.modSlot_holds : (s.modSlot c i f).holds = s.holds := rfl
@[simp] theorem State.modSlot_lakes : (s.modSlot c i f).lakes = s.lakes := rfl
@[simp] theorem State.modSlot_batches : (s.modSlot c i f).batches = s.batches := rfl
@[simp] theorem State.modSlot_flash : (s.modSlot c i f).flash = s.flash := rfl
@[simp] theorem State.modSlot_blocks : (s.modSlot c i f).blocks = s.blocks := rfl
@[simp] theorem State.modSlot_booted : (s.modSlot c i f).booted = s.booted := rfl
@[simp] theorem State.modSlot_busy : (s.modSlot c i f).busy = s.busy := rfl
@[simp] theorem State.modSlot_landings : (s.modSlot c i f).landings = s.landings := rfl
@[simp] theorem State.modSlot_pieces : (s.modSlot c i f).pieces = s.pieces := rfl
@[simp] theorem State.modSlot_conf : (s.modSlot c i f).conf = s.conf := rfl
@[simp] theorem State.modSlot_aliasKey : (s.modSlot c i f).aliasKey = s.aliasKey := rfl
@[simp] theorem State.modSlot_ring : (s.modSlot c i f).ring = s.ring := rfl
@[simp] theorem State.modSlot_out : (s.modSlot c i f).out = s.out := rfl
end modSlot

section modCur
variable (s : State) (f : Slot → Slot)
@[simp] theorem State.modCur_time : (s.modCur f).time = s.time := rfl
@[simp] theorem State.modCur_phys : (s.modCur f).phys = s.phys := rfl
@[simp] theorem State.modCur_extents : (s.modCur f).extents = s.extents := rfl
@[simp] theorem State.modCur_core : (s.modCur f).core = s.core := rfl
@[simp] theorem State.modCur_slot : (s.modCur f).slot = s.slot := rfl
@[simp] theorem State.modCur_ir : (s.modCur f).ir = s.ir := rfl
@[simp] theorem State.modCur_replaying : (s.modCur f).replaying = s.replaying := rfl
@[simp] theorem State.modCur_agenda : (s.modCur f).agenda = s.agenda := rfl
@[simp] theorem State.modCur_fresh : (s.modCur f).fresh = s.fresh := rfl
@[simp] theorem State.modCur_mem : (s.modCur f).mem = s.mem := rfl
@[simp] theorem State.modCur_tags : (s.modCur f).tags = s.tags := rfl
@[simp] theorem State.modCur_full : (s.modCur f).full = s.full := rfl
@[simp] theorem State.modCur_waiters : (s.modCur f).waiters = s.waiters := rfl
@[simp] theorem State.modCur_objs : (s.modCur f).objs = s.objs := rfl
@[simp] theorem State.modCur_cleaning : (s.modCur f).cleaning = s.cleaning := rfl
@[simp] theorem State.modCur_requests : (s.modCur f).requests = s.requests := rfl
@[simp] theorem State.modCur_transfers : (s.modCur f).transfers = s.transfers := rfl
@[simp] theorem State.modCur_mordant : (s.modCur f).mordant = s.mordant := rfl
@[simp] theorem State.modCur_net : (s.modCur f).net = s.net := rfl
@[simp] theorem State.modCur_outbox : (s.modCur f).outbox = s.outbox := rfl
@[simp] theorem State.modCur_notices : (s.modCur f).notices = s.notices := rfl
@[simp] theorem State.modCur_hostBuf : (s.modCur f).hostBuf = s.hostBuf := rfl
@[simp] theorem State.modCur_clusters : (s.modCur f).clusters = s.clusters := rfl
@[simp] theorem State.modCur_dies : (s.modCur f).dies = s.dies := rfl
@[simp] theorem State.modCur_parts : (s.modCur f).parts = s.parts := rfl
@[simp] theorem State.modCur_ctxs : (s.modCur f).ctxs = s.ctxs := rfl
@[simp] theorem State.modCur_domains : (s.modCur f).domains = s.domains := rfl
@[simp] theorem State.modCur_links : (s.modCur f).links = s.links := rfl
@[simp] theorem State.modCur_revoked : (s.modCur f).revoked = s.revoked := rfl
@[simp] theorem State.modCur_fenced : (s.modCur f).fenced = s.fenced := rfl
@[simp] theorem State.modCur_sent : (s.modCur f).sent = s.sent := rfl
@[simp] theorem State.modCur_delivered : (s.modCur f).delivered = s.delivered := rfl
@[simp] theorem State.modCur_reorder : (s.modCur f).reorder = s.reorder := rfl
@[simp] theorem State.modCur_writeLog : (s.modCur f).writeLog = s.writeLog := rfl
@[simp] theorem State.modCur_holds : (s.modCur f).holds = s.holds := rfl
@[simp] theorem State.modCur_lakes : (s.modCur f).lakes = s.lakes := rfl
@[simp] theorem State.modCur_batches : (s.modCur f).batches = s.batches := rfl
@[simp] theorem State.modCur_flash : (s.modCur f).flash = s.flash := rfl
@[simp] theorem State.modCur_blocks : (s.modCur f).blocks = s.blocks := rfl
@[simp] theorem State.modCur_booted : (s.modCur f).booted = s.booted := rfl
@[simp] theorem State.modCur_busy : (s.modCur f).busy = s.busy := rfl
@[simp] theorem State.modCur_landings : (s.modCur f).landings = s.landings := rfl
@[simp] theorem State.modCur_pieces : (s.modCur f).pieces = s.pieces := rfl
@[simp] theorem State.modCur_conf : (s.modCur f).conf = s.conf := rfl
@[simp] theorem State.modCur_aliasKey : (s.modCur f).aliasKey = s.aliasKey := rfl
@[simp] theorem State.modCur_ring : (s.modCur f).ring = s.ring := rfl
@[simp] theorem State.modCur_out : (s.modCur f).out = s.out := rfl
end modCur

section modDom
variable (s : State) (c a : Nat) (f : Domain → Domain)
@[simp] theorem State.modDom_time : (s.modDom c a f).time = s.time := rfl
@[simp] theorem State.modDom_phys : (s.modDom c a f).phys = s.phys := rfl
@[simp] theorem State.modDom_extents : (s.modDom c a f).extents = s.extents := rfl
@[simp] theorem State.modDom_core : (s.modDom c a f).core = s.core := rfl
@[simp] theorem State.modDom_slot : (s.modDom c a f).slot = s.slot := rfl
@[simp] theorem State.modDom_ir : (s.modDom c a f).ir = s.ir := rfl
@[simp] theorem State.modDom_replaying : (s.modDom c a f).replaying = s.replaying := rfl
@[simp] theorem State.modDom_agenda : (s.modDom c a f).agenda = s.agenda := rfl
@[simp] theorem State.modDom_fresh : (s.modDom c a f).fresh = s.fresh := rfl
@[simp] theorem State.modDom_mem : (s.modDom c a f).mem = s.mem := rfl
@[simp] theorem State.modDom_tags : (s.modDom c a f).tags = s.tags := rfl
@[simp] theorem State.modDom_full : (s.modDom c a f).full = s.full := rfl
@[simp] theorem State.modDom_waiters : (s.modDom c a f).waiters = s.waiters := rfl
@[simp] theorem State.modDom_objs : (s.modDom c a f).objs = s.objs := rfl
@[simp] theorem State.modDom_cleaning : (s.modDom c a f).cleaning = s.cleaning := rfl
@[simp] theorem State.modDom_requests : (s.modDom c a f).requests = s.requests := rfl
@[simp] theorem State.modDom_transfers : (s.modDom c a f).transfers = s.transfers := rfl
@[simp] theorem State.modDom_mordant : (s.modDom c a f).mordant = s.mordant := rfl
@[simp] theorem State.modDom_net : (s.modDom c a f).net = s.net := rfl
@[simp] theorem State.modDom_outbox : (s.modDom c a f).outbox = s.outbox := rfl
@[simp] theorem State.modDom_notices : (s.modDom c a f).notices = s.notices := rfl
@[simp] theorem State.modDom_hostBuf : (s.modDom c a f).hostBuf = s.hostBuf := rfl
@[simp] theorem State.modDom_cores : (s.modDom c a f).cores = s.cores := rfl
@[simp] theorem State.modDom_clusters : (s.modDom c a f).clusters = s.clusters := rfl
@[simp] theorem State.modDom_dies : (s.modDom c a f).dies = s.dies := rfl
@[simp] theorem State.modDom_parts : (s.modDom c a f).parts = s.parts := rfl
@[simp] theorem State.modDom_ctxs : (s.modDom c a f).ctxs = s.ctxs := rfl
@[simp] theorem State.modDom_links : (s.modDom c a f).links = s.links := rfl
@[simp] theorem State.modDom_revoked : (s.modDom c a f).revoked = s.revoked := rfl
@[simp] theorem State.modDom_fenced : (s.modDom c a f).fenced = s.fenced := rfl
@[simp] theorem State.modDom_sent : (s.modDom c a f).sent = s.sent := rfl
@[simp] theorem State.modDom_delivered : (s.modDom c a f).delivered = s.delivered := rfl
@[simp] theorem State.modDom_reorder : (s.modDom c a f).reorder = s.reorder := rfl
@[simp] theorem State.modDom_writeLog : (s.modDom c a f).writeLog = s.writeLog := rfl
@[simp] theorem State.modDom_holds : (s.modDom c a f).holds = s.holds := rfl
@[simp] theorem State.modDom_lakes : (s.modDom c a f).lakes = s.lakes := rfl
@[simp] theorem State.modDom_batches : (s.modDom c a f).batches = s.batches := rfl
@[simp] theorem State.modDom_flash : (s.modDom c a f).flash = s.flash := rfl
@[simp] theorem State.modDom_blocks : (s.modDom c a f).blocks = s.blocks := rfl
@[simp] theorem State.modDom_booted : (s.modDom c a f).booted = s.booted := rfl
@[simp] theorem State.modDom_busy : (s.modDom c a f).busy = s.busy := rfl
@[simp] theorem State.modDom_landings : (s.modDom c a f).landings = s.landings := rfl
@[simp] theorem State.modDom_pieces : (s.modDom c a f).pieces = s.pieces := rfl
@[simp] theorem State.modDom_conf : (s.modDom c a f).conf = s.conf := rfl
@[simp] theorem State.modDom_aliasKey : (s.modDom c a f).aliasKey = s.aliasKey := rfl
@[simp] theorem State.modDom_ring : (s.modDom c a f).ring = s.ring := rfl
@[simp] theorem State.modDom_out : (s.modDom c a f).out = s.out := rfl
end modDom

section modCurDom
variable (s : State) (f : Domain → Domain)
@[simp] theorem State.modCurDom_time : (s.modCurDom f).time = s.time := rfl
@[simp] theorem State.modCurDom_phys : (s.modCurDom f).phys = s.phys := rfl
@[simp] theorem State.modCurDom_extents : (s.modCurDom f).extents = s.extents := rfl
@[simp] theorem State.modCurDom_core : (s.modCurDom f).core = s.core := rfl
@[simp] theorem State.modCurDom_slot : (s.modCurDom f).slot = s.slot := rfl
@[simp] theorem State.modCurDom_ir : (s.modCurDom f).ir = s.ir := rfl
@[simp] theorem State.modCurDom_replaying : (s.modCurDom f).replaying = s.replaying := rfl
@[simp] theorem State.modCurDom_agenda : (s.modCurDom f).agenda = s.agenda := rfl
@[simp] theorem State.modCurDom_fresh : (s.modCurDom f).fresh = s.fresh := rfl
@[simp] theorem State.modCurDom_mem : (s.modCurDom f).mem = s.mem := rfl
@[simp] theorem State.modCurDom_tags : (s.modCurDom f).tags = s.tags := rfl
@[simp] theorem State.modCurDom_full : (s.modCurDom f).full = s.full := rfl
@[simp] theorem State.modCurDom_waiters : (s.modCurDom f).waiters = s.waiters := rfl
@[simp] theorem State.modCurDom_objs : (s.modCurDom f).objs = s.objs := rfl
@[simp] theorem State.modCurDom_cleaning : (s.modCurDom f).cleaning = s.cleaning := rfl
@[simp] theorem State.modCurDom_requests : (s.modCurDom f).requests = s.requests := rfl
@[simp] theorem State.modCurDom_transfers : (s.modCurDom f).transfers = s.transfers := rfl
@[simp] theorem State.modCurDom_mordant : (s.modCurDom f).mordant = s.mordant := rfl
@[simp] theorem State.modCurDom_net : (s.modCurDom f).net = s.net := rfl
@[simp] theorem State.modCurDom_outbox : (s.modCurDom f).outbox = s.outbox := rfl
@[simp] theorem State.modCurDom_notices : (s.modCurDom f).notices = s.notices := rfl
@[simp] theorem State.modCurDom_hostBuf : (s.modCurDom f).hostBuf = s.hostBuf := rfl
@[simp] theorem State.modCurDom_cores : (s.modCurDom f).cores = s.cores := rfl
@[simp] theorem State.modCurDom_clusters : (s.modCurDom f).clusters = s.clusters := rfl
@[simp] theorem State.modCurDom_dies : (s.modCurDom f).dies = s.dies := rfl
@[simp] theorem State.modCurDom_parts : (s.modCurDom f).parts = s.parts := rfl
@[simp] theorem State.modCurDom_ctxs : (s.modCurDom f).ctxs = s.ctxs := rfl
@[simp] theorem State.modCurDom_links : (s.modCurDom f).links = s.links := rfl
@[simp] theorem State.modCurDom_revoked : (s.modCurDom f).revoked = s.revoked := rfl
@[simp] theorem State.modCurDom_fenced : (s.modCurDom f).fenced = s.fenced := rfl
@[simp] theorem State.modCurDom_sent : (s.modCurDom f).sent = s.sent := rfl
@[simp] theorem State.modCurDom_delivered : (s.modCurDom f).delivered = s.delivered := rfl
@[simp] theorem State.modCurDom_reorder : (s.modCurDom f).reorder = s.reorder := rfl
@[simp] theorem State.modCurDom_writeLog : (s.modCurDom f).writeLog = s.writeLog := rfl
@[simp] theorem State.modCurDom_holds : (s.modCurDom f).holds = s.holds := rfl
@[simp] theorem State.modCurDom_lakes : (s.modCurDom f).lakes = s.lakes := rfl
@[simp] theorem State.modCurDom_batches : (s.modCurDom f).batches = s.batches := rfl
@[simp] theorem State.modCurDom_flash : (s.modCurDom f).flash = s.flash := rfl
@[simp] theorem State.modCurDom_blocks : (s.modCurDom f).blocks = s.blocks := rfl
@[simp] theorem State.modCurDom_booted : (s.modCurDom f).booted = s.booted := rfl
@[simp] theorem State.modCurDom_busy : (s.modCurDom f).busy = s.busy := rfl
@[simp] theorem State.modCurDom_landings : (s.modCurDom f).landings = s.landings := rfl
@[simp] theorem State.modCurDom_pieces : (s.modCurDom f).pieces = s.pieces := rfl
@[simp] theorem State.modCurDom_conf : (s.modCurDom f).conf = s.conf := rfl
@[simp] theorem State.modCurDom_aliasKey : (s.modCurDom f).aliasKey = s.aliasKey := rfl
@[simp] theorem State.modCurDom_ring : (s.modCurDom f).ring = s.ring := rfl
@[simp] theorem State.modCurDom_out : (s.modCurDom f).out = s.out := rfl
end modCurDom

section modPart
variable (s : State) (p : Nat) (f : Partition → Partition)
@[simp] theorem State.modPart_time : (s.modPart p f).time = s.time := rfl
@[simp] theorem State.modPart_phys : (s.modPart p f).phys = s.phys := rfl
@[simp] theorem State.modPart_extents : (s.modPart p f).extents = s.extents := rfl
@[simp] theorem State.modPart_core : (s.modPart p f).core = s.core := rfl
@[simp] theorem State.modPart_slot : (s.modPart p f).slot = s.slot := rfl
@[simp] theorem State.modPart_ir : (s.modPart p f).ir = s.ir := rfl
@[simp] theorem State.modPart_replaying : (s.modPart p f).replaying = s.replaying := rfl
@[simp] theorem State.modPart_agenda : (s.modPart p f).agenda = s.agenda := rfl
@[simp] theorem State.modPart_fresh : (s.modPart p f).fresh = s.fresh := rfl
@[simp] theorem State.modPart_mem : (s.modPart p f).mem = s.mem := rfl
@[simp] theorem State.modPart_tags : (s.modPart p f).tags = s.tags := rfl
@[simp] theorem State.modPart_full : (s.modPart p f).full = s.full := rfl
@[simp] theorem State.modPart_waiters : (s.modPart p f).waiters = s.waiters := rfl
@[simp] theorem State.modPart_objs : (s.modPart p f).objs = s.objs := rfl
@[simp] theorem State.modPart_cleaning : (s.modPart p f).cleaning = s.cleaning := rfl
@[simp] theorem State.modPart_requests : (s.modPart p f).requests = s.requests := rfl
@[simp] theorem State.modPart_transfers : (s.modPart p f).transfers = s.transfers := rfl
@[simp] theorem State.modPart_mordant : (s.modPart p f).mordant = s.mordant := rfl
@[simp] theorem State.modPart_net : (s.modPart p f).net = s.net := rfl
@[simp] theorem State.modPart_outbox : (s.modPart p f).outbox = s.outbox := rfl
@[simp] theorem State.modPart_notices : (s.modPart p f).notices = s.notices := rfl
@[simp] theorem State.modPart_hostBuf : (s.modPart p f).hostBuf = s.hostBuf := rfl
@[simp] theorem State.modPart_cores : (s.modPart p f).cores = s.cores := rfl
@[simp] theorem State.modPart_clusters : (s.modPart p f).clusters = s.clusters := rfl
@[simp] theorem State.modPart_dies : (s.modPart p f).dies = s.dies := rfl
@[simp] theorem State.modPart_ctxs : (s.modPart p f).ctxs = s.ctxs := rfl
@[simp] theorem State.modPart_domains : (s.modPart p f).domains = s.domains := rfl
@[simp] theorem State.modPart_links : (s.modPart p f).links = s.links := rfl
@[simp] theorem State.modPart_revoked : (s.modPart p f).revoked = s.revoked := rfl
@[simp] theorem State.modPart_fenced : (s.modPart p f).fenced = s.fenced := rfl
@[simp] theorem State.modPart_sent : (s.modPart p f).sent = s.sent := rfl
@[simp] theorem State.modPart_delivered : (s.modPart p f).delivered = s.delivered := rfl
@[simp] theorem State.modPart_reorder : (s.modPart p f).reorder = s.reorder := rfl
@[simp] theorem State.modPart_writeLog : (s.modPart p f).writeLog = s.writeLog := rfl
@[simp] theorem State.modPart_holds : (s.modPart p f).holds = s.holds := rfl
@[simp] theorem State.modPart_lakes : (s.modPart p f).lakes = s.lakes := rfl
@[simp] theorem State.modPart_batches : (s.modPart p f).batches = s.batches := rfl
@[simp] theorem State.modPart_flash : (s.modPart p f).flash = s.flash := rfl
@[simp] theorem State.modPart_blocks : (s.modPart p f).blocks = s.blocks := rfl
@[simp] theorem State.modPart_booted : (s.modPart p f).booted = s.booted := rfl
@[simp] theorem State.modPart_busy : (s.modPart p f).busy = s.busy := rfl
@[simp] theorem State.modPart_landings : (s.modPart p f).landings = s.landings := rfl
@[simp] theorem State.modPart_pieces : (s.modPart p f).pieces = s.pieces := rfl
@[simp] theorem State.modPart_conf : (s.modPart p f).conf = s.conf := rfl
@[simp] theorem State.modPart_aliasKey : (s.modPart p f).aliasKey = s.aliasKey := rfl
@[simp] theorem State.modPart_ring : (s.modPart p f).ring = s.ring := rfl
@[simp] theorem State.modPart_out : (s.modPart p f).out = s.out := rfl
end modPart

section modCluster
variable (s : State) (c : Nat) (f : Cluster → Cluster)
@[simp] theorem State.modCluster_time : (s.modCluster c f).time = s.time := rfl
@[simp] theorem State.modCluster_phys : (s.modCluster c f).phys = s.phys := rfl
@[simp] theorem State.modCluster_extents : (s.modCluster c f).extents = s.extents := rfl
@[simp] theorem State.modCluster_core : (s.modCluster c f).core = s.core := rfl
@[simp] theorem State.modCluster_slot : (s.modCluster c f).slot = s.slot := rfl
@[simp] theorem State.modCluster_ir : (s.modCluster c f).ir = s.ir := rfl
@[simp] theorem State.modCluster_replaying : (s.modCluster c f).replaying = s.replaying := rfl
@[simp] theorem State.modCluster_agenda : (s.modCluster c f).agenda = s.agenda := rfl
@[simp] theorem State.modCluster_fresh : (s.modCluster c f).fresh = s.fresh := rfl
@[simp] theorem State.modCluster_mem : (s.modCluster c f).mem = s.mem := rfl
@[simp] theorem State.modCluster_tags : (s.modCluster c f).tags = s.tags := rfl
@[simp] theorem State.modCluster_full : (s.modCluster c f).full = s.full := rfl
@[simp] theorem State.modCluster_waiters : (s.modCluster c f).waiters = s.waiters := rfl
@[simp] theorem State.modCluster_objs : (s.modCluster c f).objs = s.objs := rfl
@[simp] theorem State.modCluster_cleaning : (s.modCluster c f).cleaning = s.cleaning := rfl
@[simp] theorem State.modCluster_requests : (s.modCluster c f).requests = s.requests := rfl
@[simp] theorem State.modCluster_transfers : (s.modCluster c f).transfers = s.transfers := rfl
@[simp] theorem State.modCluster_mordant : (s.modCluster c f).mordant = s.mordant := rfl
@[simp] theorem State.modCluster_net : (s.modCluster c f).net = s.net := rfl
@[simp] theorem State.modCluster_outbox : (s.modCluster c f).outbox = s.outbox := rfl
@[simp] theorem State.modCluster_notices : (s.modCluster c f).notices = s.notices := rfl
@[simp] theorem State.modCluster_hostBuf : (s.modCluster c f).hostBuf = s.hostBuf := rfl
@[simp] theorem State.modCluster_cores : (s.modCluster c f).cores = s.cores := rfl
@[simp] theorem State.modCluster_dies : (s.modCluster c f).dies = s.dies := rfl
@[simp] theorem State.modCluster_parts : (s.modCluster c f).parts = s.parts := rfl
@[simp] theorem State.modCluster_ctxs : (s.modCluster c f).ctxs = s.ctxs := rfl
@[simp] theorem State.modCluster_domains : (s.modCluster c f).domains = s.domains := rfl
@[simp] theorem State.modCluster_links : (s.modCluster c f).links = s.links := rfl
@[simp] theorem State.modCluster_revoked : (s.modCluster c f).revoked = s.revoked := rfl
@[simp] theorem State.modCluster_fenced : (s.modCluster c f).fenced = s.fenced := rfl
@[simp] theorem State.modCluster_sent : (s.modCluster c f).sent = s.sent := rfl
@[simp] theorem State.modCluster_delivered : (s.modCluster c f).delivered = s.delivered := rfl
@[simp] theorem State.modCluster_reorder : (s.modCluster c f).reorder = s.reorder := rfl
@[simp] theorem State.modCluster_writeLog : (s.modCluster c f).writeLog = s.writeLog := rfl
@[simp] theorem State.modCluster_holds : (s.modCluster c f).holds = s.holds := rfl
@[simp] theorem State.modCluster_lakes : (s.modCluster c f).lakes = s.lakes := rfl
@[simp] theorem State.modCluster_batches : (s.modCluster c f).batches = s.batches := rfl
@[simp] theorem State.modCluster_flash : (s.modCluster c f).flash = s.flash := rfl
@[simp] theorem State.modCluster_blocks : (s.modCluster c f).blocks = s.blocks := rfl
@[simp] theorem State.modCluster_booted : (s.modCluster c f).booted = s.booted := rfl
@[simp] theorem State.modCluster_busy : (s.modCluster c f).busy = s.busy := rfl
@[simp] theorem State.modCluster_landings : (s.modCluster c f).landings = s.landings := rfl
@[simp] theorem State.modCluster_pieces : (s.modCluster c f).pieces = s.pieces := rfl
@[simp] theorem State.modCluster_conf : (s.modCluster c f).conf = s.conf := rfl
@[simp] theorem State.modCluster_aliasKey : (s.modCluster c f).aliasKey = s.aliasKey := rfl
@[simp] theorem State.modCluster_ring : (s.modCluster c f).ring = s.ring := rfl
@[simp] theorem State.modCluster_out : (s.modCluster c f).out = s.out := rfl
end modCluster

section modDie
variable (s : State) (d : Nat) (f : Die → Die)
@[simp] theorem State.modDie_time : (s.modDie d f).time = s.time := rfl
@[simp] theorem State.modDie_phys : (s.modDie d f).phys = s.phys := rfl
@[simp] theorem State.modDie_extents : (s.modDie d f).extents = s.extents := rfl
@[simp] theorem State.modDie_core : (s.modDie d f).core = s.core := rfl
@[simp] theorem State.modDie_slot : (s.modDie d f).slot = s.slot := rfl
@[simp] theorem State.modDie_ir : (s.modDie d f).ir = s.ir := rfl
@[simp] theorem State.modDie_replaying : (s.modDie d f).replaying = s.replaying := rfl
@[simp] theorem State.modDie_agenda : (s.modDie d f).agenda = s.agenda := rfl
@[simp] theorem State.modDie_fresh : (s.modDie d f).fresh = s.fresh := rfl
@[simp] theorem State.modDie_mem : (s.modDie d f).mem = s.mem := rfl
@[simp] theorem State.modDie_tags : (s.modDie d f).tags = s.tags := rfl
@[simp] theorem State.modDie_full : (s.modDie d f).full = s.full := rfl
@[simp] theorem State.modDie_waiters : (s.modDie d f).waiters = s.waiters := rfl
@[simp] theorem State.modDie_objs : (s.modDie d f).objs = s.objs := rfl
@[simp] theorem State.modDie_cleaning : (s.modDie d f).cleaning = s.cleaning := rfl
@[simp] theorem State.modDie_requests : (s.modDie d f).requests = s.requests := rfl
@[simp] theorem State.modDie_transfers : (s.modDie d f).transfers = s.transfers := rfl
@[simp] theorem State.modDie_mordant : (s.modDie d f).mordant = s.mordant := rfl
@[simp] theorem State.modDie_net : (s.modDie d f).net = s.net := rfl
@[simp] theorem State.modDie_outbox : (s.modDie d f).outbox = s.outbox := rfl
@[simp] theorem State.modDie_notices : (s.modDie d f).notices = s.notices := rfl
@[simp] theorem State.modDie_hostBuf : (s.modDie d f).hostBuf = s.hostBuf := rfl
@[simp] theorem State.modDie_cores : (s.modDie d f).cores = s.cores := rfl
@[simp] theorem State.modDie_clusters : (s.modDie d f).clusters = s.clusters := rfl
@[simp] theorem State.modDie_parts : (s.modDie d f).parts = s.parts := rfl
@[simp] theorem State.modDie_ctxs : (s.modDie d f).ctxs = s.ctxs := rfl
@[simp] theorem State.modDie_domains : (s.modDie d f).domains = s.domains := rfl
@[simp] theorem State.modDie_links : (s.modDie d f).links = s.links := rfl
@[simp] theorem State.modDie_revoked : (s.modDie d f).revoked = s.revoked := rfl
@[simp] theorem State.modDie_fenced : (s.modDie d f).fenced = s.fenced := rfl
@[simp] theorem State.modDie_sent : (s.modDie d f).sent = s.sent := rfl
@[simp] theorem State.modDie_delivered : (s.modDie d f).delivered = s.delivered := rfl
@[simp] theorem State.modDie_reorder : (s.modDie d f).reorder = s.reorder := rfl
@[simp] theorem State.modDie_writeLog : (s.modDie d f).writeLog = s.writeLog := rfl
@[simp] theorem State.modDie_holds : (s.modDie d f).holds = s.holds := rfl
@[simp] theorem State.modDie_lakes : (s.modDie d f).lakes = s.lakes := rfl
@[simp] theorem State.modDie_batches : (s.modDie d f).batches = s.batches := rfl
@[simp] theorem State.modDie_flash : (s.modDie d f).flash = s.flash := rfl
@[simp] theorem State.modDie_blocks : (s.modDie d f).blocks = s.blocks := rfl
@[simp] theorem State.modDie_booted : (s.modDie d f).booted = s.booted := rfl
@[simp] theorem State.modDie_busy : (s.modDie d f).busy = s.busy := rfl
@[simp] theorem State.modDie_landings : (s.modDie d f).landings = s.landings := rfl
@[simp] theorem State.modDie_pieces : (s.modDie d f).pieces = s.pieces := rfl
@[simp] theorem State.modDie_conf : (s.modDie d f).conf = s.conf := rfl
@[simp] theorem State.modDie_aliasKey : (s.modDie d f).aliasKey = s.aliasKey := rfl
@[simp] theorem State.modDie_ring : (s.modDie d f).ring = s.ring := rfl
@[simp] theorem State.modDie_out : (s.modDie d f).out = s.out := rfl
end modDie

section setObj
variable (s : State) (o : Nat) (e : Obj)
@[simp] theorem State.setObj_time : (s.setObj o e).time = s.time := rfl
@[simp] theorem State.setObj_phys : (s.setObj o e).phys = s.phys := rfl
@[simp] theorem State.setObj_extents : (s.setObj o e).extents = s.extents := rfl
@[simp] theorem State.setObj_core : (s.setObj o e).core = s.core := rfl
@[simp] theorem State.setObj_slot : (s.setObj o e).slot = s.slot := rfl
@[simp] theorem State.setObj_ir : (s.setObj o e).ir = s.ir := rfl
@[simp] theorem State.setObj_replaying : (s.setObj o e).replaying = s.replaying := rfl
@[simp] theorem State.setObj_agenda : (s.setObj o e).agenda = s.agenda := rfl
@[simp] theorem State.setObj_fresh : (s.setObj o e).fresh = s.fresh := rfl
@[simp] theorem State.setObj_mem : (s.setObj o e).mem = s.mem := rfl
@[simp] theorem State.setObj_tags : (s.setObj o e).tags = s.tags := rfl
@[simp] theorem State.setObj_full : (s.setObj o e).full = s.full := rfl
@[simp] theorem State.setObj_waiters : (s.setObj o e).waiters = s.waiters := rfl
@[simp] theorem State.setObj_cleaning : (s.setObj o e).cleaning = s.cleaning := rfl
@[simp] theorem State.setObj_requests : (s.setObj o e).requests = s.requests := rfl
@[simp] theorem State.setObj_transfers : (s.setObj o e).transfers = s.transfers := rfl
@[simp] theorem State.setObj_mordant : (s.setObj o e).mordant = s.mordant := rfl
@[simp] theorem State.setObj_net : (s.setObj o e).net = s.net := rfl
@[simp] theorem State.setObj_outbox : (s.setObj o e).outbox = s.outbox := rfl
@[simp] theorem State.setObj_notices : (s.setObj o e).notices = s.notices := rfl
@[simp] theorem State.setObj_hostBuf : (s.setObj o e).hostBuf = s.hostBuf := rfl
@[simp] theorem State.setObj_cores : (s.setObj o e).cores = s.cores := rfl
@[simp] theorem State.setObj_clusters : (s.setObj o e).clusters = s.clusters := rfl
@[simp] theorem State.setObj_dies : (s.setObj o e).dies = s.dies := rfl
@[simp] theorem State.setObj_parts : (s.setObj o e).parts = s.parts := rfl
@[simp] theorem State.setObj_ctxs : (s.setObj o e).ctxs = s.ctxs := rfl
@[simp] theorem State.setObj_domains : (s.setObj o e).domains = s.domains := rfl
@[simp] theorem State.setObj_links : (s.setObj o e).links = s.links := rfl
@[simp] theorem State.setObj_revoked : (s.setObj o e).revoked = s.revoked := rfl
@[simp] theorem State.setObj_fenced : (s.setObj o e).fenced = s.fenced := rfl
@[simp] theorem State.setObj_sent : (s.setObj o e).sent = s.sent := rfl
@[simp] theorem State.setObj_delivered : (s.setObj o e).delivered = s.delivered := rfl
@[simp] theorem State.setObj_reorder : (s.setObj o e).reorder = s.reorder := rfl
@[simp] theorem State.setObj_writeLog : (s.setObj o e).writeLog = s.writeLog := rfl
@[simp] theorem State.setObj_holds : (s.setObj o e).holds = s.holds := rfl
@[simp] theorem State.setObj_lakes : (s.setObj o e).lakes = s.lakes := rfl
@[simp] theorem State.setObj_batches : (s.setObj o e).batches = s.batches := rfl
@[simp] theorem State.setObj_flash : (s.setObj o e).flash = s.flash := rfl
@[simp] theorem State.setObj_blocks : (s.setObj o e).blocks = s.blocks := rfl
@[simp] theorem State.setObj_booted : (s.setObj o e).booted = s.booted := rfl
@[simp] theorem State.setObj_busy : (s.setObj o e).busy = s.busy := rfl
@[simp] theorem State.setObj_landings : (s.setObj o e).landings = s.landings := rfl
@[simp] theorem State.setObj_pieces : (s.setObj o e).pieces = s.pieces := rfl
@[simp] theorem State.setObj_conf : (s.setObj o e).conf = s.conf := rfl
@[simp] theorem State.setObj_aliasKey : (s.setObj o e).aliasKey = s.aliasKey := rfl
@[simp] theorem State.setObj_ring : (s.setObj o e).ring = s.ring := rfl
@[simp] theorem State.setObj_out : (s.setObj o e).out = s.out := rfl
end setObj

section modObj
variable (s : State) (o : Nat) (f : Obj → Obj)
@[simp] theorem State.modObj_time : (s.modObj o f).time = s.time := rfl
@[simp] theorem State.modObj_phys : (s.modObj o f).phys = s.phys := rfl
@[simp] theorem State.modObj_extents : (s.modObj o f).extents = s.extents := rfl
@[simp] theorem State.modObj_core : (s.modObj o f).core = s.core := rfl
@[simp] theorem State.modObj_slot : (s.modObj o f).slot = s.slot := rfl
@[simp] theorem State.modObj_ir : (s.modObj o f).ir = s.ir := rfl
@[simp] theorem State.modObj_replaying : (s.modObj o f).replaying = s.replaying := rfl
@[simp] theorem State.modObj_agenda : (s.modObj o f).agenda = s.agenda := rfl
@[simp] theorem State.modObj_fresh : (s.modObj o f).fresh = s.fresh := rfl
@[simp] theorem State.modObj_mem : (s.modObj o f).mem = s.mem := rfl
@[simp] theorem State.modObj_tags : (s.modObj o f).tags = s.tags := rfl
@[simp] theorem State.modObj_full : (s.modObj o f).full = s.full := rfl
@[simp] theorem State.modObj_waiters : (s.modObj o f).waiters = s.waiters := rfl
@[simp] theorem State.modObj_cleaning : (s.modObj o f).cleaning = s.cleaning := rfl
@[simp] theorem State.modObj_requests : (s.modObj o f).requests = s.requests := rfl
@[simp] theorem State.modObj_transfers : (s.modObj o f).transfers = s.transfers := rfl
@[simp] theorem State.modObj_mordant : (s.modObj o f).mordant = s.mordant := rfl
@[simp] theorem State.modObj_net : (s.modObj o f).net = s.net := rfl
@[simp] theorem State.modObj_outbox : (s.modObj o f).outbox = s.outbox := rfl
@[simp] theorem State.modObj_notices : (s.modObj o f).notices = s.notices := rfl
@[simp] theorem State.modObj_hostBuf : (s.modObj o f).hostBuf = s.hostBuf := rfl
@[simp] theorem State.modObj_cores : (s.modObj o f).cores = s.cores := rfl
@[simp] theorem State.modObj_clusters : (s.modObj o f).clusters = s.clusters := rfl
@[simp] theorem State.modObj_dies : (s.modObj o f).dies = s.dies := rfl
@[simp] theorem State.modObj_parts : (s.modObj o f).parts = s.parts := rfl
@[simp] theorem State.modObj_ctxs : (s.modObj o f).ctxs = s.ctxs := rfl
@[simp] theorem State.modObj_domains : (s.modObj o f).domains = s.domains := rfl
@[simp] theorem State.modObj_links : (s.modObj o f).links = s.links := rfl
@[simp] theorem State.modObj_revoked : (s.modObj o f).revoked = s.revoked := rfl
@[simp] theorem State.modObj_fenced : (s.modObj o f).fenced = s.fenced := rfl
@[simp] theorem State.modObj_sent : (s.modObj o f).sent = s.sent := rfl
@[simp] theorem State.modObj_delivered : (s.modObj o f).delivered = s.delivered := rfl
@[simp] theorem State.modObj_reorder : (s.modObj o f).reorder = s.reorder := rfl
@[simp] theorem State.modObj_writeLog : (s.modObj o f).writeLog = s.writeLog := rfl
@[simp] theorem State.modObj_holds : (s.modObj o f).holds = s.holds := rfl
@[simp] theorem State.modObj_lakes : (s.modObj o f).lakes = s.lakes := rfl
@[simp] theorem State.modObj_batches : (s.modObj o f).batches = s.batches := rfl
@[simp] theorem State.modObj_flash : (s.modObj o f).flash = s.flash := rfl
@[simp] theorem State.modObj_blocks : (s.modObj o f).blocks = s.blocks := rfl
@[simp] theorem State.modObj_booted : (s.modObj o f).booted = s.booted := rfl
@[simp] theorem State.modObj_busy : (s.modObj o f).busy = s.busy := rfl
@[simp] theorem State.modObj_landings : (s.modObj o f).landings = s.landings := rfl
@[simp] theorem State.modObj_pieces : (s.modObj o f).pieces = s.pieces := rfl
@[simp] theorem State.modObj_conf : (s.modObj o f).conf = s.conf := rfl
@[simp] theorem State.modObj_aliasKey : (s.modObj o f).aliasKey = s.aliasKey := rfl
@[simp] theorem State.modObj_ring : (s.modObj o f).ring = s.ring := rfl
@[simp] theorem State.modObj_out : (s.modObj o f).out = s.out := rfl
end modObj

section drawn
variable (s : State)
@[simp] theorem State.drawn_time : (s.drawn).time = s.time := rfl
@[simp] theorem State.drawn_phys : (s.drawn).phys = s.phys := rfl
@[simp] theorem State.drawn_extents : (s.drawn).extents = s.extents := rfl
@[simp] theorem State.drawn_core : (s.drawn).core = s.core := rfl
@[simp] theorem State.drawn_slot : (s.drawn).slot = s.slot := rfl
@[simp] theorem State.drawn_ir : (s.drawn).ir = s.ir := rfl
@[simp] theorem State.drawn_replaying : (s.drawn).replaying = s.replaying := rfl
@[simp] theorem State.drawn_agenda : (s.drawn).agenda = s.agenda := rfl
@[simp] theorem State.drawn_mem : (s.drawn).mem = s.mem := rfl
@[simp] theorem State.drawn_tags : (s.drawn).tags = s.tags := rfl
@[simp] theorem State.drawn_full : (s.drawn).full = s.full := rfl
@[simp] theorem State.drawn_waiters : (s.drawn).waiters = s.waiters := rfl
@[simp] theorem State.drawn_objs : (s.drawn).objs = s.objs := rfl
@[simp] theorem State.drawn_cleaning : (s.drawn).cleaning = s.cleaning := rfl
@[simp] theorem State.drawn_requests : (s.drawn).requests = s.requests := rfl
@[simp] theorem State.drawn_transfers : (s.drawn).transfers = s.transfers := rfl
@[simp] theorem State.drawn_mordant : (s.drawn).mordant = s.mordant := rfl
@[simp] theorem State.drawn_net : (s.drawn).net = s.net := rfl
@[simp] theorem State.drawn_outbox : (s.drawn).outbox = s.outbox := rfl
@[simp] theorem State.drawn_notices : (s.drawn).notices = s.notices := rfl
@[simp] theorem State.drawn_hostBuf : (s.drawn).hostBuf = s.hostBuf := rfl
@[simp] theorem State.drawn_cores : (s.drawn).cores = s.cores := rfl
@[simp] theorem State.drawn_clusters : (s.drawn).clusters = s.clusters := rfl
@[simp] theorem State.drawn_dies : (s.drawn).dies = s.dies := rfl
@[simp] theorem State.drawn_parts : (s.drawn).parts = s.parts := rfl
@[simp] theorem State.drawn_ctxs : (s.drawn).ctxs = s.ctxs := rfl
@[simp] theorem State.drawn_domains : (s.drawn).domains = s.domains := rfl
@[simp] theorem State.drawn_links : (s.drawn).links = s.links := rfl
@[simp] theorem State.drawn_revoked : (s.drawn).revoked = s.revoked := rfl
@[simp] theorem State.drawn_fenced : (s.drawn).fenced = s.fenced := rfl
@[simp] theorem State.drawn_sent : (s.drawn).sent = s.sent := rfl
@[simp] theorem State.drawn_delivered : (s.drawn).delivered = s.delivered := rfl
@[simp] theorem State.drawn_reorder : (s.drawn).reorder = s.reorder := rfl
@[simp] theorem State.drawn_writeLog : (s.drawn).writeLog = s.writeLog := rfl
@[simp] theorem State.drawn_holds : (s.drawn).holds = s.holds := rfl
@[simp] theorem State.drawn_lakes : (s.drawn).lakes = s.lakes := rfl
@[simp] theorem State.drawn_batches : (s.drawn).batches = s.batches := rfl
@[simp] theorem State.drawn_flash : (s.drawn).flash = s.flash := rfl
@[simp] theorem State.drawn_blocks : (s.drawn).blocks = s.blocks := rfl
@[simp] theorem State.drawn_booted : (s.drawn).booted = s.booted := rfl
@[simp] theorem State.drawn_busy : (s.drawn).busy = s.busy := rfl
@[simp] theorem State.drawn_landings : (s.drawn).landings = s.landings := rfl
@[simp] theorem State.drawn_pieces : (s.drawn).pieces = s.pieces := rfl
@[simp] theorem State.drawn_conf : (s.drawn).conf = s.conf := rfl
@[simp] theorem State.drawn_aliasKey : (s.drawn).aliasKey = s.aliasKey := rfl
@[simp] theorem State.drawn_ring : (s.drawn).ring = s.ring := rfl
@[simp] theorem State.drawn_out : (s.drawn).out = s.out := rfl
end drawn

section count
variable (s : State) (c a n k : Nat)
@[simp] theorem State.count_time : (s.count c a n k).time = s.time := rfl
@[simp] theorem State.count_phys : (s.count c a n k).phys = s.phys := rfl
@[simp] theorem State.count_extents : (s.count c a n k).extents = s.extents := rfl
@[simp] theorem State.count_core : (s.count c a n k).core = s.core := rfl
@[simp] theorem State.count_slot : (s.count c a n k).slot = s.slot := rfl
@[simp] theorem State.count_ir : (s.count c a n k).ir = s.ir := rfl
@[simp] theorem State.count_replaying : (s.count c a n k).replaying = s.replaying := rfl
@[simp] theorem State.count_agenda : (s.count c a n k).agenda = s.agenda := rfl
@[simp] theorem State.count_fresh : (s.count c a n k).fresh = s.fresh := rfl
@[simp] theorem State.count_mem : (s.count c a n k).mem = s.mem := rfl
@[simp] theorem State.count_tags : (s.count c a n k).tags = s.tags := rfl
@[simp] theorem State.count_full : (s.count c a n k).full = s.full := rfl
@[simp] theorem State.count_waiters : (s.count c a n k).waiters = s.waiters := rfl
@[simp] theorem State.count_objs : (s.count c a n k).objs = s.objs := rfl
@[simp] theorem State.count_cleaning : (s.count c a n k).cleaning = s.cleaning := rfl
@[simp] theorem State.count_requests : (s.count c a n k).requests = s.requests := rfl
@[simp] theorem State.count_transfers : (s.count c a n k).transfers = s.transfers := rfl
@[simp] theorem State.count_mordant : (s.count c a n k).mordant = s.mordant := rfl
@[simp] theorem State.count_net : (s.count c a n k).net = s.net := rfl
@[simp] theorem State.count_outbox : (s.count c a n k).outbox = s.outbox := rfl
@[simp] theorem State.count_notices : (s.count c a n k).notices = s.notices := rfl
@[simp] theorem State.count_hostBuf : (s.count c a n k).hostBuf = s.hostBuf := rfl
@[simp] theorem State.count_cores : (s.count c a n k).cores = s.cores := rfl
@[simp] theorem State.count_clusters : (s.count c a n k).clusters = s.clusters := rfl
@[simp] theorem State.count_dies : (s.count c a n k).dies = s.dies := rfl
@[simp] theorem State.count_parts : (s.count c a n k).parts = s.parts := rfl
@[simp] theorem State.count_ctxs : (s.count c a n k).ctxs = s.ctxs := rfl
@[simp] theorem State.count_links : (s.count c a n k).links = s.links := rfl
@[simp] theorem State.count_revoked : (s.count c a n k).revoked = s.revoked := rfl
@[simp] theorem State.count_fenced : (s.count c a n k).fenced = s.fenced := rfl
@[simp] theorem State.count_sent : (s.count c a n k).sent = s.sent := rfl
@[simp] theorem State.count_delivered : (s.count c a n k).delivered = s.delivered := rfl
@[simp] theorem State.count_reorder : (s.count c a n k).reorder = s.reorder := rfl
@[simp] theorem State.count_writeLog : (s.count c a n k).writeLog = s.writeLog := rfl
@[simp] theorem State.count_holds : (s.count c a n k).holds = s.holds := rfl
@[simp] theorem State.count_lakes : (s.count c a n k).lakes = s.lakes := rfl
@[simp] theorem State.count_batches : (s.count c a n k).batches = s.batches := rfl
@[simp] theorem State.count_flash : (s.count c a n k).flash = s.flash := rfl
@[simp] theorem State.count_blocks : (s.count c a n k).blocks = s.blocks := rfl
@[simp] theorem State.count_booted : (s.count c a n k).booted = s.booted := rfl
@[simp] theorem State.count_busy : (s.count c a n k).busy = s.busy := rfl
@[simp] theorem State.count_landings : (s.count c a n k).landings = s.landings := rfl
@[simp] theorem State.count_pieces : (s.count c a n k).pieces = s.pieces := rfl
@[simp] theorem State.count_conf : (s.count c a n k).conf = s.conf := rfl
@[simp] theorem State.count_aliasKey : (s.count c a n k).aliasKey = s.aliasKey := rfl
@[simp] theorem State.count_ring : (s.count c a n k).ring = s.ring := rfl
@[simp] theorem State.count_out : (s.count c a n k).out = s.out := rfl
end count

section countPart
variable (s : State) (p n k : Nat)
@[simp] theorem State.countPart_time : (s.countPart p n k).time = s.time := rfl
@[simp] theorem State.countPart_phys : (s.countPart p n k).phys = s.phys := rfl
@[simp] theorem State.countPart_extents : (s.countPart p n k).extents = s.extents := rfl
@[simp] theorem State.countPart_core : (s.countPart p n k).core = s.core := rfl
@[simp] theorem State.countPart_slot : (s.countPart p n k).slot = s.slot := rfl
@[simp] theorem State.countPart_ir : (s.countPart p n k).ir = s.ir := rfl
@[simp] theorem State.countPart_replaying : (s.countPart p n k).replaying = s.replaying := rfl
@[simp] theorem State.countPart_agenda : (s.countPart p n k).agenda = s.agenda := rfl
@[simp] theorem State.countPart_fresh : (s.countPart p n k).fresh = s.fresh := rfl
@[simp] theorem State.countPart_mem : (s.countPart p n k).mem = s.mem := rfl
@[simp] theorem State.countPart_tags : (s.countPart p n k).tags = s.tags := rfl
@[simp] theorem State.countPart_full : (s.countPart p n k).full = s.full := rfl
@[simp] theorem State.countPart_waiters : (s.countPart p n k).waiters = s.waiters := rfl
@[simp] theorem State.countPart_objs : (s.countPart p n k).objs = s.objs := rfl
@[simp] theorem State.countPart_cleaning : (s.countPart p n k).cleaning = s.cleaning := rfl
@[simp] theorem State.countPart_requests : (s.countPart p n k).requests = s.requests := rfl
@[simp] theorem State.countPart_transfers : (s.countPart p n k).transfers = s.transfers := rfl
@[simp] theorem State.countPart_mordant : (s.countPart p n k).mordant = s.mordant := rfl
@[simp] theorem State.countPart_net : (s.countPart p n k).net = s.net := rfl
@[simp] theorem State.countPart_outbox : (s.countPart p n k).outbox = s.outbox := rfl
@[simp] theorem State.countPart_notices : (s.countPart p n k).notices = s.notices := rfl
@[simp] theorem State.countPart_hostBuf : (s.countPart p n k).hostBuf = s.hostBuf := rfl
@[simp] theorem State.countPart_cores : (s.countPart p n k).cores = s.cores := rfl
@[simp] theorem State.countPart_clusters : (s.countPart p n k).clusters = s.clusters := rfl
@[simp] theorem State.countPart_dies : (s.countPart p n k).dies = s.dies := rfl
@[simp] theorem State.countPart_ctxs : (s.countPart p n k).ctxs = s.ctxs := rfl
@[simp] theorem State.countPart_domains : (s.countPart p n k).domains = s.domains := rfl
@[simp] theorem State.countPart_links : (s.countPart p n k).links = s.links := rfl
@[simp] theorem State.countPart_revoked : (s.countPart p n k).revoked = s.revoked := rfl
@[simp] theorem State.countPart_fenced : (s.countPart p n k).fenced = s.fenced := rfl
@[simp] theorem State.countPart_sent : (s.countPart p n k).sent = s.sent := rfl
@[simp] theorem State.countPart_delivered : (s.countPart p n k).delivered = s.delivered := rfl
@[simp] theorem State.countPart_reorder : (s.countPart p n k).reorder = s.reorder := rfl
@[simp] theorem State.countPart_writeLog : (s.countPart p n k).writeLog = s.writeLog := rfl
@[simp] theorem State.countPart_holds : (s.countPart p n k).holds = s.holds := rfl
@[simp] theorem State.countPart_lakes : (s.countPart p n k).lakes = s.lakes := rfl
@[simp] theorem State.countPart_batches : (s.countPart p n k).batches = s.batches := rfl
@[simp] theorem State.countPart_flash : (s.countPart p n k).flash = s.flash := rfl
@[simp] theorem State.countPart_blocks : (s.countPart p n k).blocks = s.blocks := rfl
@[simp] theorem State.countPart_booted : (s.countPart p n k).booted = s.booted := rfl
@[simp] theorem State.countPart_busy : (s.countPart p n k).busy = s.busy := rfl
@[simp] theorem State.countPart_landings : (s.countPart p n k).landings = s.landings := rfl
@[simp] theorem State.countPart_pieces : (s.countPart p n k).pieces = s.pieces := rfl
@[simp] theorem State.countPart_conf : (s.countPart p n k).conf = s.conf := rfl
@[simp] theorem State.countPart_aliasKey : (s.countPart p n k).aliasKey = s.aliasKey := rfl
@[simp] theorem State.countPart_ring : (s.countPart p n k).ring = s.ring := rfl
@[simp] theorem State.countPart_out : (s.countPart p n k).out = s.out := rfl
end countPart

section setField
variable (s : State) (l : Nat) (m : Mordant)
@[simp] theorem State.setField_time : (s.setField l m).time = s.time := rfl
@[simp] theorem State.setField_phys : (s.setField l m).phys = s.phys := rfl
@[simp] theorem State.setField_extents : (s.setField l m).extents = s.extents := rfl
@[simp] theorem State.setField_core : (s.setField l m).core = s.core := rfl
@[simp] theorem State.setField_slot : (s.setField l m).slot = s.slot := rfl
@[simp] theorem State.setField_ir : (s.setField l m).ir = s.ir := rfl
@[simp] theorem State.setField_replaying : (s.setField l m).replaying = s.replaying := rfl
@[simp] theorem State.setField_agenda : (s.setField l m).agenda = s.agenda := rfl
@[simp] theorem State.setField_fresh : (s.setField l m).fresh = s.fresh := rfl
@[simp] theorem State.setField_mem : (s.setField l m).mem = s.mem := rfl
@[simp] theorem State.setField_tags : (s.setField l m).tags = s.tags := rfl
@[simp] theorem State.setField_full : (s.setField l m).full = s.full := rfl
@[simp] theorem State.setField_waiters : (s.setField l m).waiters = s.waiters := rfl
@[simp] theorem State.setField_objs : (s.setField l m).objs = s.objs := rfl
@[simp] theorem State.setField_cleaning : (s.setField l m).cleaning = s.cleaning := rfl
@[simp] theorem State.setField_requests : (s.setField l m).requests = s.requests := rfl
@[simp] theorem State.setField_transfers : (s.setField l m).transfers = s.transfers := rfl
@[simp] theorem State.setField_net : (s.setField l m).net = s.net := rfl
@[simp] theorem State.setField_outbox : (s.setField l m).outbox = s.outbox := rfl
@[simp] theorem State.setField_notices : (s.setField l m).notices = s.notices := rfl
@[simp] theorem State.setField_hostBuf : (s.setField l m).hostBuf = s.hostBuf := rfl
@[simp] theorem State.setField_cores : (s.setField l m).cores = s.cores := rfl
@[simp] theorem State.setField_clusters : (s.setField l m).clusters = s.clusters := rfl
@[simp] theorem State.setField_dies : (s.setField l m).dies = s.dies := rfl
@[simp] theorem State.setField_parts : (s.setField l m).parts = s.parts := rfl
@[simp] theorem State.setField_ctxs : (s.setField l m).ctxs = s.ctxs := rfl
@[simp] theorem State.setField_domains : (s.setField l m).domains = s.domains := rfl
@[simp] theorem State.setField_links : (s.setField l m).links = s.links := rfl
@[simp] theorem State.setField_revoked : (s.setField l m).revoked = s.revoked := rfl
@[simp] theorem State.setField_fenced : (s.setField l m).fenced = s.fenced := rfl
@[simp] theorem State.setField_sent : (s.setField l m).sent = s.sent := rfl
@[simp] theorem State.setField_delivered : (s.setField l m).delivered = s.delivered := rfl
@[simp] theorem State.setField_reorder : (s.setField l m).reorder = s.reorder := rfl
@[simp] theorem State.setField_writeLog : (s.setField l m).writeLog = s.writeLog := rfl
@[simp] theorem State.setField_holds : (s.setField l m).holds = s.holds := rfl
@[simp] theorem State.setField_lakes : (s.setField l m).lakes = s.lakes := rfl
@[simp] theorem State.setField_batches : (s.setField l m).batches = s.batches := rfl
@[simp] theorem State.setField_flash : (s.setField l m).flash = s.flash := rfl
@[simp] theorem State.setField_blocks : (s.setField l m).blocks = s.blocks := rfl
@[simp] theorem State.setField_booted : (s.setField l m).booted = s.booted := rfl
@[simp] theorem State.setField_busy : (s.setField l m).busy = s.busy := rfl
@[simp] theorem State.setField_landings : (s.setField l m).landings = s.landings := rfl
@[simp] theorem State.setField_pieces : (s.setField l m).pieces = s.pieces := rfl
@[simp] theorem State.setField_conf : (s.setField l m).conf = s.conf := rfl
@[simp] theorem State.setField_aliasKey : (s.setField l m).aliasKey = s.aliasKey := rfl
@[simp] theorem State.setField_ring : (s.setField l m).ring = s.ring := rfl
@[simp] theorem State.setField_out : (s.setField l m).out = s.out := rfl
end setField

section setTag
variable (s : State) (a : Nat) (t : Bool)
@[simp] theorem State.setTag_time : (s.setTag a t).time = s.time := rfl
@[simp] theorem State.setTag_phys : (s.setTag a t).phys = s.phys := rfl
@[simp] theorem State.setTag_extents : (s.setTag a t).extents = s.extents := rfl
@[simp] theorem State.setTag_core : (s.setTag a t).core = s.core := rfl
@[simp] theorem State.setTag_slot : (s.setTag a t).slot = s.slot := rfl
@[simp] theorem State.setTag_ir : (s.setTag a t).ir = s.ir := rfl
@[simp] theorem State.setTag_replaying : (s.setTag a t).replaying = s.replaying := rfl
@[simp] theorem State.setTag_agenda : (s.setTag a t).agenda = s.agenda := rfl
@[simp] theorem State.setTag_fresh : (s.setTag a t).fresh = s.fresh := rfl
@[simp] theorem State.setTag_mem : (s.setTag a t).mem = s.mem := rfl
@[simp] theorem State.setTag_full : (s.setTag a t).full = s.full := rfl
@[simp] theorem State.setTag_waiters : (s.setTag a t).waiters = s.waiters := rfl
@[simp] theorem State.setTag_objs : (s.setTag a t).objs = s.objs := rfl
@[simp] theorem State.setTag_cleaning : (s.setTag a t).cleaning = s.cleaning := rfl
@[simp] theorem State.setTag_requests : (s.setTag a t).requests = s.requests := rfl
@[simp] theorem State.setTag_transfers : (s.setTag a t).transfers = s.transfers := rfl
@[simp] theorem State.setTag_mordant : (s.setTag a t).mordant = s.mordant := rfl
@[simp] theorem State.setTag_net : (s.setTag a t).net = s.net := rfl
@[simp] theorem State.setTag_outbox : (s.setTag a t).outbox = s.outbox := rfl
@[simp] theorem State.setTag_notices : (s.setTag a t).notices = s.notices := rfl
@[simp] theorem State.setTag_hostBuf : (s.setTag a t).hostBuf = s.hostBuf := rfl
@[simp] theorem State.setTag_cores : (s.setTag a t).cores = s.cores := rfl
@[simp] theorem State.setTag_clusters : (s.setTag a t).clusters = s.clusters := rfl
@[simp] theorem State.setTag_dies : (s.setTag a t).dies = s.dies := rfl
@[simp] theorem State.setTag_parts : (s.setTag a t).parts = s.parts := rfl
@[simp] theorem State.setTag_ctxs : (s.setTag a t).ctxs = s.ctxs := rfl
@[simp] theorem State.setTag_domains : (s.setTag a t).domains = s.domains := rfl
@[simp] theorem State.setTag_links : (s.setTag a t).links = s.links := rfl
@[simp] theorem State.setTag_revoked : (s.setTag a t).revoked = s.revoked := rfl
@[simp] theorem State.setTag_fenced : (s.setTag a t).fenced = s.fenced := rfl
@[simp] theorem State.setTag_sent : (s.setTag a t).sent = s.sent := rfl
@[simp] theorem State.setTag_delivered : (s.setTag a t).delivered = s.delivered := rfl
@[simp] theorem State.setTag_reorder : (s.setTag a t).reorder = s.reorder := rfl
@[simp] theorem State.setTag_writeLog : (s.setTag a t).writeLog = s.writeLog := rfl
@[simp] theorem State.setTag_holds : (s.setTag a t).holds = s.holds := rfl
@[simp] theorem State.setTag_lakes : (s.setTag a t).lakes = s.lakes := rfl
@[simp] theorem State.setTag_batches : (s.setTag a t).batches = s.batches := rfl
@[simp] theorem State.setTag_flash : (s.setTag a t).flash = s.flash := rfl
@[simp] theorem State.setTag_blocks : (s.setTag a t).blocks = s.blocks := rfl
@[simp] theorem State.setTag_booted : (s.setTag a t).booted = s.booted := rfl
@[simp] theorem State.setTag_busy : (s.setTag a t).busy = s.busy := rfl
@[simp] theorem State.setTag_landings : (s.setTag a t).landings = s.landings := rfl
@[simp] theorem State.setTag_pieces : (s.setTag a t).pieces = s.pieces := rfl
@[simp] theorem State.setTag_conf : (s.setTag a t).conf = s.conf := rfl
@[simp] theorem State.setTag_aliasKey : (s.setTag a t).aliasKey = s.aliasKey := rfl
@[simp] theorem State.setTag_ring : (s.setTag a t).ring = s.ring := rfl
@[simp] theorem State.setTag_out : (s.setTag a t).out = s.out := rfl
end setTag

/-! ### Slots -/

section setPc
variable (t : Slot) (k : Nat)
@[simp] theorem Slot.setPc_state : (t.setPc k).state = t.state := rfl
@[simp] theorem Slot.setPc_kind : (t.setPc k).kind = t.kind := rfl
@[simp] theorem Slot.setPc_pair : (t.setPc k).pair = t.pair := rfl
@[simp] theorem Slot.setPc_partner : (t.setPc k).partner = t.partner := rfl
@[simp] theorem Slot.setPc_asid : (t.setPc k).asid = t.asid := rfl
@[simp] theorem Slot.setPc_c : (t.setPc k).c = t.c := rfl
@[simp] theorem Slot.setPc_v : (t.setPc k).v = t.v := rfl
@[simp] theorem Slot.setPc_p : (t.setPc k).p = t.p := rfl
@[simp] theorem Slot.setPc_fpmode : (t.setPc k).fpmode = t.fpmode := rfl
@[simp] theorem Slot.setPc_fpflags : (t.setPc k).fpflags = t.fpflags := rfl
@[simp] theorem Slot.setPc_seed : (t.setPc k).seed = t.seed := rfl
@[simp] theorem Slot.setPc_clock : (t.setPc k).clock = t.clock := rfl
@[simp] theorem Slot.setPc_streams : (t.setPc k).streams = t.streams := rfl
@[simp] theorem Slot.setPc_region : (t.setPc k).region = t.region := rfl
@[simp] theorem Slot.setPc_loop : (t.setPc k).loop = t.loop := rfl
@[simp] theorem Slot.setPc_barrier : (t.setPc k).barrier = t.barrier := rfl
@[simp] theorem Slot.setPc_sbuf : (t.setPc k).sbuf = t.sbuf := rfl
@[simp] theorem Slot.setPc_wrote : (t.setPc k).wrote = t.wrote := rfl
@[simp] theorem Slot.setPc_frame : (t.setPc k).frame = t.frame := rfl
@[simp] theorem Slot.setPc_lastCode : (t.setPc k).lastCode = t.lastCode := rfl
@[simp] theorem Slot.setPc_image : (t.setPc k).image = t.image := rfl
@[simp] theorem Slot.setPc_accSel : (t.setPc k).accSel = t.accSel := rfl
@[simp] theorem Slot.setPc_lastIssue : (t.setPc k).lastIssue = t.lastIssue := rfl
@[simp] theorem Slot.setPc_yielded : (t.setPc k).yielded = t.yielded := rfl
@[simp] theorem Slot.setPc_pend : (t.setPc k).pend = t.pend := rfl
@[simp] theorem Slot.setPc_trig : (t.setPc k).trig = t.trig := rfl
@[simp] theorem Slot.setPc_serial : (t.setPc k).serial = t.serial := rfl
@[simp] theorem Slot.setPc_retired : (t.setPc k).retired = t.retired := rfl
@[simp] theorem Slot.setPc_cls : (t.setPc k).cls = t.cls := rfl
@[simp] theorem Slot.setPc_lvq : (t.setPc k).lvq = t.lvq := rfl
@[simp] theorem Slot.setPc_held : (t.setPc k).held = t.held := rfl
@[simp] theorem Slot.setPc_given : (t.setPc k).given = t.given := rfl
@[simp] theorem Slot.setPc_insn : (t.setPc k).insn = t.insn := rfl
@[simp] theorem Slot.setPc_born : (t.setPc k).born = t.born := rfl
@[simp] theorem Slot.setPc_windows : (t.setPc k).windows = t.windows := rfl
@[simp] theorem Slot.setPc_opening : (t.setPc k).opening = t.opening := rfl
@[simp] theorem Slot.setPc_again : (t.setPc k).again = t.again := rfl
@[simp] theorem Slot.setPc_raised : (t.setPc k).raised = t.raised := rfl
end setPc

section setReg
variable (t : Slot) (k : Nat) (v : CReg)
@[simp] theorem Slot.setReg_state : (t.setReg k v).state = t.state := by unfold Slot.setReg; split <;> rfl
@[simp] theorem Slot.setReg_kind : (t.setReg k v).kind = t.kind := by unfold Slot.setReg; split <;> rfl
@[simp] theorem Slot.setReg_pair : (t.setReg k v).pair = t.pair := by unfold Slot.setReg; split <;> rfl
@[simp] theorem Slot.setReg_partner : (t.setReg k v).partner = t.partner := by unfold Slot.setReg; split <;> rfl
@[simp] theorem Slot.setReg_asid : (t.setReg k v).asid = t.asid := by unfold Slot.setReg; split <;> rfl
@[simp] theorem Slot.setReg_v : (t.setReg k v).v = t.v := by unfold Slot.setReg; split <;> rfl
@[simp] theorem Slot.setReg_p : (t.setReg k v).p = t.p := by unfold Slot.setReg; split <;> rfl
@[simp] theorem Slot.setReg_code : (t.setReg k v).code = t.code := by unfold Slot.setReg; split <;> rfl
@[simp] theorem Slot.setReg_fpmode : (t.setReg k v).fpmode = t.fpmode := by unfold Slot.setReg; split <;> rfl
@[simp] theorem Slot.setReg_fpflags : (t.setReg k v).fpflags = t.fpflags := by unfold Slot.setReg; split <;> rfl
@[simp] theorem Slot.setReg_seed : (t.setReg k v).seed = t.seed := by unfold Slot.setReg; split <;> rfl
@[simp] theorem Slot.setReg_clock : (t.setReg k v).clock = t.clock := by unfold Slot.setReg; split <;> rfl
@[simp] theorem Slot.setReg_streams : (t.setReg k v).streams = t.streams := by unfold Slot.setReg; split <;> rfl
@[simp] theorem Slot.setReg_region : (t.setReg k v).region = t.region := by unfold Slot.setReg; split <;> rfl
@[simp] theorem Slot.setReg_loop : (t.setReg k v).loop = t.loop := by unfold Slot.setReg; split <;> rfl
@[simp] theorem Slot.setReg_barrier : (t.setReg k v).barrier = t.barrier := by unfold Slot.setReg; split <;> rfl
@[simp] theorem Slot.setReg_sbuf : (t.setReg k v).sbuf = t.sbuf := by unfold Slot.setReg; split <;> rfl
@[simp] theorem Slot.setReg_wrote : (t.setReg k v).wrote = t.wrote := by unfold Slot.setReg; split <;> rfl
@[simp] theorem Slot.setReg_frame : (t.setReg k v).frame = t.frame := by unfold Slot.setReg; split <;> rfl
@[simp] theorem Slot.setReg_lastCode : (t.setReg k v).lastCode = t.lastCode := by unfold Slot.setReg; split <;> rfl
@[simp] theorem Slot.setReg_image : (t.setReg k v).image = t.image := by unfold Slot.setReg; split <;> rfl
@[simp] theorem Slot.setReg_accSel : (t.setReg k v).accSel = t.accSel := by unfold Slot.setReg; split <;> rfl
@[simp] theorem Slot.setReg_lastIssue : (t.setReg k v).lastIssue = t.lastIssue := by unfold Slot.setReg; split <;> rfl
@[simp] theorem Slot.setReg_yielded : (t.setReg k v).yielded = t.yielded := by unfold Slot.setReg; split <;> rfl
@[simp] theorem Slot.setReg_pend : (t.setReg k v).pend = t.pend := by unfold Slot.setReg; split <;> rfl
@[simp] theorem Slot.setReg_trig : (t.setReg k v).trig = t.trig := by unfold Slot.setReg; split <;> rfl
@[simp] theorem Slot.setReg_serial : (t.setReg k v).serial = t.serial := by unfold Slot.setReg; split <;> rfl
@[simp] theorem Slot.setReg_retired : (t.setReg k v).retired = t.retired := by unfold Slot.setReg; split <;> rfl
@[simp] theorem Slot.setReg_cls : (t.setReg k v).cls = t.cls := by unfold Slot.setReg; split <;> rfl
@[simp] theorem Slot.setReg_lvq : (t.setReg k v).lvq = t.lvq := by unfold Slot.setReg; split <;> rfl
@[simp] theorem Slot.setReg_held : (t.setReg k v).held = t.held := by unfold Slot.setReg; split <;> rfl
@[simp] theorem Slot.setReg_given : (t.setReg k v).given = t.given := by unfold Slot.setReg; split <;> rfl
@[simp] theorem Slot.setReg_insn : (t.setReg k v).insn = t.insn := by unfold Slot.setReg; split <;> rfl
@[simp] theorem Slot.setReg_born : (t.setReg k v).born = t.born := by unfold Slot.setReg; split <;> rfl
@[simp] theorem Slot.setReg_windows : (t.setReg k v).windows = t.windows := by unfold Slot.setReg; split <;> rfl
@[simp] theorem Slot.setReg_opening : (t.setReg k v).opening = t.opening := by unfold Slot.setReg; split <;> rfl
@[simp] theorem Slot.setReg_again : (t.setReg k v).again = t.again := by unfold Slot.setReg; split <;> rfl
@[simp] theorem Slot.setReg_raised : (t.setReg k v).raised = t.raised := by unfold Slot.setReg; split <;> rfl
end setReg

section setP
variable (t : Slot) (k : Nat) (v : PReg)
@[simp] theorem Slot.setP_state : (t.setP k v).state = t.state := by unfold Slot.setP; split <;> rfl
@[simp] theorem Slot.setP_kind : (t.setP k v).kind = t.kind := by unfold Slot.setP; split <;> rfl
@[simp] theorem Slot.setP_pair : (t.setP k v).pair = t.pair := by unfold Slot.setP; split <;> rfl
@[simp] theorem Slot.setP_partner : (t.setP k v).partner = t.partner := by unfold Slot.setP; split <;> rfl
@[simp] theorem Slot.setP_asid : (t.setP k v).asid = t.asid := by unfold Slot.setP; split <;> rfl
@[simp] theorem Slot.setP_c : (t.setP k v).c = t.c := by unfold Slot.setP; split <;> rfl
@[simp] theorem Slot.setP_v : (t.setP k v).v = t.v := by unfold Slot.setP; split <;> rfl
@[simp] theorem Slot.setP_code : (t.setP k v).code = t.code := by unfold Slot.setP; split <;> rfl
@[simp] theorem Slot.setP_fpmode : (t.setP k v).fpmode = t.fpmode := by unfold Slot.setP; split <;> rfl
@[simp] theorem Slot.setP_fpflags : (t.setP k v).fpflags = t.fpflags := by unfold Slot.setP; split <;> rfl
@[simp] theorem Slot.setP_seed : (t.setP k v).seed = t.seed := by unfold Slot.setP; split <;> rfl
@[simp] theorem Slot.setP_clock : (t.setP k v).clock = t.clock := by unfold Slot.setP; split <;> rfl
@[simp] theorem Slot.setP_streams : (t.setP k v).streams = t.streams := by unfold Slot.setP; split <;> rfl
@[simp] theorem Slot.setP_region : (t.setP k v).region = t.region := by unfold Slot.setP; split <;> rfl
@[simp] theorem Slot.setP_loop : (t.setP k v).loop = t.loop := by unfold Slot.setP; split <;> rfl
@[simp] theorem Slot.setP_barrier : (t.setP k v).barrier = t.barrier := by unfold Slot.setP; split <;> rfl
@[simp] theorem Slot.setP_sbuf : (t.setP k v).sbuf = t.sbuf := by unfold Slot.setP; split <;> rfl
@[simp] theorem Slot.setP_wrote : (t.setP k v).wrote = t.wrote := by unfold Slot.setP; split <;> rfl
@[simp] theorem Slot.setP_frame : (t.setP k v).frame = t.frame := by unfold Slot.setP; split <;> rfl
@[simp] theorem Slot.setP_lastCode : (t.setP k v).lastCode = t.lastCode := by unfold Slot.setP; split <;> rfl
@[simp] theorem Slot.setP_image : (t.setP k v).image = t.image := by unfold Slot.setP; split <;> rfl
@[simp] theorem Slot.setP_accSel : (t.setP k v).accSel = t.accSel := by unfold Slot.setP; split <;> rfl
@[simp] theorem Slot.setP_lastIssue : (t.setP k v).lastIssue = t.lastIssue := by unfold Slot.setP; split <;> rfl
@[simp] theorem Slot.setP_yielded : (t.setP k v).yielded = t.yielded := by unfold Slot.setP; split <;> rfl
@[simp] theorem Slot.setP_pend : (t.setP k v).pend = t.pend := by unfold Slot.setP; split <;> rfl
@[simp] theorem Slot.setP_trig : (t.setP k v).trig = t.trig := by unfold Slot.setP; split <;> rfl
@[simp] theorem Slot.setP_serial : (t.setP k v).serial = t.serial := by unfold Slot.setP; split <;> rfl
@[simp] theorem Slot.setP_retired : (t.setP k v).retired = t.retired := by unfold Slot.setP; split <;> rfl
@[simp] theorem Slot.setP_cls : (t.setP k v).cls = t.cls := by unfold Slot.setP; split <;> rfl
@[simp] theorem Slot.setP_lvq : (t.setP k v).lvq = t.lvq := by unfold Slot.setP; split <;> rfl
@[simp] theorem Slot.setP_held : (t.setP k v).held = t.held := by unfold Slot.setP; split <;> rfl
@[simp] theorem Slot.setP_given : (t.setP k v).given = t.given := by unfold Slot.setP; split <;> rfl
@[simp] theorem Slot.setP_insn : (t.setP k v).insn = t.insn := by unfold Slot.setP; split <;> rfl
@[simp] theorem Slot.setP_born : (t.setP k v).born = t.born := by unfold Slot.setP; split <;> rfl
@[simp] theorem Slot.setP_windows : (t.setP k v).windows = t.windows := by unfold Slot.setP; split <;> rfl
@[simp] theorem Slot.setP_opening : (t.setP k v).opening = t.opening := by unfold Slot.setP; split <;> rfl
@[simp] theorem Slot.setP_again : (t.setP k v).again = t.again := by unfold Slot.setP; split <;> rfl
@[simp] theorem Slot.setP_raised : (t.setP k v).raised = t.raised := by unfold Slot.setP; split <;> rfl
end setP

section setV
variable (t : Slot) (k : Nat) (v : VReg)
@[simp] theorem Slot.setV_state : (t.setV k v).state = t.state := rfl
@[simp] theorem Slot.setV_kind : (t.setV k v).kind = t.kind := rfl
@[simp] theorem Slot.setV_pair : (t.setV k v).pair = t.pair := rfl
@[simp] theorem Slot.setV_partner : (t.setV k v).partner = t.partner := rfl
@[simp] theorem Slot.setV_asid : (t.setV k v).asid = t.asid := rfl
@[simp] theorem Slot.setV_c : (t.setV k v).c = t.c := rfl
@[simp] theorem Slot.setV_p : (t.setV k v).p = t.p := rfl
@[simp] theorem Slot.setV_code : (t.setV k v).code = t.code := rfl
@[simp] theorem Slot.setV_fpmode : (t.setV k v).fpmode = t.fpmode := rfl
@[simp] theorem Slot.setV_fpflags : (t.setV k v).fpflags = t.fpflags := rfl
@[simp] theorem Slot.setV_seed : (t.setV k v).seed = t.seed := rfl
@[simp] theorem Slot.setV_clock : (t.setV k v).clock = t.clock := rfl
@[simp] theorem Slot.setV_streams : (t.setV k v).streams = t.streams := rfl
@[simp] theorem Slot.setV_region : (t.setV k v).region = t.region := rfl
@[simp] theorem Slot.setV_loop : (t.setV k v).loop = t.loop := rfl
@[simp] theorem Slot.setV_barrier : (t.setV k v).barrier = t.barrier := rfl
@[simp] theorem Slot.setV_sbuf : (t.setV k v).sbuf = t.sbuf := rfl
@[simp] theorem Slot.setV_wrote : (t.setV k v).wrote = t.wrote := rfl
@[simp] theorem Slot.setV_frame : (t.setV k v).frame = t.frame := rfl
@[simp] theorem Slot.setV_lastCode : (t.setV k v).lastCode = t.lastCode := rfl
@[simp] theorem Slot.setV_image : (t.setV k v).image = t.image := rfl
@[simp] theorem Slot.setV_accSel : (t.setV k v).accSel = t.accSel := rfl
@[simp] theorem Slot.setV_lastIssue : (t.setV k v).lastIssue = t.lastIssue := rfl
@[simp] theorem Slot.setV_yielded : (t.setV k v).yielded = t.yielded := rfl
@[simp] theorem Slot.setV_pend : (t.setV k v).pend = t.pend := rfl
@[simp] theorem Slot.setV_trig : (t.setV k v).trig = t.trig := rfl
@[simp] theorem Slot.setV_serial : (t.setV k v).serial = t.serial := rfl
@[simp] theorem Slot.setV_retired : (t.setV k v).retired = t.retired := rfl
@[simp] theorem Slot.setV_cls : (t.setV k v).cls = t.cls := rfl
@[simp] theorem Slot.setV_lvq : (t.setV k v).lvq = t.lvq := rfl
@[simp] theorem Slot.setV_held : (t.setV k v).held = t.held := rfl
@[simp] theorem Slot.setV_given : (t.setV k v).given = t.given := rfl
@[simp] theorem Slot.setV_insn : (t.setV k v).insn = t.insn := rfl
@[simp] theorem Slot.setV_born : (t.setV k v).born = t.born := rfl
@[simp] theorem Slot.setV_windows : (t.setV k v).windows = t.windows := rfl
@[simp] theorem Slot.setV_opening : (t.setV k v).opening = t.opening := rfl
@[simp] theorem Slot.setV_again : (t.setV k v).again = t.again := rfl
@[simp] theorem Slot.setV_raised : (t.setV k v).raised = t.raised := rfl
end setV

end Sys2Proof.Machine
end

