-- ==== Sys2Proof/Laws/Memory.lean ====
section
/-! SUPPORT. Tables, memory and registers: reads after writes, and the canonical form of memory. -/

namespace Sys2Proof.Machine

/-! ### Tables -/

@[simp] theorem lookT_putT {α : Type} (t : Tab α) (k : Nat) (x : α) : lookT (putT t k x) k = some x := by
  induction t with
  | nil => simp [putT, lookT]
  | cons p t ih =>
    obtain ⟨j, y⟩ := p
    unfold putT
    split
    · simp [lookT]
    · split
      · simp [lookT]
      · simp [lookT, *]

theorem lookT_putT_ne {α : Type} (t : Tab α) {k j : Nat} (x : α) (h : j ≠ k) : lookT (putT t k x) j = lookT t j := by
  induction t with
  | nil => simp [putT, lookT, h.symm]
  | cons p t ih =>
    obtain ⟨i, y⟩ := p
    unfold putT
    split
    · simp [lookT, h.symm]
    · split
      · next e => subst e; simp [lookT, h.symm]
      · simp [lookT, ih]

@[simp] theorem lookT_dropT {α : Type} (t : Tab α) (k : Nat) : lookT (dropT t k) k = none := by
  induction t with
  | nil => rfl
  | cons p t ih =>
    obtain ⟨j, y⟩ := p
    by_cases h : j = k
    · simp [dropT, h, ih]
    · simp [dropT, lookT, h, ih]

theorem lookT_dropT_ne {α : Type} (t : Tab α) {k j : Nat} (h : j ≠ k) : lookT (dropT t k) j = lookT t j := by
  induction t with
  | nil => rfl
  | cons p t ih =>
    obtain ⟨i, y⟩ := p
    by_cases e : i = k
    · subst e; simp [dropT, lookT, h.symm, ih]
    · simp [dropT, lookT, e, ih]

/-! ### The canonical form of memory -/

theorem Memory.wf_tail {c : Host.Cell} {m : List Host.Cell} (h : Memory.wf (c :: m) = true) : Memory.wf m = true := by
  cases m with
  | nil => rfl
  | cons d m => simp only [Memory.wf, Bool.and_eq_true] at h; exact h.2

theorem Memory.wf_head {a : Nat} {b : Byte} {m : List Host.Cell} (h : Memory.wf ((a, b) :: m) = true) :
    b ≠ Memory.blank ∧ ∀ c ∈ m, a < c.1 := by
  induction m generalizing a b with
  | nil => simpa [Memory.wf] using h
  | cons d m ih =>
    obtain ⟨a', b'⟩ := d
    simp only [Memory.wf, Bool.and_eq_true, decide_eq_true_eq, bne_iff_ne] at h
    refine ⟨h.1.1, fun c hc => ?_⟩
    rcases List.mem_cons.1 hc with rfl | hc
    · exact h.1.2
    · exact Nat.lt_trans h.1.2 ((ih h.2).2 c hc)

theorem Memory.wf_cons {a : Nat} {b : Byte} {m : List Host.Cell} (hb : b ≠ Memory.blank) (hm : Memory.wf m = true)
    (h : ∀ c ∈ m, a < c.1) : Memory.wf ((a, b) :: m) = true := by
  cases m with
  | nil => simpa [Memory.wf] using hb
  | cons d m =>
    obtain ⟨a', b'⟩ := d
    simp only [Memory.wf, Bool.and_eq_true, decide_eq_true_eq, bne_iff_ne]
    exact ⟨⟨hb, h (a', b') (by simp)⟩, hm⟩

/-- The addresses of a memory after a write are the written one and those before. -/
theorem Memory.mem_set {m : List Host.Cell} {a : Nat} {b : Byte} {c : Host.Cell} (h : c ∈ Memory.set m a b) :
    c = (a, b) ∨ c ∈ m := by
  induction m with
  | nil =>
    unfold Memory.set at h
    split at h
    · cases h
    · simpa using h
  | cons d m ih =>
    obtain ⟨j, x⟩ := d
    unfold Memory.set at h
    split at h
    · split at h
      · exact .inr h
      · simpa using h
    · split at h
      · split at h
        · exact .inr (List.mem_cons_of_mem _ h)
        · rcases List.mem_cons.1 h with rfl | h
          · exact .inl rfl
          · exact .inr (List.mem_cons_of_mem _ h)
      · rcases List.mem_cons.1 h with rfl | h
        · exact .inr (by simp)
        · rcases ih h with rfl | h
          · exact .inl rfl
          · exact .inr (List.mem_cons_of_mem _ h)

theorem Memory.wf_set {m : List Host.Cell} (a : Nat) (b : Byte) (h : Memory.wf m = true) :
    Memory.wf (Memory.set m a b) = true := by
  induction m with
  | nil =>
    unfold Memory.set
    split
    · rfl
    · next hb => simpa [Memory.wf] using hb
  | cons d m ih =>
    obtain ⟨j, x⟩ := d
    have hh := Memory.wf_head h
    have ht := Memory.wf_tail h
    unfold Memory.set
    split
    · next hj =>
      split
      · exact h
      · next hb =>
        refine Memory.wf_cons hb h (fun c hc => ?_)
        rcases List.mem_cons.1 hc with rfl | hc
        · exact hj
        · exact Nat.lt_trans hj (hh.2 c hc)
    · next hj =>
      split
      · next e =>
        subst e
        split
        · exact ht
        · next hb => exact Memory.wf_cons hb ht hh.2
      · refine Memory.wf_cons hh.1 (ih ht) (fun c hc => ?_)
        rcases Memory.mem_set hc with rfl | hc
        · simp only; omega
        · exact hh.2 c hc

theorem Memory.wf_write {m : List Host.Cell} (a : Nat) (bs : List Byte) (h : Memory.wf m = true) :
    Memory.wf (Memory.write m a bs) = true := by
  induction bs generalizing m a with
  | nil => exact h
  | cons b bs ih => exact ih (a + 1) (Memory.wf_set a b h)

theorem Memory.wf_writeSome {m : List Host.Cell} (a : Nat) (bs : List (Option Byte)) (h : Memory.wf m = true) :
    Memory.wf (Memory.writeSome m a bs) = true := by
  induction bs generalizing m a with
  | nil => exact h
  | cons b bs ih =>
    cases b with
    | none => exact ih (a + 1) h
    | some b => exact ih (a + 1) (Memory.wf_set a b h)

theorem Memory.wf_filter {m : List Host.Cell} (p : Host.Cell → Bool) (h : Memory.wf m = true) :
    Memory.wf (m.filter p) = true := by
  induction m with
  | nil => rfl
  | cons d m ih =>
    obtain ⟨j, x⟩ := d
    have hh := Memory.wf_head h
    rw [List.filter_cons]
    split
    · exact Memory.wf_cons hh.1 (ih (Memory.wf_tail h)) (fun c hc => hh.2 c (List.mem_filter.1 hc).1)
    · exact ih (Memory.wf_tail h)

theorem Memory.wf_clear {m : List Host.Cell} (a n : Nat) (h : Memory.wf m = true) : Memory.wf (Memory.clear m a n) = true :=
  Memory.wf_filter _ h

theorem Memory.wf_copy {m : List Host.Cell} (a d n : Nat) (h : Memory.wf m = true) :
    Memory.wf (Memory.copy m a d n) = true := by
  unfold Memory.copy
  generalize m.filter (fun c => decide (a ≤ c.1) && decide (c.1 < a + n)) = l
  have h0 := Memory.wf_clear d n h
  generalize Memory.clear m d n = m0 at h0
  induction l generalizing m0 with
  | nil => exact h0
  | cons c l ih => exact ih _ (Memory.wf_set _ _ h0)

/-! ### Reads after writes -/

theorem Memory.get_of_lt {m : List Host.Cell} {a : Nat} (h : ∀ c ∈ m, a < c.1) : Memory.get m a = Memory.blank := by
  induction m with
  | nil => rfl
  | cons d m ih =>
    obtain ⟨j, x⟩ := d
    have hj : a < j := h (j, x) (by simp)
    unfold Memory.get
    rw [if_neg (by omega)]
    exact ih (fun c hc => h c (List.mem_cons_of_mem _ hc))

theorem Memory.get_set {m : List Host.Cell} (a : Nat) (b : Byte) (h : Memory.wf m = true) :
    Memory.get (Memory.set m a b) a = b := by
  induction m with
  | nil =>
    unfold Memory.set
    split
    · next hb => exact hb.symm
    · simp [Memory.get]
  | cons d m ih =>
    obtain ⟨j, x⟩ := d
    have hh := Memory.wf_head h
    unfold Memory.set
    split
    · next hj =>
      split
      · next hb =>
        rw [hb]
        refine Memory.get_of_lt (fun c hc => ?_)
        rcases List.mem_cons.1 hc with rfl | hc
        · exact hj
        · exact Nat.lt_trans hj (hh.2 c hc)
      · simp [Memory.get]
    · split
      · next e =>
        subst e
        split
        · next hb => rw [hb]; exact Memory.get_of_lt hh.2
        · simp [Memory.get]
      · next hn =>
        unfold Memory.get
        rw [if_neg hn]
        exact ih (Memory.wf_tail h)

theorem Memory.get_set_ne (m : List Host.Cell) {a c : Nat} (b : Byte) (h : c ≠ a) :
    Memory.get (Memory.set m a b) c = Memory.get m c := by
  induction m with
  | nil =>
    unfold Memory.set
    split
    · rfl
    · simp [Memory.get, h.symm]
  | cons d m ih =>
    obtain ⟨j, x⟩ := d
    unfold Memory.set
    split
    · split
      · rfl
      · simp [Memory.get, h.symm]
    · split
      · next e =>
        subst e
        split <;> simp [Memory.get, h.symm]
      · simp [Memory.get, ih]

theorem Memory.get_write_out (m : List Host.Cell) {a c : Nat} (bs : List Byte) (h : c < a ∨ a + bs.length ≤ c) :
    Memory.get (Memory.write m a bs) c = Memory.get m c := by
  induction bs generalizing m a with
  | nil => rfl
  | cons b bs ih =>
    simp only [List.length_cons] at h
    unfold Memory.write
    rw [ih _ (by omega), Memory.get_set_ne _ _ (by omega)]

theorem Memory.read_write {m : List Host.Cell} (a : Nat) (bs : List Byte) (h : Memory.wf m = true) :
    Memory.read (Memory.write m a bs) a bs.length = bs := by
  induction bs generalizing m a with
  | nil => rfl
  | cons b bs ih =>
    simp only [List.length_cons, Memory.read, Memory.write]
    rw [ih _ (Memory.wf_set a b h), Memory.get_write_out _ _ (by omega), Memory.get_set _ _ h]

/-! ### Cores, slots and registers -/

@[simp] theorem State.coreAt_setCore (s : State) (c : Nat) (k : Core) : (s.setCore c k).coreAt c = k := by
  simp [State.coreAt, State.setCore]

@[simp] theorem State.coreAt_modCore (s : State) (c : Nat) (f : Core → Core) : (s.modCore c f).coreAt c = f (s.coreAt c) := by
  simp [State.modCore]

theorem State.coreAt_setCore_ne (s : State) {c d : Nat} (k : Core) (h : d ≠ c) : (s.setCore c k).coreAt d = s.coreAt d := by
  simp [State.coreAt, State.setCore, lookT_putT_ne _ _ h]

@[simp] theorem Core.slotAt_setSlot (k : Core) (i : Nat) (t : Slot) : (k.setSlot i t).slotAt i = t := by
  simp [Core.slotAt, Core.setSlot]

theorem Core.slotAt_setSlot_ne (k : Core) {i j : Nat} (t : Slot) (h : j ≠ i) : (k.setSlot i t).slotAt j = k.slotAt j := by
  simp [Core.slotAt, Core.setSlot, lookT_putT_ne _ _ h]

@[simp] theorem State.slotAt_setSlot (s : State) (c i : Nat) (t : Slot) : (s.setSlot c i t).slotAt c i = t := by
  simp [State.slotAt, State.setSlot]

theorem State.slotAt_setSlot_ne (s : State) {c i d j : Nat} (t : Slot) (h : d ≠ c ∨ j ≠ i) :
    (s.setSlot c i t).slotAt d j = s.slotAt d j := by
  by_cases hd : d = c
  · subst hd
    simp only [State.slotAt, State.setSlot, State.coreAt_modCore]
    exact Core.slotAt_setSlot_ne _ _ (by simpa using h)
  · simp [State.slotAt, State.setSlot, State.modCore, State.coreAt_setCore_ne _ _ hd]

@[simp] theorem State.slotAt_modSlot (s : State) (c i : Nat) (f : Slot → Slot) :
    (s.modSlot c i f).slotAt c i = f (s.slotAt c i) := by
  simp [State.modSlot]

theorem State.slotAt_modSlot_ne (s : State) {c i d j : Nat} (f : Slot → Slot) (h : d ≠ c ∨ j ≠ i) :
    (s.modSlot c i f).slotAt d j = s.slotAt d j := by
  simp [State.modSlot, State.slotAt_setSlot_ne _ _ h]

@[simp] theorem State.cur_modCur (s : State) (f : Slot → Slot) : (s.modCur f).cur = f s.cur := by
  simp [State.cur, State.modCur, State.modSlot, State.setSlot, State.modCore, State.slotAt, State.coreAt, State.setCore]

end Sys2Proof.Machine
end

