-- ==== Sys2Proof/Laws/Issue.lean ====
section
/-! SUPPORT. The shared operations of an instruction: operands, results, retirement. One lemma each for what they do. -/

namespace Sys2Proof.Machine

@[simp] theorem putT_putT {α : Type} (t : Tab α) (k : Nat) (x y : α) : putT (putT t k x) k y = putT t k y := by
  induction t with
  | nil => simp [putT]
  | cons p t ih =>
    obtain ⟨j, z⟩ := p
    by_cases h : k < j
    · simp [putT, h]
    · by_cases h' : j = k
      · simp [putT, h']
      · simp [putT, h, h', ih]

/-- Two changes of the current slot are one. -/
@[simp] theorem State.modCur_modCur (s : State) (f g : Slot → Slot) :
    (s.modCur f).modCur g = s.modCur (fun t => g (f t)) := by
  simp [State.modCur, State.modSlot, State.setSlot, State.modCore, State.slotAt, State.coreAt, State.setCore, Core.setSlot,
    Core.slotAt]

/-! ### Actions: how each part runs -/

@[simp] theorem Act.run_pure {α : Type} (x : α) (c : Ctx) : (pure x : Act α).run c = .ok (x, c) := rfl

@[simp] theorem Act.run_bind {α β : Type} (x : Act α) (f : α → Act β) (c : Ctx) :
    (x >>= f).run c = (match x.run c with
      | .ok (a, c') => (f a).run c'
      | .error e => .error e) := by
  simp only [StateT.run, bind, StateT.bind, Except.bind]
  cases x c <;> rfl

@[simp] theorem Act.run_get (c : Ctx) : (get : Act Ctx).run c = .ok (c, c) := rfl
@[simp] theorem Act.run_modify (f : Ctx → Ctx) (c : Ctx) : (modify f : Act Unit).run c = .ok ((), f c) := rfl
@[simp] theorem Act.run_throw {α : Type} (e : Stop) (c : Ctx) : (throw e : Act α).run c = .error e := rfl
@[simp] theorem Act.run_getS (c : Ctx) : getS.run c = .ok (c.st, c) := rfl
@[simp] theorem Act.run_modS (f : State → State) (c : Ctx) : (modS f).run c = .ok ((), { c with st := f c.st }) := rfl
@[simp] theorem Act.run_putS (s : State) (c : Ctx) : (putS s).run c = .ok ((), { c with st := s }) := rfl
@[simp] theorem Act.run_me (c : Ctx) : me.run c = .ok (c.st.cur, c) := rfl
@[simp] theorem Act.run_myDom (c : Ctx) : myDom.run c = .ok (c.st.dom, c) := rfl
@[simp] theorem Act.run_stopWith {α : Type} (f : FaultInfo) (c : Ctx) : (stopWith f : Act α).run c = .error (.freeze f) := rfl
@[simp] theorem Act.run_fault {α : Type} (k : Nat) (c : Ctx) : (fault k : Act α).run c = .error (.freeze { code := k }) := rfl
@[simp] theorem Act.run_illegal {α : Type} (c : Ctx) : (illegal : Act α).run c = .error (.freeze { code := fILLEGAL }) := rfl
@[simp] theorem Act.run_waitFor {α : Type} (w : Wait) (c : Ctx) : (waitFor w : Act α).run c = .error (.wait w) := rfl
@[simp] theorem Act.run_setRaw (k : CR) (v : CReg) (c : Ctx) :
    (setRaw k v).run c = .ok ((), { c with st := c.st.modCur (fun t => t.setReg k.val v) }) := rfl
@[simp] theorem Act.run_regRaw (k : CR) (c : Ctx) : (regRaw k).run c = .ok (c.st.cur.reg k.val, c) := rfl

theorem Act.run_ite {α : Type} (p : Prop) [Decidable p] (x y : Act α) (c : Ctx) :
    (if p then x else y).run c = if p then x.run c else y.run c := by split <;> rfl

/-- An action that ends well is an instruction that retires. -/
theorem issue_ok {len : Nat} {act : Act Flow} {s : State} {f : Flow} {c : Ctx} (h : s.cur.state = .ready)
    (hr : act.run ⟨s, s, []⟩ = .ok (f, c)) : issue len act s = .next (c.st.retire len f) := by
  simp only [issue, if_pos h, hr]

/-- An action that faults freezes its strand (R74). -/
theorem issue_freeze {len : Nat} {act : Act Flow} {s : State} {f : FaultInfo} (h : s.cur.state = .ready)
    (hr : act.run ⟨s, s, []⟩ = .error (.freeze f)) : issue len act s = .next ((s.freeze f).boundary s.core s.slot) := by
  simp only [issue, if_pos h, hr]

/-- Nothing waits at a boundary. -/
theorem State.boundary_none {s : State} {c i : Nat} (h : (s.slotAt c i).pend = .none) : s.boundary c i = s := by
  simp only [State.boundary, h, if_true]

/-- Nothing waits at the boundary of the strand whose turn it is. -/
theorem State.boundary_cur {s : State} (h : s.cur.pend = .none) : s.boundary s.core s.slot = s := State.boundary_none h

/-- Retirement to the next instruction (R46). -/
theorem State.retire_next {s : State} {len : Nat} (hv : s.cur.state ≠ .vacant) (hp : s.cur.pend = .none)
    (hr : s.replaying = false) :
    s.retire len .next = s.modCur (fun t => { t.setPc (t.pc + len) with retired := t.retired + 1, insn := 0, again := false }) := by
  unfold State.retire
  rw [if_neg hv]
  simp only [hr, Bool.false_eq_true, if_false]
  refine State.boundary_cur ?_
  rw [State.cur_modCur]
  simp only [Slot.setPc_pend, hp]

end Sys2Proof.Machine
end

