-- ==== Sys2Proof/Laws/Operands.lean ====
section
/-! SUPPORT. Instructions on registers that are bound to no stream: what their shared operations come to. -/

namespace Sys2Proof.Machine

@[simp] theorem Slot.setReg_pc (t : Slot) (k : Nat) (v : CReg) : (t.setReg k v).pc = t.pc := by
  simp only [Slot.pc, Slot.setReg_code]

@[simp] theorem Slot.setV_pc (t : Slot) (k : Nat) (v : VReg) : (t.setV k v).pc = t.pc := rfl

@[simp] theorem Slot.setP_pc (t : Slot) (k : Nat) (v : PReg) : (t.setP k v).pc = t.pc := by
  simp only [Slot.pc, Slot.setP_code]

/-- Unbound registers are used in no wrong direction. -/
theorem dirs_unbound {rs ws : List CR} {c : Ctx} (hr : c.st.unbound rs) (hw : c.st.unbound ws) :
    (dirs rs ws).run c = .ok ((), c) := by
  simp only [dirs, Act.run_bind, Act.run_me]
  rw [if_neg]
  · rfl
  · rw [Bool.or_eq_true, List.any_eq_true, List.any_eq_true]
    rintro (⟨k, hk, h⟩ | ⟨k, hk, h⟩)
    · simp [hr k hk] at h
    · simp [hw k hk] at h

/-- An unbound source is its register. -/
theorem src_unbound {k : CR} {s0 s : State} (h : s.cur.stream k.val = none) :
    (src k).run ⟨s0, s, []⟩ = .ok (s.cur.reg k.val, ⟨s0, s, []⟩) := by
  simp only [src, Act.run_bind, Act.run_get, lookT, h]
  rfl

/-- An unbound destination is its register. -/
theorem dst_unbound {k : CR} {v : CReg} {s0 s : State} {ps : Tab CReg} (h : s.cur.stream k.val = none) :
    (dst k v).run ⟨s0, s, ps⟩ = .ok ((), ⟨s0, s.modCur (fun t => t.setReg k.val v), ps⟩) := by
  simp only [dst, Act.run_bind, Act.run_me, h, Act.run_setRaw]

/-- An action that changes the strand's own slot and goes on. -/
theorem issue_went {n : Nat} {act : Act Unit} {s : State} {f : Slot → Slot} {ps : Tab CReg} (h : s.calm)
    (hr : act.run ⟨s, s, []⟩ = .ok ((), ⟨s, s.modCur f, ps⟩)) (h1 : (f s.cur).state = s.cur.state)
    (h2 : (f s.cur).pend = s.cur.pend) : issue_ n act s = .next (s.went n f) := by
  obtain ⟨hs, hp, hq⟩ := h
  unfold issue_
  rw [issue_ok (f := .next) (c := ⟨s, s.modCur f, ps⟩) hs (by simp only [Act.run_bind, hr, Act.run_pure])]
  rw [State.retire_next (by rw [State.cur_modCur, h1, hs]; decide) (by rw [State.cur_modCur, h2, hp])
    (by rw [State.modCur_replaying, hq])]
  rw [State.modCur_modCur]
  rfl

/-- `op3` on registers that are bound to no stream. -/
theorem issue_op3 {s : State} {d a b : CR} {f : Nat → Nat → Nat} (h : s.calm) (hu : s.unbound [d, a, b]) :
    issue_ 4 (op3 d a b f) s = .next (s.went 4 (fun t => t.setReg d.val (plain (f (s.cur.reg a.val).lo (s.cur.reg b.val).lo)))) := by
  have hd := hu d (by simp)
  have ha := hu a (by simp)
  have hb := hu b (by simp)
  apply issue_went (ps := []) h
  · simp only [op3, Act.run_bind]
    rw [dirs_unbound (by intro k hk; exact hu k (by simp at hk ⊢; tauto)) (by intro k hk; exact hu k (by simp at hk ⊢; tauto))]
    simp only [src_unbound ha, src_unbound hb, dst_unbound hd]
  · rw [Slot.setReg_state]
  · rw [Slot.setReg_pend]

/-- `op3q` on registers that are bound to no stream. -/
theorem issue_op3q {s : State} {d a b : CR} {f : Nat → Nat → Nat} (h : s.calm) (hu : s.unbound [d, a, b]) :
    issue_ 4 (op3q d a b f) s =
      .next (s.went 4 (fun t => t.setReg d.val (plainQ (f (s.cur.reg a.val).val.toNat (s.cur.reg b.val).val.toNat)))) := by
  have hd := hu d (by simp)
  have ha := hu a (by simp)
  have hb := hu b (by simp)
  apply issue_went (ps := []) h
  · simp only [op3q, Act.run_bind]
    rw [dirs_unbound (by intro k hk; exact hu k (by simp at hk ⊢; tauto)) (by intro k hk; exact hu k (by simp at hk ⊢; tauto))]
    simp only [src_unbound ha, src_unbound hb, dst_unbound hd]
  · rw [Slot.setReg_state]
  · rw [Slot.setReg_pend]

/-- `op2` on registers that are bound to no stream. -/
theorem issue_op2 {s : State} {d a : CR} {f : Nat → Nat} (h : s.calm) (hu : s.unbound [d, a]) :
    issue_ 4 (op2 d a f) s = .next (s.went 4 (fun t => t.setReg d.val (plain (f (s.cur.reg a.val).lo)))) := by
  have hd := hu d (by simp)
  have ha := hu a (by simp)
  apply issue_went (ps := []) h
  · simp only [op2, Act.run_bind]
    rw [dirs_unbound (by intro k hk; exact hu k (by simp at hk ⊢; tauto)) (by intro k hk; exact hu k (by simp at hk ⊢; tauto))]
    simp only [src_unbound ha, dst_unbound hd]
  · rw [Slot.setReg_state]
  · rw [Slot.setReg_pend]

end Sys2Proof.Machine
end

