-- ==== Sys2Proof/Laws/PerInstr.lean ====
section
/-! SUPPORT. The family RoundTrip: an encoding decodes to the instruction that was encoded. One lemma per major (R50) and one
per constructor. -/

namespace Sys2Proof.Laws

open Sys2Proof Machine

/-! ### Fields of numbers -/

theorem bits_high {x y k lo n : Nat} (h : y < 2 ^ k) (hk : k ≤ lo) :
    bitsAt (x * 2 ^ k + y) lo n = bitsAt x (lo - k) n := by
  unfold bitsAt
  obtain ⟨j, rfl⟩ := Nat.exists_eq_add_of_le hk
  rw [Nat.pow_add, ← Nat.div_div_eq_div_mul, Nat.add_comm (x * 2 ^ k), Nat.add_mul_div_right _ _ (Nat.two_pow_pos k),
    Nat.div_eq_of_lt h, Nat.zero_add, Nat.add_sub_cancel_left]

theorem bits_low {x y k lo n : Nat} (h : lo + n ≤ k) : bitsAt (x * 2 ^ k + y) lo n = bitsAt y lo n := by
  unfold bitsAt
  obtain ⟨j, rfl⟩ := Nat.exists_eq_add_of_le h
  rw [show x * 2 ^ (lo + n + j) + y = y + (x * 2 ^ j * 2 ^ n) * 2 ^ lo by rw [Nat.pow_add, Nat.pow_add]; ring,
    Nat.add_mul_div_right _ _ (Nat.two_pow_pos lo), Nat.add_mul_mod_self_right]

theorem bits_whole {y n : Nat} (h : y < 2 ^ n) : bitsAt y 0 n = y := by
  unfold bitsAt; rw [Nat.pow_zero, Nat.div_one, Nat.mod_eq_of_lt h]

theorem bits_maj {maj : Nat} (h : maj < 64) : bitsAt (64 + maj) 0 6 = maj := by unfold bitsAt; omega

theorem toCR_zero : toCR 0 = 0 := rfl

theorem toVR_zero : toVR 0 = 0 := rfl

theorem toQR_zero : toQR 0 = 0 := rfl

theorem toCR_val (d : CR) : toCR d.val = d := by ext; simp [toCR]

theorem toVR_val (d : VR) : toVR d.val = d := by ext; simp [toVR]

theorem toPR_val (d : PR) : toPR d.val = d := by ext; simp [toPR]

theorem toQR_val (d : QR) : toQR d.val = d := by ext; simp [toQR]

theorem toEP_val (d : EP) : toEP d.val = d := by ext; simp [toEP]

theorem toCR_of {n : Nat} (h : n < 32) : (toCR n).val = n := by simp [toCR, Nat.mod_eq_of_lt h]

theorem Cond.code_lt (c : Cond) : c.toCode < 6 := by cases c <;> decide

theorem CondZ.code_lt (c : CondZ) : c.toCode < 6 := by cases c <;> decide

theorem Size.code_lt (c : Size) : c.toCode < 8 := by cases c <;> decide

theorem ITy.code_lt (c : ITy) : c.toCode < 8 := by cases c <;> decide

theorem FTy.code_lt (c : FTy) : c.toCode < 4 := by cases c <;> decide

theorem Field.code_lt (c : Field) : c.toCode < 8 := by cases c <;> decide

theorem AFTy.code_lt (c : AFTy) : c.toCode < 3 := by cases c <;> decide

theorem VRel.code_lt (c : VRel) : c.toCode < 6 := by cases c <;> decide

theorem Fmt.code_lt (c : Fmt) : c.toCode < 16 := by cases c <;> decide

theorem Cond.of_to (c : Cond) : Cond.ofCode c.toCode = some c := by cases c <;> rfl

theorem CondZ.of_to (c : CondZ) : CondZ.ofCode c.toCode = some c := by cases c <;> rfl

theorem Size.of_to (c : Size) : Size.ofCode c.toCode = some c := by cases c <;> rfl

theorem ITy.of_to (c : ITy) : ITy.ofCode c.toCode = some c := by cases c <;> rfl

theorem FTy.of_to (c : FTy) : FTy.ofCode c.toCode = some c := by cases c <;> rfl

theorem Field.of_to (c : Field) : Field.ofCode c.toCode = some c := by cases c <;> rfl

theorem AFTy.of_to (c : AFTy) : AFTy.ofCode c.toCode = some c := by cases c <;> rfl

theorem VRel.of_to (c : VRel) : VRel.ofCode c.toCode = c := by cases c <;> rfl

theorem Fmt.of_to (c : Fmt) : Fmt.ofCode c.toCode = some c := by cases c <;> rfl

/-! ### Formats (R47) as places -/

theorem fmtR_eq (maj d a b fn : Nat) :
    fmtR maj d a b fn = ((((64 + maj) * 2 ^ 5 + d) * 2 ^ 5 + a) * 2 ^ 5 + b) * 2 ^ 10 + fn := by
  unfold fmtR; omega

theorem fmtR_range {maj d a b fn : Nat} (hm : maj < 64) (hd : d < 2 ^ 5) (ha : a < 2 ^ 5) (hb : b < 2 ^ 5) (hfn : fn < 2 ^ 10) :
    2 ^ 31 ≤ fmtR maj d a b fn ∧ fmtR maj d a b fn < 2 ^ 32 := by
  unfold fmtR; omega

theorem fmtI_eq (maj d a imm : Nat) :
    fmtI maj d a imm = (((64 + maj) * 2 ^ 5 + d) * 2 ^ 5 + a) * 2 ^ 15 + imm := by
  unfold fmtI; omega

theorem fmtI_range {maj d a imm : Nat} (hm : maj < 64) (hd : d < 2 ^ 5) (ha : a < 2 ^ 5) (himm : imm < 2 ^ 15) :
    2 ^ 31 ≤ fmtI maj d a imm ∧ fmtI maj d a imm < 2 ^ 32 := by
  unfold fmtI; omega

theorem fmtM_eq (maj d a z off : Nat) :
    fmtM maj d a z off = ((((64 + maj) * 2 ^ 5 + d) * 2 ^ 5 + a) * 2 ^ 3 + z) * 2 ^ 12 + off := by
  unfold fmtM; omega

theorem fmtM_range {maj d a z off : Nat} (hm : maj < 64) (hd : d < 2 ^ 5) (ha : a < 2 ^ 5) (hz : z < 2 ^ 3) (hoff : off < 2 ^ 12) :
    2 ^ 31 ≤ fmtM maj d a z off ∧ fmtM maj d a z off < 2 ^ 32 := by
  unfold fmtM; omega

theorem fmtZ_eq (maj a c off : Nat) :
    fmtZ maj a c off = (((64 + maj) * 2 ^ 5 + a) * 2 ^ 3 + c) * 2 ^ 17 + off := by
  unfold fmtZ; omega

theorem fmtZ_range {maj a c off : Nat} (hm : maj < 64) (ha : a < 2 ^ 5) (hc : c < 2 ^ 3) (hoff : off < 2 ^ 17) :
    2 ^ 31 ≤ fmtZ maj a c off ∧ fmtZ maj a c off < 2 ^ 32 := by
  unfold fmtZ; omega

theorem fmtJ_eq (maj off : Nat) :
    fmtJ maj off = (64 + maj) * 2 ^ 25 + off := by
  unfold fmtJ; omega

theorem fmtJ_range {maj off : Nat} (hm : maj < 64) (hoff : off < 2 ^ 25) :
    2 ^ 31 ≤ fmtJ maj off ∧ fmtJ maj off < 2 ^ 32 := by
  unfold fmtJ; omega

theorem fmtV_eq (maj d a b p ty o : Nat) :
    fmtV maj d a b p ty o = ((((((64 + maj) * 2 ^ 5 + d) * 2 ^ 5 + a) * 2 ^ 5 + b) * 2 ^ 3 + p) * 2 ^ 3 + ty) * 2 ^ 4 + o := by
  unfold fmtV; omega

theorem fmtV_range {maj d a b p ty o : Nat} (hm : maj < 64) (hd : d < 2 ^ 5) (ha : a < 2 ^ 5) (hb : b < 2 ^ 5) (hp : p < 2 ^ 3) (hty : ty < 2 ^ 3) (ho : o < 2 ^ 4) :
    2 ^ 31 ≤ fmtV maj d a b p ty o ∧ fmtV maj d a b p ty o < 2 ^ 32 := by
  unfold fmtV; omega

/-! ### The majors -/

theorem word_00 {d a b fn : Nat} (hd : d < 2 ^ 5) (ha : a < 2 ^ 5) (hb : b < 2 ^ 5) (hfn : fn < 2 ^ 10) :
    decodeWord (fmtR 0x00 d a b fn) =
      (dec00 (toCR d) (toCR a) (toCR b) fn : Dec) := by
  simp (disch := omega) only [decodeWord, fmtR_eq, bits_high, bits_low, bits_whole, bits_maj, Nat.reduceSub, Nat.sub_self]

theorem word_01 {d a imm : Nat} (hd : d < 2 ^ 5) (ha : a < 2 ^ 5) (himm : imm < 2 ^ 15) :
    decodeWord (fmtI 0x01 d a imm) =
      (.ok (.addi (toCR d) (toCR a) (BitVec.ofNat 15 imm)) : Dec) := by
  simp (disch := omega) only [decodeWord, fmtI_eq, bits_high, bits_low, bits_whole, bits_maj, Nat.reduceSub, Nat.sub_self]

theorem word_02 {d a imm : Nat} (hd : d < 2 ^ 5) (ha : a < 2 ^ 5) (himm : imm < 2 ^ 15) :
    decodeWord (fmtI 0x02 d a imm) =
      (.ok (.andi (toCR d) (toCR a) (BitVec.ofNat 15 imm)) : Dec) := by
  simp (disch := omega) only [decodeWord, fmtI_eq, bits_high, bits_low, bits_whole, bits_maj, Nat.reduceSub, Nat.sub_self]

theorem word_03 {d a imm : Nat} (hd : d < 2 ^ 5) (ha : a < 2 ^ 5) (himm : imm < 2 ^ 15) :
    decodeWord (fmtI 0x03 d a imm) =
      (.ok (.ori (toCR d) (toCR a) (BitVec.ofNat 15 imm)) : Dec) := by
  simp (disch := omega) only [decodeWord, fmtI_eq, bits_high, bits_low, bits_whole, bits_maj, Nat.reduceSub, Nat.sub_self]

theorem word_04 {d a imm : Nat} (hd : d < 2 ^ 5) (ha : a < 2 ^ 5) (himm : imm < 2 ^ 15) :
    decodeWord (fmtI 0x04 d a imm) =
      (.ok (.xori (toCR d) (toCR a) (BitVec.ofNat 15 imm)) : Dec) := by
  simp (disch := omega) only [decodeWord, fmtI_eq, bits_high, bits_low, bits_whole, bits_maj, Nat.reduceSub, Nat.sub_self]

theorem word_05 {d a imm : Nat} (hd : d < 2 ^ 5) (ha : a < 2 ^ 5) (himm : imm < 2 ^ 15) :
    decodeWord (fmtI 0x05 d a imm) =
      (dec05 (toCR d) (toCR a) (bitsAt imm 12 3) (bitsAt imm 6 6) (bitsAt imm 0 6) : Dec) := by
  simp (disch := omega) only [decodeWord, fmtI_eq, bits_high, bits_low, bits_whole, bits_maj, Nat.reduceSub, Nat.sub_self]

theorem word_06 {d a imm : Nat} (hd : d < 2 ^ 5) (ha : a < 2 ^ 5) (himm : imm < 2 ^ 15) :
    decodeWord (fmtI 0x06 d a imm) =
      (need (Cond.ofCode (bitsAt imm 12 3)) (fun c => .setiCc (toCR d) (toCR a) c (.ofNat 12 (bitsAt imm 0 12))) : Dec) := by
  simp (disch := omega) only [decodeWord, fmtI_eq, bits_high, bits_low, bits_whole, bits_maj, Nat.reduceSub, Nat.sub_self]

theorem word_07 {d pos mode imm : Nat} (hd : d < 2 ^ 5) (hpos : pos < 2 ^ 2) (hmode : mode < 2 ^ 2) (himm : imm < 2 ^ 16) :
    decodeWord (((((64 + 0x07) * 2 ^ 5 + d) * 2 ^ 2 + pos) * 2 ^ 2 + mode) * 2 ^ 16 + imm) =
      (dec07 (toCR d) pos mode imm : Dec) := by
  simp (disch := omega) only [decodeWord, bits_high, bits_low, bits_whole, bits_maj, Nat.reduceSub, Nat.sub_self]

theorem word_08 {d a b fn : Nat} (hd : d < 2 ^ 5) (ha : a < 2 ^ 5) (hb : b < 2 ^ 5) (hfn : fn < 2 ^ 10) :
    decodeWord (fmtR 0x08 d a b fn) =
      (dec08 (toCR d) (toCR a) (toCR b) fn : Dec) := by
  simp (disch := omega) only [decodeWord, fmtR_eq, bits_high, bits_low, bits_whole, bits_maj, Nat.reduceSub, Nat.sub_self]

theorem word_09 {d a b fn : Nat} (hd : d < 2 ^ 5) (ha : a < 2 ^ 5) (hb : b < 2 ^ 5) (hfn : fn < 2 ^ 10) :
    decodeWord (fmtR 0x09 d a b fn) =
      (dec09 (toCR d) (toCR a) (toCR b) fn : Dec) := by
  simp (disch := omega) only [decodeWord, fmtR_eq, bits_high, bits_low, bits_whole, bits_maj, Nat.reduceSub, Nat.sub_self]

theorem word_0A {d a imm : Nat} (hd : d < 2 ^ 5) (ha : a < 2 ^ 5) (himm : imm < 2 ^ 15) :
    decodeWord (fmtI 0x0A d a imm) =
      (zero a (.addpc (toCR d) (BitVec.ofNat 15 imm)) : Dec) := by
  simp (disch := omega) only [decodeWord, fmtI_eq, bits_high, bits_low, bits_whole, bits_maj, Nat.reduceSub, Nat.sub_self]

theorem word_10 {off : Nat} (hoff : off < 2 ^ 25) :
    decodeWord (fmtJ 0x10 off) =
      (.ok (.b (.ofNat 25 off)) : Dec) := by
  simp (disch := omega) only [decodeWord, fmtJ_eq, bits_high, bits_low, bits_whole, bits_maj, Nat.sub_self]

theorem word_11 {off : Nat} (hoff : off < 2 ^ 25) :
    decodeWord (fmtJ 0x11 off) =
      (.ok (.bl (.ofNat 25 off)) : Dec) := by
  simp (disch := omega) only [decodeWord, fmtJ_eq, bits_high, bits_low, bits_whole, bits_maj, Nat.sub_self]

theorem word_12 {d a z off : Nat} (hd : d < 2 ^ 5) (ha : a < 2 ^ 5) (hz : z < 2 ^ 3) (hoff : off < 2 ^ 12) :
    decodeWord (fmtM 0x12 d a z off) =
      (need (Cond.ofCode z) (fun c => .bcc (toCR d) (toCR a) c (.ofNat 12 off)) : Dec) := by
  simp (disch := omega) only [decodeWord, fmtM_eq, bits_high, bits_low, bits_whole, bits_maj, Nat.reduceSub, Nat.sub_self]

theorem word_13 {a c off : Nat} (ha : a < 2 ^ 5) (hc : c < 2 ^ 3) (hoff : off < 2 ^ 17) :
    decodeWord (fmtZ 0x13 a c off) =
      (need (CondZ.ofCode c) (fun cc => .bccz (toCR a) cc (.ofNat 17 off)) : Dec) := by
  simp (disch := omega) only [decodeWord, fmtZ_eq, bits_high, bits_low, bits_whole, bits_maj, Nat.reduceSub, Nat.sub_self]

theorem word_14 {d a b fn : Nat} (hd : d < 2 ^ 5) (ha : a < 2 ^ 5) (hb : b < 2 ^ 5) (hfn : fn < 2 ^ 10) :
    decodeWord (fmtR 0x14 d a b fn) =
      (dec14 (toCR d) (toCR a) (toCR b) fn : Dec) := by
  simp (disch := omega) only [decodeWord, fmtR_eq, bits_high, bits_low, bits_whole, bits_maj, Nat.reduceSub, Nat.sub_self]

theorem word_15 {a c off : Nat} (ha : a < 2 ^ 5) (hc : c < 2 ^ 3) (hoff : off < 2 ^ 17) :
    decodeWord (fmtZ 0x15 a c off) =
      (if c = 0 then .ok (.dbnz (toCR a) (.ofNat 17 off)) else .error .code : Dec) := by
  simp (disch := omega) only [decodeWord, fmtZ_eq, bits_high, bits_low, bits_whole, bits_maj, Nat.reduceSub, Nat.sub_self]

theorem word_18 {d a z off : Nat} (hd : d < 2 ^ 5) (ha : a < 2 ^ 5) (hz : z < 2 ^ 3) (hoff : off < 2 ^ 12) :
    decodeWord (fmtM 0x18 d a z off) =
      (dec18 (toCR d) (toCR a) z off : Dec) := by
  simp (disch := omega) only [decodeWord, fmtM_eq, bits_high, bits_low, bits_whole, bits_maj, Nat.reduceSub, Nat.sub_self]

theorem word_19 {d a z off : Nat} (hd : d < 2 ^ 5) (ha : a < 2 ^ 5) (hz : z < 2 ^ 3) (hoff : off < 2 ^ 12) :
    decodeWord (fmtM 0x19 d a z off) =
      (dec19 (toCR d) (toCR a) z off : Dec) := by
  simp (disch := omega) only [decodeWord, fmtM_eq, bits_high, bits_low, bits_whole, bits_maj, Nat.reduceSub, Nat.sub_self]

theorem word_1A {d a z off : Nat} (hd : d < 2 ^ 5) (ha : a < 2 ^ 5) (hz : z < 2 ^ 3) (hoff : off < 2 ^ 12) :
    decodeWord (fmtM 0x1A d a z off) =
      (dec1A (toCR d) (toCR a) z off : Dec) := by
  simp (disch := omega) only [decodeWord, fmtM_eq, bits_high, bits_low, bits_whole, bits_maj, Nat.reduceSub, Nat.sub_self]

theorem word_1B {a c off : Nat} (ha : a < 2 ^ 5) (hc : c < 2 ^ 3) (hoff : off < 2 ^ 17) :
    decodeWord (fmtZ 0x1B a c off) =
      (dec1B (toCR a) c off : Dec) := by
  simp (disch := omega) only [decodeWord, fmtZ_eq, bits_high, bits_low, bits_whole, bits_maj, Nat.reduceSub, Nat.sub_self]

theorem word_20 {d a z off : Nat} (hd : d < 2 ^ 5) (ha : a < 2 ^ 5) (hz : z < 2 ^ 3) (hoff : off < 2 ^ 12) :
    decodeWord (fmtM 0x20 d a z off) =
      (need (Size.ofCode z) (fun zz => .ld (toCR d) (toCR a) zz (.ofNat 12 off)) : Dec) := by
  simp (disch := omega) only [decodeWord, fmtM_eq, bits_high, bits_low, bits_whole, bits_maj, Nat.reduceSub, Nat.sub_self]

theorem word_21 {d a z off : Nat} (hd : d < 2 ^ 5) (ha : a < 2 ^ 5) (hz : z < 2 ^ 3) (hoff : off < 2 ^ 12) :
    decodeWord (fmtM 0x21 d a z off) =
      (need (storeSize z) (fun zz => .st (toCR d) (toCR a) zz (.ofNat 12 off)) : Dec) := by
  simp (disch := omega) only [decodeWord, fmtM_eq, bits_high, bits_low, bits_whole, bits_maj, Nat.reduceSub, Nat.sub_self]

theorem word_22 {d a z off : Nat} (hd : d < 2 ^ 5) (ha : a < 2 ^ 5) (hz : z < 2 ^ 3) (hoff : off < 2 ^ 12) :
    decodeWord (fmtM 0x22 d a z off) =
      (if z = 0 then .ok (.ldc (toCR d) (toCR a) (.ofNat 12 off)) else .error .code : Dec) := by
  simp (disch := omega) only [decodeWord, fmtM_eq, bits_high, bits_low, bits_whole, bits_maj, Nat.reduceSub, Nat.sub_self]

theorem word_23 {d a z off : Nat} (hd : d < 2 ^ 5) (ha : a < 2 ^ 5) (hz : z < 2 ^ 3) (hoff : off < 2 ^ 12) :
    decodeWord (fmtM 0x23 d a z off) =
      (if z = 0 then .ok (.stc (toCR d) (toCR a) (.ofNat 12 off)) else .error .code : Dec) := by
  simp (disch := omega) only [decodeWord, fmtM_eq, bits_high, bits_low, bits_whole, bits_maj, Nat.reduceSub, Nat.sub_self]

theorem word_24 {d a b fn : Nat} (hd : d < 2 ^ 5) (ha : a < 2 ^ 5) (hb : b < 2 ^ 5) (hfn : fn < 2 ^ 10) :
    decodeWord (fmtR 0x24 d a b fn) =
      (decX true (toCR d) (toCR a) (toCR b) (bitsAt fn 7 3) (bitsAt fn 4 3) (bitsAt fn 0 4) : Dec) := by
  simp (disch := omega) only [decodeWord, fmtR_eq, bits_high, bits_low, bits_whole, bits_maj, Nat.reduceSub, Nat.sub_self]

theorem word_25 {d a b fn : Nat} (hd : d < 2 ^ 5) (ha : a < 2 ^ 5) (hb : b < 2 ^ 5) (hfn : fn < 2 ^ 10) :
    decodeWord (fmtR 0x25 d a b fn) =
      (decX false (toCR d) (toCR a) (toCR b) (bitsAt fn 7 3) (bitsAt fn 4 3) (bitsAt fn 0 4) : Dec) := by
  simp (disch := omega) only [decodeWord, fmtR_eq, bits_high, bits_low, bits_whole, bits_maj, Nat.reduceSub, Nat.sub_self]

theorem word_26 {d a b fn : Nat} (hd : d < 2 ^ 5) (ha : a < 2 ^ 5) (hb : b < 2 ^ 5) (hfn : fn < 2 ^ 10) :
    decodeWord (fmtR 0x26 d a b fn) =
      (dec26 (toCR d) (toCR a) (toCR b) fn : Dec) := by
  simp (disch := omega) only [decodeWord, fmtR_eq, bits_high, bits_low, bits_whole, bits_maj, Nat.reduceSub, Nat.sub_self]

theorem word_28 {d a b fn : Nat} (hd : d < 2 ^ 5) (ha : a < 2 ^ 5) (hb : b < 2 ^ 5) (hfn : fn < 2 ^ 10) :
    decodeWord (fmtR 0x28 d a b fn) =
      (dec28 (toCR d) (toCR a) (toCR b) fn : Dec) := by
  simp (disch := omega) only [decodeWord, fmtR_eq, bits_high, bits_low, bits_whole, bits_maj, Nat.reduceSub, Nat.sub_self]

theorem word_29 {d a b fn : Nat} (hd : d < 2 ^ 5) (ha : a < 2 ^ 5) (hb : b < 2 ^ 5) (hfn : fn < 2 ^ 10) :
    decodeWord (fmtR 0x29 d a b fn) =
      (dec29 (toCR d) (toCR a) (toCR b) (bitsAt fn 8 2) (bitsAt fn 7 1) (bitsAt fn 0 7) : Dec) := by
  simp (disch := omega) only [decodeWord, fmtR_eq, bits_high, bits_low, bits_whole, bits_maj, Nat.reduceSub, Nat.sub_self]

theorem word_2A {d a b fn : Nat} (hd : d < 2 ^ 5) (ha : a < 2 ^ 5) (hb : b < 2 ^ 5) (hfn : fn < 2 ^ 10) :
    decodeWord (fmtR 0x2A d a b fn) =
      (dec2A (toCR d) (toCR a) (toCR b) (bitsAt fn 7 3) (bitsAt fn 3 4) (bitsAt fn 0 3) : Dec) := by
  simp (disch := omega) only [decodeWord, fmtR_eq, bits_high, bits_low, bits_whole, bits_maj, Nat.reduceSub, Nat.sub_self]

theorem word_2C {d a z off : Nat} (hd : d < 2 ^ 5) (ha : a < 2 ^ 5) (hz : z < 2 ^ 3) (hoff : off < 2 ^ 12) :
    decodeWord (fmtM 0x2C d a z off) =
      (dec2C (toCR d) (toCR a) (bitsAt z 2 1) (bitsAt z 0 2) off : Dec) := by
  simp (disch := omega) only [decodeWord, fmtM_eq, bits_high, bits_low, bits_whole, bits_maj, Nat.reduceSub, Nat.sub_self]

theorem word_2D {d a b fn : Nat} (hd : d < 2 ^ 5) (ha : a < 2 ^ 5) (hb : b < 2 ^ 5) (hfn : fn < 2 ^ 10) :
    decodeWord (fmtR 0x2D d a b fn) =
      (if (bitsAt fn 0 4) = 0 then dec2D (toCR d) (toCR a) (toCR b) ((bitsAt fn 9 1) == 1) ((bitsAt fn 8 1) == 1) (bitsAt fn 4 4) else .error .notZero : Dec) := by
  simp (disch := omega) only [decodeWord, fmtR_eq, bits_high, bits_low, bits_whole, bits_maj, Nat.reduceSub, Nat.sub_self]

theorem word_2E {d a b fn : Nat} (hd : d < 2 ^ 5) (ha : a < 2 ^ 5) (hb : b < 2 ^ 5) (hfn : fn < 2 ^ 10) :
    decodeWord (fmtR 0x2E d a b fn) =
      (dec2E (toCR d) (toCR a) (toCR b) ((bitsAt fn 9 1) == 1) (bitsAt fn 7 2) (bitsAt fn 4 3) (bitsAt fn 0 4) : Dec) := by
  simp (disch := omega) only [decodeWord, fmtR_eq, bits_high, bits_low, bits_whole, bits_maj, Nat.reduceSub, Nat.sub_self]

theorem word_2F {d a b fn : Nat} (hd : d < 2 ^ 5) (ha : a < 2 ^ 5) (hb : b < 2 ^ 5) (hfn : fn < 2 ^ 10) :
    decodeWord (fmtR 0x2F d a b fn) =
      (zero (bitsAt fn 0 9) (.amoCas2 (toCR d) (toCR a) (toCR b) ((bitsAt fn 9 1) == 1)) : Dec) := by
  simp (disch := omega) only [decodeWord, fmtR_eq, bits_high, bits_low, bits_whole, bits_maj, Nat.reduceSub, Nat.sub_self]

theorem word_30 {d a b fn : Nat} (hd : d < 2 ^ 5) (ha : a < 2 ^ 5) (hb : b < 2 ^ 5) (hfn : fn < 2 ^ 10) :
    decodeWord (fmtR 0x30 d a b fn) =
      (dec30 (toCR d) (toCR a) (toCR b) (bitsAt fn 8 2) (bitsAt fn 4 4) (bitsAt fn 0 4) : Dec) := by
  simp (disch := omega) only [decodeWord, fmtR_eq, bits_high, bits_low, bits_whole, bits_maj, Nat.reduceSub, Nat.sub_self]

theorem word_31 {d a imm : Nat} (hd : d < 2 ^ 5) (ha : a < 2 ^ 5) (himm : imm < 2 ^ 15) :
    decodeWord (fmtI 0x31 d a imm) =
      (dec31 (toCR d) (toCR a) (bitsAt imm 14 1) (bitsAt imm 6 8) (bitsAt imm 0 6) : Dec) := by
  simp (disch := omega) only [decodeWord, fmtI_eq, bits_high, bits_low, bits_whole, bits_maj, Nat.reduceSub, Nat.sub_self]

theorem word_32 {d a b fn : Nat} (hd : d < 2 ^ 5) (ha : a < 2 ^ 5) (hb : b < 2 ^ 5) (hfn : fn < 2 ^ 10) :
    decodeWord (fmtR 0x32 d a b fn) =
      (dec32 (toCR d) (toCR a) (toCR b) fn : Dec) := by
  simp (disch := omega) only [decodeWord, fmtR_eq, bits_high, bits_low, bits_whole, bits_maj, Nat.reduceSub, Nat.sub_self]

theorem word_33 {d a b fn : Nat} (hd : d < 2 ^ 5) (ha : a < 2 ^ 5) (hb : b < 2 ^ 5) (hfn : fn < 2 ^ 10) :
    decodeWord (fmtR 0x33 d a b fn) =
      (dec33 (toCR d) (toCR a) (toCR b) fn : Dec) := by
  simp (disch := omega) only [decodeWord, fmtR_eq, bits_high, bits_low, bits_whole, bits_maj, Nat.reduceSub, Nat.sub_self]

theorem word_34 {d a b fn : Nat} (hd : d < 2 ^ 5) (ha : a < 2 ^ 5) (hb : b < 2 ^ 5) (hfn : fn < 2 ^ 10) :
    decodeWord (fmtR 0x34 d a b fn) =
      (dec34 (toCR d) (toCR a) (toCR b) fn : Dec) := by
  simp (disch := omega) only [decodeWord, fmtR_eq, bits_high, bits_low, bits_whole, bits_maj, Nat.reduceSub, Nat.sub_self]

theorem word_35 {d a imm : Nat} (hd : d < 2 ^ 5) (ha : a < 2 ^ 5) (himm : imm < 2 ^ 15) :
    decodeWord (fmtI 0x35 d a imm) =
      (dec35 (toCR d) (toCR a) (bitsAt imm 14 1) (bitsAt imm 8 6) (bitsAt imm 0 8) : Dec) := by
  simp (disch := omega) only [decodeWord, fmtI_eq, bits_high, bits_low, bits_whole, bits_maj, Nat.reduceSub, Nat.sub_self]

theorem word_36 {d a b p ty o : Nat} (hd : d < 2 ^ 5) (ha : a < 2 ^ 5) (hb : b < 2 ^ 5) (hp : p < 2 ^ 3) (hty : ty < 2 ^ 3) (ho : o < 2 ^ 4) :
    decodeWord (fmtV 0x36 d a b p ty o) =
      (match ITy.ofCode ty with | some t => dec36 d a b p o t | none => .error .code : Dec) := by
  simp (disch := omega) only [decodeWord, fmtV_eq, bits_high, bits_low, bits_whole, bits_maj, Nat.reduceSub, Nat.sub_self]
    <;> cases ITy.ofCode ty <;> rfl

theorem word_37 {d a b p ty o : Nat} (hd : d < 2 ^ 5) (ha : a < 2 ^ 5) (hb : b < 2 ^ 5) (hp : p < 2 ^ 3) (hty : ty < 2 ^ 3) (ho : o < 2 ^ 4) :
    decodeWord (fmtV 0x37 d a b p ty o) =
      (match FTy.ofCode ty with | some t => dec37 d a b p o t | none => .error .code : Dec) := by
  simp (disch := omega) only [decodeWord, fmtV_eq, bits_high, bits_low, bits_whole, bits_maj, Nat.reduceSub, Nat.sub_self]
    <;> cases FTy.ofCode ty <;> rfl

theorem word_38 {d a b p ty o : Nat} (hd : d < 2 ^ 5) (ha : a < 2 ^ 5) (hb : b < 2 ^ 5) (hp : p < 2 ^ 3) (hty : ty < 2 ^ 3) (ho : o < 2 ^ 4) :
    decodeWord (fmtV 0x38 d a b p ty o) =
      (dec38 d a b p ty o : Dec) := by
  simp (disch := omega) only [decodeWord, fmtV_eq, bits_high, bits_low, bits_whole, bits_maj, Nat.reduceSub, Nat.sub_self]

theorem word_39 {d a b p ty o : Nat} (hd : d < 2 ^ 5) (ha : a < 2 ^ 5) (hb : b < 2 ^ 5) (hp : p < 2 ^ 3) (hty : ty < 2 ^ 3) (ho : o < 2 ^ 4) :
    decodeWord (fmtV 0x39 d a b p ty o) =
      (dec39 d a b p ty o : Dec) := by
  simp (disch := omega) only [decodeWord, fmtV_eq, bits_high, bits_low, bits_whole, bits_maj, Nat.reduceSub, Nat.sub_self]

theorem word_3A {d a b fn : Nat} (hd : d < 2 ^ 5) (ha : a < 2 ^ 5) (hb : b < 2 ^ 5) (hfn : fn < 2 ^ 10) :
    decodeWord (fmtR 0x3A d a b fn) =
      (dec3A d a b (bitsAt fn 5 5) (bitsAt fn 4 1) (bitsAt fn 0 4) : Dec) := by
  simp (disch := omega) only [decodeWord, fmtR_eq, bits_high, bits_low, bits_whole, bits_maj, Nat.reduceSub, Nat.sub_self]

theorem word_3B {d a z off : Nat} (hd : d < 2 ^ 5) (ha : a < 2 ^ 5) (hz : z < 2 ^ 3) (hoff : off < 2 ^ 12) :
    decodeWord (fmtM 0x3B d a z off) =
      (dec3B d (toCR a) z off : Dec) := by
  simp (disch := omega) only [decodeWord, fmtM_eq, bits_high, bits_low, bits_whole, bits_maj, Nat.reduceSub, Nat.sub_self]

theorem word_3C {c nm1 stag icnt : Nat} (hc : c < 2 ^ 5) (hnm1 : nm1 < 2 ^ 4) (hstag : stag < 2 ^ 4) (hicnt : icnt < 2 ^ 12) :
    decodeWord (((((64 + 0x3C) * 2 ^ 5 + c) * 2 ^ 4 + nm1) * 2 ^ 4 + stag) * 2 ^ 12 + icnt) =
      (dec3C (toCR c) nm1 stag icnt : Dec) := by
  simp (disch := omega) only [decodeWord, bits_high, bits_low, bits_whole, bits_maj, Nat.reduceSub, Nat.sub_self]

theorem word_3D {d a b fn : Nat} (hd : d < 2 ^ 5) (ha : a < 2 ^ 5) (hb : b < 2 ^ 5) (hfn : fn < 2 ^ 10) :
    decodeWord (fmtR 0x3D d a b fn) =
      (dec3D (toCR d) (toCR a) (toCR b) (bitsAt fn 7 3) (bitsAt fn 4 3) (bitsAt fn 3 1) (bitsAt fn 0 3) : Dec) := by
  simp (disch := omega) only [decodeWord, fmtR_eq, bits_high, bits_low, bits_whole, bits_maj, Nat.reduceSub, Nat.sub_self]

theorem word_3E {d a imm : Nat} (hd : d < 2 ^ 5) (ha : a < 2 ^ 5) (himm : imm < 2 ^ 15) :
    decodeWord (fmtI 0x3E d a imm) =
      (dec3E (toCR d) (toCR a) (bitsAt imm 13 2) (bitsAt imm 10 3) (bitsAt imm 0 10) : Dec) := by
  simp (disch := omega) only [decodeWord, fmtI_eq, bits_high, bits_low, bits_whole, bits_maj, Nat.reduceSub, Nat.sub_self]

theorem word_3F {d a b fn : Nat} (hd : d < 2 ^ 5) (ha : a < 2 ^ 5) (hb : b < 2 ^ 5) (hfn : fn < 2 ^ 10) :
    decodeWord (fmtR 0x3F d a b fn) =
      (dec3F (toCR d) (toCR a) (toCR b) fn : Dec) := by
  simp (disch := omega) only [decodeWord, fmtR_eq, bits_high, bits_low, bits_whole, bits_maj, Nat.reduceSub, Nat.sub_self]

/-! ### The family -/

/-- A well-formed instruction's pattern is a parcel or a word (R45, R46), and the decoder reads the instruction back. -/
def RoundTrip.Statement (i : Instr) : Prop :=
  i.wf = true → ∀ len w, encodePattern i = some (len, w) →
    (len = 2 ∧ w < 2 ^ 15 ∨ len = 4 ∧ 2 ^ 31 ≤ w ∧ w < 2 ^ 32) ∧ decodePattern len w = .ok i

theorem RoundTrip.ofWord {i : Instr} {w : Nat} (e : encodePattern i = some (4, w)) (h : 2 ^ 31 ≤ w ∧ w < 2 ^ 32)
    (d : i.wf = true → decodeWord w = .ok i) : RoundTrip.Statement i := by
  intro hw len v hv
  rw [e] at hv
  cases hv
  exact ⟨.inr ⟨rfl, h⟩, d hw⟩

theorem RoundTrip.ofParcel {i : Instr} {w : Nat} (e : encodePattern i = some (2, w)) (h : w < 2 ^ 15)
    (d : i.wf = true → decodeCompact w = .ok i) : RoundTrip.Statement i := by
  intro hw len v hv
  rw [e] at hv
  cases hv
  exact ⟨.inl ⟨rfl, h⟩, d hw⟩

theorem RoundTrip.ofStep {i : Instr} (e : encodePattern i = none) : RoundTrip.Statement i := by
  intro _ len w h
  rw [e] at h
  cases h

/-! ### One lemma per constructor -/

theorem RoundTrip.add (d a b : CR) : RoundTrip.Statement (.add d a b) := by
  have hd := d.isLt
  have ha := a.isLt
  have hb := b.isLt
  refine RoundTrip.ofWord rfl (fmtR_range (by omega) (by omega) (by omega) (by omega) (by omega)) (fun hwf => ?_)
  rw [word_00 (by omega) (by omega) (by omega) (by omega)]
  simp [toCR_val, dec00]

theorem RoundTrip.sub (d a b : CR) : RoundTrip.Statement (.sub d a b) := by
  have hd := d.isLt
  have ha := a.isLt
  have hb := b.isLt
  refine RoundTrip.ofWord rfl (fmtR_range (by omega) (by omega) (by omega) (by omega) (by omega)) (fun hwf => ?_)
  rw [word_00 (by omega) (by omega) (by omega) (by omega)]
  simp [toCR_val, dec00]

theorem RoundTrip.and (d a b : CR) : RoundTrip.Statement (.and d a b) := by
  have hd := d.isLt
  have ha := a.isLt
  have hb := b.isLt
  refine RoundTrip.ofWord rfl (fmtR_range (by omega) (by omega) (by omega) (by omega) (by omega)) (fun hwf => ?_)
  rw [word_00 (by omega) (by omega) (by omega) (by omega)]
  simp [toCR_val, dec00]

theorem RoundTrip.or (d a b : CR) : RoundTrip.Statement (.or d a b) := by
  have hd := d.isLt
  have ha := a.isLt
  have hb := b.isLt
  refine RoundTrip.ofWord rfl (fmtR_range (by omega) (by omega) (by omega) (by omega) (by omega)) (fun hwf => ?_)
  rw [word_00 (by omega) (by omega) (by omega) (by omega)]
  simp [toCR_val, dec00]

theorem RoundTrip.xor (d a b : CR) : RoundTrip.Statement (.xor d a b) := by
  have hd := d.isLt
  have ha := a.isLt
  have hb := b.isLt
  refine RoundTrip.ofWord rfl (fmtR_range (by omega) (by omega) (by omega) (by omega) (by omega)) (fun hwf => ?_)
  rw [word_00 (by omega) (by omega) (by omega) (by omega)]
  simp [toCR_val, dec00]

theorem RoundTrip.shl (d a b : CR) : RoundTrip.Statement (.shl d a b) := by
  have hd := d.isLt
  have ha := a.isLt
  have hb := b.isLt
  refine RoundTrip.ofWord rfl (fmtR_range (by omega) (by omega) (by omega) (by omega) (by omega)) (fun hwf => ?_)
  rw [word_00 (by omega) (by omega) (by omega) (by omega)]
  simp [toCR_val, dec00]

theorem RoundTrip.shr (d a b : CR) : RoundTrip.Statement (.shr d a b) := by
  have hd := d.isLt
  have ha := a.isLt
  have hb := b.isLt
  refine RoundTrip.ofWord rfl (fmtR_range (by omega) (by omega) (by omega) (by omega) (by omega)) (fun hwf => ?_)
  rw [word_00 (by omega) (by omega) (by omega) (by omega)]
  simp [toCR_val, dec00]

theorem RoundTrip.sra (d a b : CR) : RoundTrip.Statement (.sra d a b) := by
  have hd := d.isLt
  have ha := a.isLt
  have hb := b.isLt
  refine RoundTrip.ofWord rfl (fmtR_range (by omega) (by omega) (by omega) (by omega) (by omega)) (fun hwf => ?_)
  rw [word_00 (by omega) (by omega) (by omega) (by omega)]
  simp [toCR_val, dec00]

theorem RoundTrip.min (d a b : CR) : RoundTrip.Statement (.min d a b) := by
  have hd := d.isLt
  have ha := a.isLt
  have hb := b.isLt
  refine RoundTrip.ofWord rfl (fmtR_range (by omega) (by omega) (by omega) (by omega) (by omega)) (fun hwf => ?_)
  rw [word_00 (by omega) (by omega) (by omega) (by omega)]
  simp [toCR_val, dec00]

theorem RoundTrip.max (d a b : CR) : RoundTrip.Statement (.max d a b) := by
  have hd := d.isLt
  have ha := a.isLt
  have hb := b.isLt
  refine RoundTrip.ofWord rfl (fmtR_range (by omega) (by omega) (by omega) (by omega) (by omega)) (fun hwf => ?_)
  rw [word_00 (by omega) (by omega) (by omega) (by omega)]
  simp [toCR_val, dec00]

theorem RoundTrip.minn (d a b : CR) : RoundTrip.Statement (.minn d a b) := by
  have hd := d.isLt
  have ha := a.isLt
  have hb := b.isLt
  refine RoundTrip.ofWord rfl (fmtR_range (by omega) (by omega) (by omega) (by omega) (by omega)) (fun hwf => ?_)
  rw [word_00 (by omega) (by omega) (by omega) (by omega)]
  simp [toCR_val, dec00]

theorem RoundTrip.maxn (d a b : CR) : RoundTrip.Statement (.maxn d a b) := by
  have hd := d.isLt
  have ha := a.isLt
  have hb := b.isLt
  refine RoundTrip.ofWord rfl (fmtR_range (by omega) (by omega) (by omega) (by omega) (by omega)) (fun hwf => ?_)
  rw [word_00 (by omega) (by omega) (by omega) (by omega)]
  simp [toCR_val, dec00]

theorem RoundTrip.addQ (d a b : CR) : RoundTrip.Statement (.addQ d a b) := by
  have hd := d.isLt
  have ha := a.isLt
  have hb := b.isLt
  refine RoundTrip.ofWord rfl (fmtR_range (by omega) (by omega) (by omega) (by omega) (by omega)) (fun hwf => ?_)
  rw [word_00 (by omega) (by omega) (by omega) (by omega)]
  simp [toCR_val, dec00]

theorem RoundTrip.subQ (d a b : CR) : RoundTrip.Statement (.subQ d a b) := by
  have hd := d.isLt
  have ha := a.isLt
  have hb := b.isLt
  refine RoundTrip.ofWord rfl (fmtR_range (by omega) (by omega) (by omega) (by omega) (by omega)) (fun hwf => ?_)
  rw [word_00 (by omega) (by omega) (by omega) (by omega)]
  simp [toCR_val, dec00]

theorem RoundTrip.andQ (d a b : CR) : RoundTrip.Statement (.andQ d a b) := by
  have hd := d.isLt
  have ha := a.isLt
  have hb := b.isLt
  refine RoundTrip.ofWord rfl (fmtR_range (by omega) (by omega) (by omega) (by omega) (by omega)) (fun hwf => ?_)
  rw [word_00 (by omega) (by omega) (by omega) (by omega)]
  simp [toCR_val, dec00]

theorem RoundTrip.orQ (d a b : CR) : RoundTrip.Statement (.orQ d a b) := by
  have hd := d.isLt
  have ha := a.isLt
  have hb := b.isLt
  refine RoundTrip.ofWord rfl (fmtR_range (by omega) (by omega) (by omega) (by omega) (by omega)) (fun hwf => ?_)
  rw [word_00 (by omega) (by omega) (by omega) (by omega)]
  simp [toCR_val, dec00]

theorem RoundTrip.xorQ (d a b : CR) : RoundTrip.Statement (.xorQ d a b) := by
  have hd := d.isLt
  have ha := a.isLt
  have hb := b.isLt
  refine RoundTrip.ofWord rfl (fmtR_range (by omega) (by omega) (by omega) (by omega) (by omega)) (fun hwf => ?_)
  rw [word_00 (by omega) (by omega) (by omega) (by omega)]
  simp [toCR_val, dec00]

theorem RoundTrip.setCc (d a b : CR) (c : Cond) : RoundTrip.Statement (.setCc d a b c) := by
  have hd := d.isLt
  have ha := a.isLt
  have hb := b.isLt
  have hc := Cond.code_lt c
  refine RoundTrip.ofWord rfl (fmtR_range (by omega) (by omega) (by omega) (by omega) (by omega)) (fun hwf => ?_)
  rw [word_00 (by omega) (by omega) (by omega) (by omega)]
  cases c <;> simp_all [toCR_val, dec00, need, Cond.toCode, Cond.ofCode]

theorem RoundTrip.addi (d a : CR) (imm : BitVec 15) : RoundTrip.Statement (.addi d a imm) := by
  have hd := d.isLt
  have ha := a.isLt
  have himm := imm.isLt
  refine RoundTrip.ofWord rfl (fmtI_range (by omega) (by omega) (by omega) (by omega)) (fun hwf => ?_)
  rw [word_01 (by omega) (by omega) (by omega)]
  simp [toCR_val]

theorem RoundTrip.andi (d a : CR) (imm : BitVec 15) : RoundTrip.Statement (.andi d a imm) := by
  have hd := d.isLt
  have ha := a.isLt
  have himm := imm.isLt
  refine RoundTrip.ofWord rfl (fmtI_range (by omega) (by omega) (by omega) (by omega)) (fun hwf => ?_)
  rw [word_02 (by omega) (by omega) (by omega)]
  simp [toCR_val]

theorem RoundTrip.ori (d a : CR) (imm : BitVec 15) : RoundTrip.Statement (.ori d a imm) := by
  have hd := d.isLt
  have ha := a.isLt
  have himm := imm.isLt
  refine RoundTrip.ofWord rfl (fmtI_range (by omega) (by omega) (by omega) (by omega)) (fun hwf => ?_)
  rw [word_03 (by omega) (by omega) (by omega)]
  simp [toCR_val]

theorem RoundTrip.xori (d a : CR) (imm : BitVec 15) : RoundTrip.Statement (.xori d a imm) := by
  have hd := d.isLt
  have ha := a.isLt
  have himm := imm.isLt
  refine RoundTrip.ofWord rfl (fmtI_range (by omega) (by omega) (by omega) (by omega)) (fun hwf => ?_)
  rw [word_04 (by omega) (by omega) (by omega)]
  simp [toCR_val]

theorem RoundTrip.shli (d a : CR) (sh : BitVec 6) : RoundTrip.Statement (.shli d a sh) := by
  have hd := d.isLt
  have ha := a.isLt
  have hsh := sh.isLt
  refine RoundTrip.ofWord rfl (fmtI_range (by omega) (by omega) (by omega) (by omega)) (fun hwf => ?_)
  rw [word_05 (by omega) (by omega) (by omega)]
  have e1 : bitsAt (0 * 2 ^ 12 + sh.toNat) 0 6 = sh.toNat := by simp only [bitsAt]; omega
  have e2 : bitsAt (0 * 2 ^ 12 + sh.toNat) 6 6 = 0 := by simp only [bitsAt]; omega
  have e3 : bitsAt (0 * 2 ^ 12 + sh.toNat) 12 3 = 0 := by simp only [bitsAt]; omega
  simp only [e1, e2, e3]
  simp [toCR_val, dec05, zero]

theorem RoundTrip.shri (d a : CR) (sh : BitVec 6) : RoundTrip.Statement (.shri d a sh) := by
  have hd := d.isLt
  have ha := a.isLt
  have hsh := sh.isLt
  refine RoundTrip.ofWord rfl (fmtI_range (by omega) (by omega) (by omega) (by omega)) (fun hwf => ?_)
  rw [word_05 (by omega) (by omega) (by omega)]
  have e1 : bitsAt (1 * 2 ^ 12 + sh.toNat) 0 6 = sh.toNat := by simp only [bitsAt]; omega
  have e2 : bitsAt (1 * 2 ^ 12 + sh.toNat) 6 6 = 0 := by simp only [bitsAt]; omega
  have e3 : bitsAt (1 * 2 ^ 12 + sh.toNat) 12 3 = 1 := by simp only [bitsAt]; omega
  simp only [e1, e2, e3]
  simp [toCR_val, dec05, zero]

theorem RoundTrip.srai (d a : CR) (sh : BitVec 6) : RoundTrip.Statement (.srai d a sh) := by
  have hd := d.isLt
  have ha := a.isLt
  have hsh := sh.isLt
  refine RoundTrip.ofWord rfl (fmtI_range (by omega) (by omega) (by omega) (by omega)) (fun hwf => ?_)
  rw [word_05 (by omega) (by omega) (by omega)]
  have e1 : bitsAt (2 * 2 ^ 12 + sh.toNat) 0 6 = sh.toNat := by simp only [bitsAt]; omega
  have e2 : bitsAt (2 * 2 ^ 12 + sh.toNat) 6 6 = 0 := by simp only [bitsAt]; omega
  have e3 : bitsAt (2 * 2 ^ 12 + sh.toNat) 12 3 = 2 := by simp only [bitsAt]; omega
  simp only [e1, e2, e3]
  simp [toCR_val, dec05, zero]

theorem RoundTrip.roli (d a : CR) (sh : BitVec 6) : RoundTrip.Statement (.roli d a sh) := by
  have hd := d.isLt
  have ha := a.isLt
  have hsh := sh.isLt
  refine RoundTrip.ofWord rfl (fmtI_range (by omega) (by omega) (by omega) (by omega)) (fun hwf => ?_)
  rw [word_05 (by omega) (by omega) (by omega)]
  have e1 : bitsAt (3 * 2 ^ 12 + sh.toNat) 0 6 = sh.toNat := by simp only [bitsAt]; omega
  have e2 : bitsAt (3 * 2 ^ 12 + sh.toNat) 6 6 = 0 := by simp only [bitsAt]; omega
  have e3 : bitsAt (3 * 2 ^ 12 + sh.toNat) 12 3 = 3 := by simp only [bitsAt]; omega
  simp only [e1, e2, e3]
  simp [toCR_val, dec05, zero]

theorem RoundTrip.setiCc (d a : CR) (c : Cond) (imm : BitVec 12) : RoundTrip.Statement (.setiCc d a c imm) := by
  have hd := d.isLt
  have ha := a.isLt
  have hc := Cond.code_lt c
  have himm := imm.isLt
  refine RoundTrip.ofWord rfl (fmtI_range (by omega) (by omega) (by omega) (by omega)) (fun hwf => ?_)
  rw [word_06 (by omega) (by omega) (by omega)]
  have e1 : bitsAt (c.toCode * 2 ^ 12 + imm.toNat) 0 12 = imm.toNat := by simp only [bitsAt]; omega
  have e2 : bitsAt (c.toCode * 2 ^ 12 + imm.toNat) 12 3 = c.toCode := by simp only [bitsAt]; omega
  simp only [e1, e2]
  simp [toCR_val, Cond.of_to, need]

theorem RoundTrip.lkZ (d : CR) (pos : BitVec 2) (imm : BitVec 16) : RoundTrip.Statement (.lkZ d pos imm) := by
  have hd := d.isLt
  have hpos := pos.isLt
  have himm := imm.isLt
  refine RoundTrip.ofWord rfl (by omega) (fun hwf => ?_)
  rw [show 2 ^ 31 + 0x07 * 2 ^ 25 + d.val * 2 ^ 20 + pos.toNat * 2 ^ 18 + 0 * 2 ^ 16 + imm.toNat = ((((64 + 0x07) * 2 ^ 5 + d.val) * 2 ^ 2 + pos.toNat) * 2 ^ 2 + 0) * 2 ^ 16 + imm.toNat by omega, word_07 (by omega) (by omega) (by omega) (by omega)]
  simp [toCR_val, dec07]

theorem RoundTrip.lkK (d : CR) (pos : BitVec 2) (imm : BitVec 16) : RoundTrip.Statement (.lkK d pos imm) := by
  have hd := d.isLt
  have hpos := pos.isLt
  have himm := imm.isLt
  refine RoundTrip.ofWord rfl (by omega) (fun hwf => ?_)
  rw [show 2 ^ 31 + 0x07 * 2 ^ 25 + d.val * 2 ^ 20 + pos.toNat * 2 ^ 18 + 1 * 2 ^ 16 + imm.toNat = ((((64 + 0x07) * 2 ^ 5 + d.val) * 2 ^ 2 + pos.toNat) * 2 ^ 2 + 1) * 2 ^ 16 + imm.toNat by omega, word_07 (by omega) (by omega) (by omega) (by omega)]
  simp [toCR_val, dec07]

theorem RoundTrip.lkS (d : CR) (pos : BitVec 2) (imm : BitVec 16) : RoundTrip.Statement (.lkS d pos imm) := by
  have hd := d.isLt
  have hpos := pos.isLt
  have himm := imm.isLt
  refine RoundTrip.ofWord rfl (by omega) (fun hwf => ?_)
  rw [show 2 ^ 31 + 0x07 * 2 ^ 25 + d.val * 2 ^ 20 + pos.toNat * 2 ^ 18 + 2 * 2 ^ 16 + imm.toNat = ((((64 + 0x07) * 2 ^ 5 + d.val) * 2 ^ 2 + pos.toNat) * 2 ^ 2 + 2) * 2 ^ 16 + imm.toNat by omega, word_07 (by omega) (by omega) (by omega) (by omega)]
  simp [toCR_val, dec07]

theorem RoundTrip.mul (d a b : CR) : RoundTrip.Statement (.mul d a b) := by
  have hd := d.isLt
  have ha := a.isLt
  have hb := b.isLt
  refine RoundTrip.ofWord rfl (fmtR_range (by omega) (by omega) (by omega) (by omega) (by omega)) (fun hwf => ?_)
  rw [word_08 (by omega) (by omega) (by omega) (by omega)]
  simp [toCR_val, dec08]

theorem RoundTrip.mulh (d a b : CR) : RoundTrip.Statement (.mulh d a b) := by
  have hd := d.isLt
  have ha := a.isLt
  have hb := b.isLt
  refine RoundTrip.ofWord rfl (fmtR_range (by omega) (by omega) (by omega) (by omega) (by omega)) (fun hwf => ?_)
  rw [word_08 (by omega) (by omega) (by omega) (by omega)]
  simp [toCR_val, dec08]

theorem RoundTrip.mulhn (d a b : CR) : RoundTrip.Statement (.mulhn d a b) := by
  have hd := d.isLt
  have ha := a.isLt
  have hb := b.isLt
  refine RoundTrip.ofWord rfl (fmtR_range (by omega) (by omega) (by omega) (by omega) (by omega)) (fun hwf => ?_)
  rw [word_08 (by omega) (by omega) (by omega) (by omega)]
  simp [toCR_val, dec08]

theorem RoundTrip.div (d a b : CR) : RoundTrip.Statement (.div d a b) := by
  have hd := d.isLt
  have ha := a.isLt
  have hb := b.isLt
  refine RoundTrip.ofWord rfl (fmtR_range (by omega) (by omega) (by omega) (by omega) (by omega)) (fun hwf => ?_)
  rw [word_08 (by omega) (by omega) (by omega) (by omega)]
  simp [toCR_val, dec08]

theorem RoundTrip.divn (d a b : CR) : RoundTrip.Statement (.divn d a b) := by
  have hd := d.isLt
  have ha := a.isLt
  have hb := b.isLt
  refine RoundTrip.ofWord rfl (fmtR_range (by omega) (by omega) (by omega) (by omega) (by omega)) (fun hwf => ?_)
  rw [word_08 (by omega) (by omega) (by omega) (by omega)]
  simp [toCR_val, dec08]

theorem RoundTrip.remS (d a b : CR) : RoundTrip.Statement (.remS d a b) := by
  have hd := d.isLt
  have ha := a.isLt
  have hb := b.isLt
  refine RoundTrip.ofWord rfl (fmtR_range (by omega) (by omega) (by omega) (by omega) (by omega)) (fun hwf => ?_)
  rw [word_08 (by omega) (by omega) (by omega) (by omega)]
  simp [toCR_val, dec08]

theorem RoundTrip.remn (d a b : CR) : RoundTrip.Statement (.remn d a b) := by
  have hd := d.isLt
  have ha := a.isLt
  have hb := b.isLt
  refine RoundTrip.ofWord rfl (fmtR_range (by omega) (by omega) (by omega) (by omega) (by omega)) (fun hwf => ?_)
  rw [word_08 (by omega) (by omega) (by omega) (by omega)]
  simp [toCR_val, dec08]

theorem RoundTrip.mulx (d a b : CR) : RoundTrip.Statement (.mulx d a b) := by
  have hd := d.isLt
  have ha := a.isLt
  have hb := b.isLt
  refine RoundTrip.ofWord rfl (fmtR_range (by omega) (by omega) (by omega) (by omega) (by omega)) (fun hwf => ?_)
  rw [word_08 (by omega) (by omega) (by omega) (by omega)]
  simp [toCR_val, dec08]

theorem RoundTrip.mulxn (d a b : CR) : RoundTrip.Statement (.mulxn d a b) := by
  have hd := d.isLt
  have ha := a.isLt
  have hb := b.isLt
  refine RoundTrip.ofWord rfl (fmtR_range (by omega) (by omega) (by omega) (by omega) (by omega)) (fun hwf => ?_)
  rw [word_08 (by omega) (by omega) (by omega) (by omega)]
  simp [toCR_val, dec08]

theorem RoundTrip.clz (d a : CR) : RoundTrip.Statement (.clz d a) := by
  have hd := d.isLt
  have ha := a.isLt
  refine RoundTrip.ofWord rfl (fmtR_range (by omega) (by omega) (by omega) (by omega) (by omega)) (fun hwf => ?_)
  rw [word_09 (by omega) (by omega) (by omega) (by omega)]
  simp [toCR_val, dec09, zero, toCR_zero]

theorem RoundTrip.ctz (d a : CR) : RoundTrip.Statement (.ctz d a) := by
  have hd := d.isLt
  have ha := a.isLt
  refine RoundTrip.ofWord rfl (fmtR_range (by omega) (by omega) (by omega) (by omega) (by omega)) (fun hwf => ?_)
  rw [word_09 (by omega) (by omega) (by omega) (by omega)]
  simp [toCR_val, dec09, zero, toCR_zero]

theorem RoundTrip.popc (d a : CR) : RoundTrip.Statement (.popc d a) := by
  have hd := d.isLt
  have ha := a.isLt
  refine RoundTrip.ofWord rfl (fmtR_range (by omega) (by omega) (by omega) (by omega) (by omega)) (fun hwf => ?_)
  rw [word_09 (by omega) (by omega) (by omega) (by omega)]
  simp [toCR_val, dec09, zero, toCR_zero]

theorem RoundTrip.brev (d a : CR) : RoundTrip.Statement (.brev d a) := by
  have hd := d.isLt
  have ha := a.isLt
  refine RoundTrip.ofWord rfl (fmtR_range (by omega) (by omega) (by omega) (by omega) (by omega)) (fun hwf => ?_)
  rw [word_09 (by omega) (by omega) (by omega) (by omega)]
  simp [toCR_val, dec09, zero, toCR_zero]

theorem RoundTrip.bswap (d a : CR) : RoundTrip.Statement (.bswap d a) := by
  have hd := d.isLt
  have ha := a.isLt
  refine RoundTrip.ofWord rfl (fmtR_range (by omega) (by omega) (by omega) (by omega) (by omega)) (fun hwf => ?_)
  rw [word_09 (by omega) (by omega) (by omega) (by omega)]
  simp [toCR_val, dec09, zero, toCR_zero]

theorem RoundTrip.bext (d a b : CR) : RoundTrip.Statement (.bext d a b) := by
  have hd := d.isLt
  have ha := a.isLt
  have hb := b.isLt
  refine RoundTrip.ofWord rfl (fmtR_range (by omega) (by omega) (by omega) (by omega) (by omega)) (fun hwf => ?_)
  rw [word_09 (by omega) (by omega) (by omega) (by omega)]
  simp [toCR_val, dec09]

theorem RoundTrip.bins (d a b : CR) : RoundTrip.Statement (.bins d a b) := by
  have hd := d.isLt
  have ha := a.isLt
  have hb := b.isLt
  refine RoundTrip.ofWord rfl (fmtR_range (by omega) (by omega) (by omega) (by omega) (by omega)) (fun hwf => ?_)
  rw [word_09 (by omega) (by omega) (by omega) (by omega)]
  simp [toCR_val, dec09]

theorem RoundTrip.andn (d a b : CR) : RoundTrip.Statement (.andn d a b) := by
  have hd := d.isLt
  have ha := a.isLt
  have hb := b.isLt
  refine RoundTrip.ofWord rfl (fmtR_range (by omega) (by omega) (by omega) (by omega) (by omega)) (fun hwf => ?_)
  rw [word_09 (by omega) (by omega) (by omega) (by omega)]
  simp [toCR_val, dec09]

theorem RoundTrip.addpc (d : CR) (k : BitVec 15) : RoundTrip.Statement (.addpc d k) := by
  have hd := d.isLt
  have hk := k.isLt
  refine RoundTrip.ofWord rfl (fmtI_range (by omega) (by omega) (by omega) (by omega)) (fun hwf => ?_)
  rw [word_0A (by omega) (by omega) (by omega)]
  simp [toCR_val, zero]

theorem RoundTrip.b (k : BitVec 25) : RoundTrip.Statement (.b k) := by
  have hk := k.isLt
  refine RoundTrip.ofWord rfl (fmtJ_range (by omega) (by omega)) (fun hwf => ?_)
  rw [word_10 (by omega)]
  simp 

theorem RoundTrip.bl (k : BitVec 25) : RoundTrip.Statement (.bl k) := by
  have hk := k.isLt
  refine RoundTrip.ofWord rfl (fmtJ_range (by omega) (by omega)) (fun hwf => ?_)
  rw [word_11 (by omega)]
  simp 

theorem RoundTrip.bcc (a fb : CR) (c : Cond) (k : BitVec 12) : RoundTrip.Statement (.bcc a fb c k) := by
  have ha := a.isLt
  have hfb := fb.isLt
  have hc := Cond.code_lt c
  have hk := k.isLt
  refine RoundTrip.ofWord rfl (fmtM_range (by omega) (by omega) (by omega) (by omega) (by omega)) (fun hwf => ?_)
  rw [word_12 (by omega) (by omega) (by omega) (by omega)]
  simp [toCR_val, Cond.of_to, need]

theorem RoundTrip.bccz (a : CR) (c : CondZ) (k : BitVec 17) : RoundTrip.Statement (.bccz a c k) := by
  have ha := a.isLt
  have hc := CondZ.code_lt c
  have hk := k.isLt
  refine RoundTrip.ofWord rfl (fmtZ_range (by omega) (by omega) (by omega) (by omega)) (fun hwf => ?_)
  rw [word_13 (by omega) (by omega) (by omega)]
  simp [toCR_val, CondZ.of_to, need]

theorem RoundTrip.br (a : CR) : RoundTrip.Statement (.br a) := by
  have ha := a.isLt
  refine RoundTrip.ofWord rfl (fmtR_range (by omega) (by omega) (by omega) (by omega) (by omega)) (fun hwf => ?_)
  rw [word_14 (by omega) (by omega) (by omega) (by omega)]
  simp [toCR_val, dec14, zero, toCR_zero]

theorem RoundTrip.brl (a : CR) : RoundTrip.Statement (.brl a) := by
  have ha := a.isLt
  refine RoundTrip.ofWord rfl (fmtR_range (by omega) (by omega) (by omega) (by omega) (by omega)) (fun hwf => ?_)
  rw [word_14 (by omega) (by omega) (by omega) (by omega)]
  simp [toCR_val, dec14, zero, toCR_zero]

theorem RoundTrip.ret : RoundTrip.Statement (.ret) := by
  refine RoundTrip.ofWord rfl (fmtR_range (by omega) (by omega) (by omega) (by omega) (by omega)) (fun hwf => ?_)
  rw [word_14 (by omega) (by omega) (by omega) (by omega)]
  simp [dec14, zero, toCR_zero]

theorem RoundTrip.dbnz (a : CR) (k : BitVec 17) : RoundTrip.Statement (.dbnz a k) := by
  have ha := a.isLt
  have hk := k.isLt
  refine RoundTrip.ofWord rfl (fmtZ_range (by omega) (by omega) (by omega) (by omega)) (fun hwf => ?_)
  rw [word_15 (by omega) (by omega) (by omega)]
  simp [toCR_val]

theorem RoundTrip.nop : RoundTrip.Statement (.nop) := by
  refine RoundTrip.ofWord rfl (fmtM_range (by omega) (by omega) (by omega) (by omega) (by omega)) (fun hwf => ?_)
  rw [word_18 (by omega) (by omega) (by omega) (by omega)]
  simp [dec18, zero, toCR_zero]

theorem RoundTrip.endStrand : RoundTrip.Statement (.endStrand) := by
  refine RoundTrip.ofWord rfl (fmtM_range (by omega) (by omega) (by omega) (by omega) (by omega)) (fun hwf => ?_)
  rw [word_18 (by omega) (by omega) (by omega) (by omega)]
  simp [dec18, zero, toCR_zero]

theorem RoundTrip.trap (k : BitVec 12) : RoundTrip.Statement (.trap k) := by
  have hk := k.isLt
  refine RoundTrip.ofWord rfl (fmtM_range (by omega) (by omega) (by omega) (by omega) (by omega)) (fun hwf => ?_)
  rw [word_18 (by omega) (by omega) (by omega) (by omega)]
  simp [dec18, zero, toCR_zero]

theorem RoundTrip.brk (k : BitVec 12) : RoundTrip.Statement (.brk k) := by
  have hk := k.isLt
  refine RoundTrip.ofWord rfl (fmtM_range (by omega) (by omega) (by omega) (by omega) (by omega)) (fun hwf => ?_)
  rw [word_18 (by omega) (by omega) (by omega) (by omega)]
  simp [dec18, zero, toCR_zero]

theorem RoundTrip.yield : RoundTrip.Statement (.yield) := by
  refine RoundTrip.ofWord rfl (fmtM_range (by omega) (by omega) (by omega) (by omega) (by omega)) (fun hwf => ?_)
  rw [word_18 (by omega) (by omega) (by omega) (by omega)]
  simp [dec18, zero, toCR_zero]

theorem RoundTrip.rdst (d : CR) (n : BitVec 12) : RoundTrip.Statement (.rdst d n) := by
  have hd := d.isLt
  have hn := n.isLt
  refine RoundTrip.ofWord rfl (fmtM_range (by omega) (by omega) (by omega) (by omega) (by omega)) (fun hwf => ?_)
  rw [word_19 (by omega) (by omega) (by omega) (by omega)]
  simp [toCR_val, dec19, zero, toCR_zero]

theorem RoundTrip.wrst (a : CR) (n : BitVec 12) : RoundTrip.Statement (.wrst a n) := by
  have ha := a.isLt
  have hn := n.isLt
  refine RoundTrip.ofWord rfl (fmtM_range (by omega) (by omega) (by omega) (by omega) (by omega)) (fun hwf => ?_)
  rw [word_19 (by omega) (by omega) (by omega) (by omega)]
  simp [toCR_val, dec19, zero, toCR_zero]

theorem RoundTrip.setst (a : CR) (n : BitVec 12) : RoundTrip.Statement (.setst a n) := by
  have ha := a.isLt
  have hn := n.isLt
  refine RoundTrip.ofWord rfl (fmtM_range (by omega) (by omega) (by omega) (by omega) (by omega)) (fun hwf => ?_)
  rw [word_19 (by omega) (by omega) (by omega) (by omega)]
  simp [toCR_val, dec19, zero, toCR_zero]

theorem RoundTrip.clrst (a : CR) (n : BitVec 12) : RoundTrip.Statement (.clrst a n) := by
  have ha := a.isLt
  have hn := n.isLt
  refine RoundTrip.ofWord rfl (fmtM_range (by omega) (by omega) (by omega) (by omega) (by omega)) (fun hwf => ?_)
  rw [word_19 (by omega) (by omega) (by omega) (by omega)]
  simp [toCR_val, dec19, zero, toCR_zero]

theorem RoundTrip.rdcnt (d : CR) (n : BitVec 12) : RoundTrip.Statement (.rdcnt d n) := by
  have hd := d.isLt
  have hn := n.isLt
  refine RoundTrip.ofWord rfl (fmtM_range (by omega) (by omega) (by omega) (by omega) (by omega)) (fun hwf => ?_)
  rw [word_1A (by omega) (by omega) (by omega) (by omega)]
  simp [toCR_val, dec1A, zero, toCR_zero]

theorem RoundTrip.clock (d : CR) : RoundTrip.Statement (.clock d) := by
  have hd := d.isLt
  refine RoundTrip.ofWord rfl (fmtM_range (by omega) (by omega) (by omega) (by omega) (by omega)) (fun hwf => ?_)
  rw [word_1A (by omega) (by omega) (by omega) (by omega)]
  simp [toCR_val, dec1A, zero, toCR_zero]

theorem RoundTrip.rmtBegin (e : CR) (k : BitVec 17) : RoundTrip.Statement (.rmtBegin e k) := by
  have he := e.isLt
  have hk := k.isLt
  refine RoundTrip.ofWord rfl (fmtZ_range (by omega) (by omega) (by omega) (by omega)) (fun hwf => ?_)
  rw [word_1B (by omega) (by omega) (by omega)]
  simp [toCR_val, dec1B]

theorem RoundTrip.rmtCommit (e : CR) : RoundTrip.Statement (.rmtCommit e) := by
  have he := e.isLt
  refine RoundTrip.ofWord rfl (fmtZ_range (by omega) (by omega) (by omega) (by omega)) (fun hwf => ?_)
  rw [word_1B (by omega) (by omega) (by omega)]
  simp [toCR_val, dec1B, zero]

theorem RoundTrip.rmtAbort : RoundTrip.Statement (.rmtAbort) := by
  refine RoundTrip.ofWord rfl (fmtZ_range (by omega) (by omega) (by omega) (by omega)) (fun hwf => ?_)
  rw [word_1B (by omega) (by omega) (by omega)]
  simp [dec1B, zero, toCR_zero]

theorem RoundTrip.ld (d a : CR) (z : Size) (off : BitVec 12) : RoundTrip.Statement (.ld d a z off) := by
  have hd := d.isLt
  have ha := a.isLt
  have hz := Size.code_lt z
  have hoff := off.isLt
  refine RoundTrip.ofWord rfl (fmtM_range (by omega) (by omega) (by omega) (by omega) (by omega)) (fun hwf => ?_)
  rw [word_20 (by omega) (by omega) (by omega) (by omega)]
  simp [toCR_val, Size.of_to, need]

theorem RoundTrip.st (d a : CR) (z : Size) (off : BitVec 12) : RoundTrip.Statement (.st d a z off) := by
  have hd := d.isLt
  have ha := a.isLt
  have hz := Size.code_lt z
  have hoff := off.isLt
  refine RoundTrip.ofWord rfl (fmtM_range (by omega) (by omega) (by omega) (by omega) (by omega)) (fun hwf => ?_)
  rw [word_21 (by omega) (by omega) (by omega) (by omega)]
  simp [Instr.wf] at hwf
  cases z <;> simp_all [storeSize, need, Size.ofCode, Size.toCode, Size.storable, Option.filter, toCR_val]

theorem RoundTrip.ldc (d a : CR) (off : BitVec 12) : RoundTrip.Statement (.ldc d a off) := by
  have hd := d.isLt
  have ha := a.isLt
  have hoff := off.isLt
  refine RoundTrip.ofWord rfl (fmtM_range (by omega) (by omega) (by omega) (by omega) (by omega)) (fun hwf => ?_)
  rw [word_22 (by omega) (by omega) (by omega) (by omega)]
  simp [toCR_val]

theorem RoundTrip.stc (d a : CR) (off : BitVec 12) : RoundTrip.Statement (.stc d a off) := by
  have hd := d.isLt
  have ha := a.isLt
  have hoff := off.isLt
  refine RoundTrip.ofWord rfl (fmtM_range (by omega) (by omega) (by omega) (by omega) (by omega)) (fun hwf => ?_)
  rw [word_23 (by omega) (by omega) (by omega) (by omega)]
  simp [toCR_val]

theorem RoundTrip.ldx (d a i : CR) (z : Size) (sc : Fin 5) : RoundTrip.Statement (.ldx d a i z sc) := by
  have hd := d.isLt
  have ha := a.isLt
  have hi := i.isLt
  have hz := Size.code_lt z
  have hsc := sc.isLt
  refine RoundTrip.ofWord rfl (fmtR_range (by omega) (by omega) (by omega) (by omega) (by omega)) (fun hwf => ?_)
  rw [word_24 (by omega) (by omega) (by omega) (by omega)]
  have e1 : bitsAt (z.toCode * 128 + sc.val * 16) 0 4 = 0 := by simp only [bitsAt]; omega
  have e2 : bitsAt (z.toCode * 128 + sc.val * 16) 4 3 = sc.val := by simp only [bitsAt]; omega
  have e3 : bitsAt (z.toCode * 128 + sc.val * 16) 7 3 = z.toCode := by simp only [bitsAt]; omega
  simp only [e1, e2, e3]
  simp [toCR_val, Size.of_to, need, Nat.not_lt.2 (Nat.le_of_lt_succ hsc), decX]

theorem RoundTrip.stx (d a i : CR) (z : Size) (sc : Fin 5) : RoundTrip.Statement (.stx d a i z sc) := by
  have hd := d.isLt
  have ha := a.isLt
  have hi := i.isLt
  have hz := Size.code_lt z
  have hsc := sc.isLt
  refine RoundTrip.ofWord rfl (fmtR_range (by omega) (by omega) (by omega) (by omega) (by omega)) (fun hwf => ?_)
  rw [word_25 (by omega) (by omega) (by omega) (by omega)]
  have e1 : bitsAt (z.toCode * 128 + sc.val * 16) 0 4 = 0 := by simp only [bitsAt]; omega
  have e2 : bitsAt (z.toCode * 128 + sc.val * 16) 4 3 = sc.val := by simp only [bitsAt]; omega
  have e3 : bitsAt (z.toCode * 128 + sc.val * 16) 7 3 = z.toCode := by simp only [bitsAt]; omega
  simp only [e1, e2, e3]
  simp [Instr.wf] at hwf
  cases z <;> simp_all [decX, storeSize, need, Size.ofCode, Size.toCode, Size.storable, Option.filter, toCR_val, Nat.not_lt.2 (Nat.le_of_lt_succ hsc)]

theorem RoundTrip.sbind (d a i : CR) (out : Bool) (e : Fin 5) : RoundTrip.Statement (.sbind d a i out e) := by
  have hd := d.isLt
  have ha := a.isLt
  have hi := i.isLt
  have hout := Bool.toNat_lt out
  have he := e.isLt
  refine RoundTrip.ofWord rfl (fmtR_range (by omega) (by omega) (by omega) (by omega) (by omega)) (fun hwf => ?_)
  rw [word_26 (by omega) (by omega) (by omega) (by omega)]
  have e1 : bitsAt (out.toNat * 512 + e.val * 64) 0 2 = 0 := by simp only [bitsAt]; omega
  have e2 : bitsAt (out.toNat * 512 + e.val * 64) 2 4 = 0 := by simp only [bitsAt]; omega
  have e3 : bitsAt (out.toNat * 512 + e.val * 64) 6 3 = e.val := by simp only [bitsAt]; omega
  have e4 : bitsAt (out.toNat * 512 + e.val * 64) 9 1 = out.toNat := by simp only [bitsAt]; omega
  simp [Instr.wf] at hwf
  obtain ⟨h1, h2⟩ := hwf
  simp [toCR_val, dec26, Nat.not_lt.2 (Nat.le_of_lt_succ he), e1, e2, e3, e4, h1, Nat.not_lt.2 h2]

theorem RoundTrip.sunbind (d : CR) : RoundTrip.Statement (.sunbind d) := by
  have hd := d.isLt
  refine RoundTrip.ofWord rfl (fmtR_range (by omega) (by omega) (by omega) (by omega) (by omega)) (fun hwf => ?_)
  rw [word_26 (by omega) (by omega) (by omega) (by omega)]
  simp [Instr.wf] at hwf
  simp [toCR_val, dec26, zero, toCR_zero, hwf, bitsAt]

theorem RoundTrip.alloc (d a n : CR) : RoundTrip.Statement (.alloc d a n) := by
  have hd := d.isLt
  have ha := a.isLt
  have hn := n.isLt
  refine RoundTrip.ofWord rfl (fmtR_range (by omega) (by omega) (by omega) (by omega) (by omega)) (fun hwf => ?_)
  rw [word_28 (by omega) (by omega) (by omega) (by omega)]
  simp [toCR_val, dec28]

theorem RoundTrip.free (a : CR) : RoundTrip.Statement (.free a) := by
  have ha := a.isLt
  refine RoundTrip.ofWord rfl (fmtR_range (by omega) (by omega) (by omega) (by omega) (by omega)) (fun hwf => ?_)
  rw [word_28 (by omega) (by omega) (by omega) (by omega)]
  simp [toCR_val, dec28, zero, toCR_zero]

theorem RoundTrip.creclaim (d a : CR) : RoundTrip.Statement (.creclaim d a) := by
  have hd := d.isLt
  have ha := a.isLt
  refine RoundTrip.ofWord rfl (fmtR_range (by omega) (by omega) (by omega) (by omega) (by omega)) (fun hwf => ?_)
  rw [word_28 (by omega) (by omega) (by omega) (by omega)]
  simp [toCR_val, dec28, zero, toCR_zero]

theorem RoundTrip.split (d a n : CR) : RoundTrip.Statement (.split d a n) := by
  have hd := d.isLt
  have ha := a.isLt
  have hn := n.isLt
  refine RoundTrip.ofWord rfl (fmtR_range (by omega) (by omega) (by omega) (by omega) (by omega)) (fun hwf => ?_)
  rw [word_29 (by omega) (by omega) (by omega) (by omega)]
  simp [toCR_val, dec29, zero, bitsAt]

theorem RoundTrip.join (d a n : CR) : RoundTrip.Statement (.join d a n) := by
  have hd := d.isLt
  have ha := a.isLt
  have hn := n.isLt
  refine RoundTrip.ofWord rfl (fmtR_range (by omega) (by omega) (by omega) (by omega) (by omega)) (fun hwf => ?_)
  rw [word_29 (by omega) (by omega) (by omega) (by omega)]
  simp [toCR_val, dec29, zero, bitsAt]

theorem RoundTrip.send (a p : CR) (hint : BitVec 2) (s : Bool) : RoundTrip.Statement (.send a p hint s) := by
  have ha := a.isLt
  have hp := p.isLt
  have hhint := hint.isLt
  have hs := Bool.toNat_lt s
  refine RoundTrip.ofWord rfl (fmtR_range (by omega) (by omega) (by omega) (by omega) (by omega)) (fun hwf => ?_)
  rw [word_29 (by omega) (by omega) (by omega) (by omega)]
  have e1 : bitsAt (hint.toNat * 256 + s.toNat * 128 + 2) 0 7 = 2 := by simp only [bitsAt]; omega
  have e2 : bitsAt (hint.toNat * 256 + s.toNat * 128 + 2) 7 1 = s.toNat := by simp only [bitsAt]; omega
  have e3 : bitsAt (hint.toNat * 256 + s.toNat * 128 + 2) 8 2 = hint.toNat := by simp only [bitsAt]; omega
  simp only [e1, e2, e3]
  simp [toCR_val, dec29, zero, toCR_zero]

theorem RoundTrip.cview (d a n : CR) : RoundTrip.Statement (.cview d a n) := by
  have hd := d.isLt
  have ha := a.isLt
  have hn := n.isLt
  refine RoundTrip.ofWord rfl (fmtR_range (by omega) (by omega) (by omega) (by omega) (by omega)) (fun hwf => ?_)
  rw [word_29 (by omega) (by omega) (by omega) (by omega)]
  simp [toCR_val, dec29, zero, bitsAt]

theorem RoundTrip.cget (d a : CR) (f : Field) : RoundTrip.Statement (.cget d a f) := by
  have hd := d.isLt
  have ha := a.isLt
  have hf := Field.code_lt f
  refine RoundTrip.ofWord rfl (fmtR_range (by omega) (by omega) (by omega) (by omega) (by omega)) (fun hwf => ?_)
  rw [word_2A (by omega) (by omega) (by omega) (by omega)]
  have e1 : bitsAt (f.toCode * 8) 0 3 = 0 := by simp only [bitsAt]; omega
  have e2 : bitsAt (f.toCode * 8) 3 4 = f.toCode := by simp only [bitsAt]; omega
  have e3 : bitsAt (f.toCode * 8) 7 3 = 0 := by simp only [bitsAt]; omega
  simp only [e1, e2, e3]
  simp [toCR_val, Field.of_to, dec2A, need, toCR_zero]

theorem RoundTrip.cset (d a n : CR) (f : Field) : RoundTrip.Statement (.cset d a n f) := by
  have hd := d.isLt
  have ha := a.isLt
  have hn := n.isLt
  have hf := Field.code_lt f
  refine RoundTrip.ofWord rfl (fmtR_range (by omega) (by omega) (by omega) (by omega) (by omega)) (fun hwf => ?_)
  rw [word_2A (by omega) (by omega) (by omega) (by omega)]
  have e1 : bitsAt (f.toCode * 8 + 1) 0 3 = 1 := by simp only [bitsAt]; omega
  have e2 : bitsAt (f.toCode * 8 + 1) 3 4 = f.toCode := by simp only [bitsAt]; omega
  have e3 : bitsAt (f.toCode * 8 + 1) 7 3 = 0 := by simp only [bitsAt]; omega
  simp only [e1, e2, e3]
  simp [Instr.wf] at hwf
  rcases hwf with rfl | rfl <;> simp [dec2A, toCR_val, need, Field.ofCode, Field.toCode, Option.filter]

theorem RoundTrip.cinc (d a n : CR) : RoundTrip.Statement (.cinc d a n) := by
  have hd := d.isLt
  have ha := a.isLt
  have hn := n.isLt
  refine RoundTrip.ofWord rfl (fmtR_range (by omega) (by omega) (by omega) (by omega) (by omega)) (fun hwf => ?_)
  rw [word_2A (by omega) (by omega) (by omega) (by omega)]
  simp [toCR_val, dec2A, zero, bitsAt]

theorem RoundTrip.ctest (d a : CR) : RoundTrip.Statement (.ctest d a) := by
  have hd := d.isLt
  have ha := a.isLt
  refine RoundTrip.ofWord rfl (fmtR_range (by omega) (by omega) (by omega) (by omega) (by omega)) (fun hwf => ?_)
  rw [word_2A (by omega) (by omega) (by omega) (by omega)]
  simp [toCR_val, dec2A, zero, toCR_zero, bitsAt]

theorem RoundTrip.take (d a : CR) (off : BitVec 12) : RoundTrip.Statement (.take d a off) := by
  have hd := d.isLt
  have ha := a.isLt
  have hoff := off.isLt
  refine RoundTrip.ofWord rfl (fmtM_range (by omega) (by omega) (by omega) (by omega) (by omega)) (fun hwf => ?_)
  rw [word_2C (by omega) (by omega) (by omega) (by omega)]
  simp [toCR_val, dec2C, zero, bitsAt]

theorem RoundTrip.put (d a : CR) (off : BitVec 12) (s : Bool) : RoundTrip.Statement (.put d a off s) := by
  have hd := d.isLt
  have ha := a.isLt
  have hoff := off.isLt
  have hs := Bool.toNat_lt s
  refine RoundTrip.ofWord rfl (fmtM_range (by omega) (by omega) (by omega) (by omega) (by omega)) (fun hwf => ?_)
  rw [word_2C (by omega) (by omega) (by omega) (by omega)]
  have e1 : bitsAt (s.toNat * 4 + 1) 0 2 = 1 := by simp only [bitsAt]; omega
  have e2 : bitsAt (s.toNat * 4 + 1) 2 1 = s.toNat := by simp only [bitsAt]; omega
  simp only [e1, e2]
  simp [toCR_val, dec2C]

theorem RoundTrip.peek (d a : CR) (off : BitVec 12) : RoundTrip.Statement (.peek d a off) := by
  have hd := d.isLt
  have ha := a.isLt
  have hoff := off.isLt
  refine RoundTrip.ofWord rfl (fmtM_range (by omega) (by omega) (by omega) (by omega) (by omega)) (fun hwf => ?_)
  rw [word_2C (by omega) (by omega) (by omega) (by omega)]
  simp [toCR_val, dec2C, zero, bitsAt]

theorem RoundTrip.amoAdd (d a o : CR) (s w : Bool) : RoundTrip.Statement (.amoAdd d a o s w) := by
  have hd := d.isLt
  have ha := a.isLt
  have ho := o.isLt
  have hs := Bool.toNat_lt s
  have hw := Bool.toNat_lt w
  have hfn : amoFn s w 0 < 1024 := by simp only [amoFn]; omega
  refine RoundTrip.ofWord rfl (fmtR_range (by omega) (by omega) (by omega) (by omega) (by omega)) (fun hwf => ?_)
  rw [word_2D (by omega) (by omega) (by omega) (by omega)]
  have e1 : bitsAt (amoFn s w 0) 0 4 = 0 := by simp only [bitsAt, amoFn]; omega
  have e2 : bitsAt (amoFn s w 0) 4 4 = 0 := by simp only [bitsAt, amoFn]; omega
  have e3 : bitsAt (amoFn s w 0) 8 1 = w.toNat := by simp only [bitsAt, amoFn]; omega
  have e4 : bitsAt (amoFn s w 0) 9 1 = s.toNat := by simp only [bitsAt, amoFn]; omega
  simp only [e1, e2, e3, e4]
  simp [toCR_val, dec2D]

theorem RoundTrip.amoAnd (d a o : CR) (s w : Bool) : RoundTrip.Statement (.amoAnd d a o s w) := by
  have hd := d.isLt
  have ha := a.isLt
  have ho := o.isLt
  have hs := Bool.toNat_lt s
  have hw := Bool.toNat_lt w
  have hfn : amoFn s w 1 < 1024 := by simp only [amoFn]; omega
  refine RoundTrip.ofWord rfl (fmtR_range (by omega) (by omega) (by omega) (by omega) (by omega)) (fun hwf => ?_)
  rw [word_2D (by omega) (by omega) (by omega) (by omega)]
  have e1 : bitsAt (amoFn s w 1) 0 4 = 0 := by simp only [bitsAt, amoFn]; omega
  have e2 : bitsAt (amoFn s w 1) 4 4 = 1 := by simp only [bitsAt, amoFn]; omega
  have e3 : bitsAt (amoFn s w 1) 8 1 = w.toNat := by simp only [bitsAt, amoFn]; omega
  have e4 : bitsAt (amoFn s w 1) 9 1 = s.toNat := by simp only [bitsAt, amoFn]; omega
  simp only [e1, e2, e3, e4]
  simp [toCR_val, dec2D]

theorem RoundTrip.amoOr (d a o : CR) (s w : Bool) : RoundTrip.Statement (.amoOr d a o s w) := by
  have hd := d.isLt
  have ha := a.isLt
  have ho := o.isLt
  have hs := Bool.toNat_lt s
  have hw := Bool.toNat_lt w
  have hfn : amoFn s w 2 < 1024 := by simp only [amoFn]; omega
  refine RoundTrip.ofWord rfl (fmtR_range (by omega) (by omega) (by omega) (by omega) (by omega)) (fun hwf => ?_)
  rw [word_2D (by omega) (by omega) (by omega) (by omega)]
  have e1 : bitsAt (amoFn s w 2) 0 4 = 0 := by simp only [bitsAt, amoFn]; omega
  have e2 : bitsAt (amoFn s w 2) 4 4 = 2 := by simp only [bitsAt, amoFn]; omega
  have e3 : bitsAt (amoFn s w 2) 8 1 = w.toNat := by simp only [bitsAt, amoFn]; omega
  have e4 : bitsAt (amoFn s w 2) 9 1 = s.toNat := by simp only [bitsAt, amoFn]; omega
  simp only [e1, e2, e3, e4]
  simp [toCR_val, dec2D]

theorem RoundTrip.amoXor (d a o : CR) (s w : Bool) : RoundTrip.Statement (.amoXor d a o s w) := by
  have hd := d.isLt
  have ha := a.isLt
  have ho := o.isLt
  have hs := Bool.toNat_lt s
  have hw := Bool.toNat_lt w
  have hfn : amoFn s w 3 < 1024 := by simp only [amoFn]; omega
  refine RoundTrip.ofWord rfl (fmtR_range (by omega) (by omega) (by omega) (by omega) (by omega)) (fun hwf => ?_)
  rw [word_2D (by omega) (by omega) (by omega) (by omega)]
  have e1 : bitsAt (amoFn s w 3) 0 4 = 0 := by simp only [bitsAt, amoFn]; omega
  have e2 : bitsAt (amoFn s w 3) 4 4 = 3 := by simp only [bitsAt, amoFn]; omega
  have e3 : bitsAt (amoFn s w 3) 8 1 = w.toNat := by simp only [bitsAt, amoFn]; omega
  have e4 : bitsAt (amoFn s w 3) 9 1 = s.toNat := by simp only [bitsAt, amoFn]; omega
  simp only [e1, e2, e3, e4]
  simp [toCR_val, dec2D]

theorem RoundTrip.amoMin (d a o : CR) (s w : Bool) : RoundTrip.Statement (.amoMin d a o s w) := by
  have hd := d.isLt
  have ha := a.isLt
  have ho := o.isLt
  have hs := Bool.toNat_lt s
  have hw := Bool.toNat_lt w
  have hfn : amoFn s w 4 < 1024 := by simp only [amoFn]; omega
  refine RoundTrip.ofWord rfl (fmtR_range (by omega) (by omega) (by omega) (by omega) (by omega)) (fun hwf => ?_)
  rw [word_2D (by omega) (by omega) (by omega) (by omega)]
  have e1 : bitsAt (amoFn s w 4) 0 4 = 0 := by simp only [bitsAt, amoFn]; omega
  have e2 : bitsAt (amoFn s w 4) 4 4 = 4 := by simp only [bitsAt, amoFn]; omega
  have e3 : bitsAt (amoFn s w 4) 8 1 = w.toNat := by simp only [bitsAt, amoFn]; omega
  have e4 : bitsAt (amoFn s w 4) 9 1 = s.toNat := by simp only [bitsAt, amoFn]; omega
  simp only [e1, e2, e3, e4]
  simp [toCR_val, dec2D]

theorem RoundTrip.amoMax (d a o : CR) (s w : Bool) : RoundTrip.Statement (.amoMax d a o s w) := by
  have hd := d.isLt
  have ha := a.isLt
  have ho := o.isLt
  have hs := Bool.toNat_lt s
  have hw := Bool.toNat_lt w
  have hfn : amoFn s w 5 < 1024 := by simp only [amoFn]; omega
  refine RoundTrip.ofWord rfl (fmtR_range (by omega) (by omega) (by omega) (by omega) (by omega)) (fun hwf => ?_)
  rw [word_2D (by omega) (by omega) (by omega) (by omega)]
  have e1 : bitsAt (amoFn s w 5) 0 4 = 0 := by simp only [bitsAt, amoFn]; omega
  have e2 : bitsAt (amoFn s w 5) 4 4 = 5 := by simp only [bitsAt, amoFn]; omega
  have e3 : bitsAt (amoFn s w 5) 8 1 = w.toNat := by simp only [bitsAt, amoFn]; omega
  have e4 : bitsAt (amoFn s w 5) 9 1 = s.toNat := by simp only [bitsAt, amoFn]; omega
  simp only [e1, e2, e3, e4]
  simp [toCR_val, dec2D]

theorem RoundTrip.amoMinn (d a o : CR) (s w : Bool) : RoundTrip.Statement (.amoMinn d a o s w) := by
  have hd := d.isLt
  have ha := a.isLt
  have ho := o.isLt
  have hs := Bool.toNat_lt s
  have hw := Bool.toNat_lt w
  have hfn : amoFn s w 6 < 1024 := by simp only [amoFn]; omega
  refine RoundTrip.ofWord rfl (fmtR_range (by omega) (by omega) (by omega) (by omega) (by omega)) (fun hwf => ?_)
  rw [word_2D (by omega) (by omega) (by omega) (by omega)]
  have e1 : bitsAt (amoFn s w 6) 0 4 = 0 := by simp only [bitsAt, amoFn]; omega
  have e2 : bitsAt (amoFn s w 6) 4 4 = 6 := by simp only [bitsAt, amoFn]; omega
  have e3 : bitsAt (amoFn s w 6) 8 1 = w.toNat := by simp only [bitsAt, amoFn]; omega
  have e4 : bitsAt (amoFn s w 6) 9 1 = s.toNat := by simp only [bitsAt, amoFn]; omega
  simp only [e1, e2, e3, e4]
  simp [toCR_val, dec2D]

theorem RoundTrip.amoMaxn (d a o : CR) (s w : Bool) : RoundTrip.Statement (.amoMaxn d a o s w) := by
  have hd := d.isLt
  have ha := a.isLt
  have ho := o.isLt
  have hs := Bool.toNat_lt s
  have hw := Bool.toNat_lt w
  have hfn : amoFn s w 7 < 1024 := by simp only [amoFn]; omega
  refine RoundTrip.ofWord rfl (fmtR_range (by omega) (by omega) (by omega) (by omega) (by omega)) (fun hwf => ?_)
  rw [word_2D (by omega) (by omega) (by omega) (by omega)]
  have e1 : bitsAt (amoFn s w 7) 0 4 = 0 := by simp only [bitsAt, amoFn]; omega
  have e2 : bitsAt (amoFn s w 7) 4 4 = 7 := by simp only [bitsAt, amoFn]; omega
  have e3 : bitsAt (amoFn s w 7) 8 1 = w.toNat := by simp only [bitsAt, amoFn]; omega
  have e4 : bitsAt (amoFn s w 7) 9 1 = s.toNat := by simp only [bitsAt, amoFn]; omega
  simp only [e1, e2, e3, e4]
  simp [toCR_val, dec2D]

theorem RoundTrip.amoSwap (d a o : CR) (s w : Bool) : RoundTrip.Statement (.amoSwap d a o s w) := by
  have hd := d.isLt
  have ha := a.isLt
  have ho := o.isLt
  have hs := Bool.toNat_lt s
  have hw := Bool.toNat_lt w
  have hfn : amoFn s w 8 < 1024 := by simp only [amoFn]; omega
  refine RoundTrip.ofWord rfl (fmtR_range (by omega) (by omega) (by omega) (by omega) (by omega)) (fun hwf => ?_)
  rw [word_2D (by omega) (by omega) (by omega) (by omega)]
  have e1 : bitsAt (amoFn s w 8) 0 4 = 0 := by simp only [bitsAt, amoFn]; omega
  have e2 : bitsAt (amoFn s w 8) 4 4 = 8 := by simp only [bitsAt, amoFn]; omega
  have e3 : bitsAt (amoFn s w 8) 8 1 = w.toNat := by simp only [bitsAt, amoFn]; omega
  have e4 : bitsAt (amoFn s w 8) 9 1 = s.toNat := by simp only [bitsAt, amoFn]; omega
  simp only [e1, e2, e3, e4]
  simp [toCR_val, dec2D]

theorem RoundTrip.amoCas (d a o : CR) (s w : Bool) : RoundTrip.Statement (.amoCas d a o s w) := by
  have hd := d.isLt
  have ha := a.isLt
  have ho := o.isLt
  have hs := Bool.toNat_lt s
  have hw := Bool.toNat_lt w
  have hfn : amoFn s w 9 < 1024 := by simp only [amoFn]; omega
  refine RoundTrip.ofWord rfl (fmtR_range (by omega) (by omega) (by omega) (by omega) (by omega)) (fun hwf => ?_)
  rw [word_2D (by omega) (by omega) (by omega) (by omega)]
  have e1 : bitsAt (amoFn s w 9) 0 4 = 0 := by simp only [bitsAt, amoFn]; omega
  have e2 : bitsAt (amoFn s w 9) 4 4 = 9 := by simp only [bitsAt, amoFn]; omega
  have e3 : bitsAt (amoFn s w 9) 8 1 = w.toNat := by simp only [bitsAt, amoFn]; omega
  have e4 : bitsAt (amoFn s w 9) 9 1 = s.toNat := by simp only [bitsAt, amoFn]; omega
  simp only [e1, e2, e3, e4]
  simp [toCR_val, dec2D]

theorem RoundTrip.amoFadd (d a o : CR) (s : Bool) (t : AFTy) (ctl : BitVec 4) : RoundTrip.Statement (.amoFadd d a o s t ctl) := by
  have hd := d.isLt
  have ha := a.isLt
  have ho := o.isLt
  have hs := Bool.toNat_lt s
  have ht := AFTy.code_lt t
  have hctl := ctl.isLt
  have hfn : amoFfn s t 0 ctl < 1024 := by simp only [amoFfn]; omega
  refine RoundTrip.ofWord rfl (fmtR_range (by omega) (by omega) (by omega) (by omega) (by omega)) (fun hwf => ?_)
  rw [word_2E (by omega) (by omega) (by omega) (by omega)]
  have e1 : bitsAt (amoFfn s t 0 ctl) 0 4 = ctl.toNat := by simp only [bitsAt, amoFfn]; omega
  have e2 : bitsAt (amoFfn s t 0 ctl) 4 3 = 0 := by simp only [bitsAt, amoFfn]; omega
  have e3 : bitsAt (amoFfn s t 0 ctl) 7 2 = t.toCode := by simp only [bitsAt, amoFfn]; omega
  have e4 : bitsAt (amoFfn s t 0 ctl) 9 1 = s.toNat := by simp only [bitsAt, amoFfn]; omega
  have hc : ¬(ctl.toNat < 8 ∧ ctl.toNat ≠ 0) := by
    simp [Instr.wf] at hwf
    rcases hwf with h | rfl
    · have : ctl.toNat.testBit 3 = true := by simpa [BitVec.getElem_eq_testBit_toNat] using h
      intro hh; rw [Nat.testBit_lt_two_pow (by omega)] at this; cases this
    · simp
  simp only [e1, e2, e3, e4]
  simp only [dec2E, if_neg hc]
  simp [AFTy.of_to, toCR_val, need]

theorem RoundTrip.amoFmin (d a o : CR) (s : Bool) (t : AFTy) (ctl : BitVec 4) : RoundTrip.Statement (.amoFmin d a o s t ctl) := by
  have hd := d.isLt
  have ha := a.isLt
  have ho := o.isLt
  have hs := Bool.toNat_lt s
  have ht := AFTy.code_lt t
  have hctl := ctl.isLt
  have hfn : amoFfn s t 1 ctl < 1024 := by simp only [amoFfn]; omega
  refine RoundTrip.ofWord rfl (fmtR_range (by omega) (by omega) (by omega) (by omega) (by omega)) (fun hwf => ?_)
  rw [word_2E (by omega) (by omega) (by omega) (by omega)]
  have e1 : bitsAt (amoFfn s t 1 ctl) 0 4 = ctl.toNat := by simp only [bitsAt, amoFfn]; omega
  have e2 : bitsAt (amoFfn s t 1 ctl) 4 3 = 1 := by simp only [bitsAt, amoFfn]; omega
  have e3 : bitsAt (amoFfn s t 1 ctl) 7 2 = t.toCode := by simp only [bitsAt, amoFfn]; omega
  have e4 : bitsAt (amoFfn s t 1 ctl) 9 1 = s.toNat := by simp only [bitsAt, amoFfn]; omega
  have hc : ¬(ctl.toNat < 8 ∧ ctl.toNat ≠ 0) := by
    simp [Instr.wf] at hwf
    rcases hwf with h | rfl
    · have : ctl.toNat.testBit 3 = true := by simpa [BitVec.getElem_eq_testBit_toNat] using h
      intro hh; rw [Nat.testBit_lt_two_pow (by omega)] at this; cases this
    · simp
  simp only [e1, e2, e3, e4]
  simp only [dec2E, if_neg hc]
  simp [AFTy.of_to, toCR_val, need]

theorem RoundTrip.amoFmax (d a o : CR) (s : Bool) (t : AFTy) (ctl : BitVec 4) : RoundTrip.Statement (.amoFmax d a o s t ctl) := by
  have hd := d.isLt
  have ha := a.isLt
  have ho := o.isLt
  have hs := Bool.toNat_lt s
  have ht := AFTy.code_lt t
  have hctl := ctl.isLt
  have hfn : amoFfn s t 2 ctl < 1024 := by simp only [amoFfn]; omega
  refine RoundTrip.ofWord rfl (fmtR_range (by omega) (by omega) (by omega) (by omega) (by omega)) (fun hwf => ?_)
  rw [word_2E (by omega) (by omega) (by omega) (by omega)]
  have e1 : bitsAt (amoFfn s t 2 ctl) 0 4 = ctl.toNat := by simp only [bitsAt, amoFfn]; omega
  have e2 : bitsAt (amoFfn s t 2 ctl) 4 3 = 2 := by simp only [bitsAt, amoFfn]; omega
  have e3 : bitsAt (amoFfn s t 2 ctl) 7 2 = t.toCode := by simp only [bitsAt, amoFfn]; omega
  have e4 : bitsAt (amoFfn s t 2 ctl) 9 1 = s.toNat := by simp only [bitsAt, amoFfn]; omega
  have hc : ¬(ctl.toNat < 8 ∧ ctl.toNat ≠ 0) := by
    simp [Instr.wf] at hwf
    rcases hwf with h | rfl
    · have : ctl.toNat.testBit 3 = true := by simpa [BitVec.getElem_eq_testBit_toNat] using h
      intro hh; rw [Nat.testBit_lt_two_pow (by omega)] at this; cases this
    · simp
  simp only [e1, e2, e3, e4]
  simp only [dec2E, if_neg hc]
  simp [AFTy.of_to, toCR_val, need]

theorem RoundTrip.amoCas2 (d a o : CR) (s : Bool) : RoundTrip.Statement (.amoCas2 d a o s) := by
  have hd := d.isLt
  have ha := a.isLt
  have ho := o.isLt
  have hs := Bool.toNat_lt s
  refine RoundTrip.ofWord rfl (fmtR_range (by omega) (by omega) (by omega) (by omega) (by omega)) (fun hwf => ?_)
  rw [word_2F (by omega) (by omega) (by omega) (by omega)]
  have e1 : bitsAt (s.toNat * 512) 0 9 = 0 := by simp only [bitsAt]; omega
  have e2 : bitsAt (s.toNat * 512) 9 1 = s.toNat := by simp only [bitsAt]; omega
  simp only [e1, e2]
  simp [toCR_val, zero]

theorem RoundTrip.msg (d a h : CR) (n : Fin 9) : RoundTrip.Statement (.msg d a h n) := by
  have hd := d.isLt
  have ha := a.isLt
  have hh := h.isLt
  have hn := n.isLt
  refine RoundTrip.ofWord rfl (fmtR_range (by omega) (by omega) (by omega) (by omega) (by omega)) (fun hwf => ?_)
  rw [word_30 (by omega) (by omega) (by omega) (by omega)]
  have e1 : bitsAt (0 * 256 + n.val * 16) 0 4 = 0 := by simp only [bitsAt]; omega
  have e2 : bitsAt (0 * 256 + n.val * 16) 4 4 = n.val := by simp only [bitsAt]; omega
  have e3 : bitsAt (0 * 256 + n.val * 16) 8 2 = 0 := by simp only [bitsAt]; omega
  simp only [e1, e2, e3]
  simp [Instr.wf, payloadOk] at hwf
  have h1 : ¬(n.val = 0 ∧ a.val ≠ 0) := by rintro ⟨h, h'⟩; rw [if_pos (Fin.ext h)] at hwf; exact h' (by rw [hwf]; rfl)
  have h2 : ¬(n.val ≠ 0 ∧ 32 < a.val + n.val) := by rintro ⟨h, h'⟩; rw [if_neg (fun e => h (by rw [e]; rfl))] at hwf; omega
  have h3 : ¬8 < n.val := by omega
  simp only [dec30, toCR_val, if_neg h1, if_neg h2, if_neg h3]
  simp

theorem RoundTrip.mcast (d a h : CR) (n : Fin 9) : RoundTrip.Statement (.mcast d a h n) := by
  have hd := d.isLt
  have ha := a.isLt
  have hh := h.isLt
  have hn := n.isLt
  refine RoundTrip.ofWord rfl (fmtR_range (by omega) (by omega) (by omega) (by omega) (by omega)) (fun hwf => ?_)
  rw [word_30 (by omega) (by omega) (by omega) (by omega)]
  have e1 : bitsAt (1 * 256 + n.val * 16) 0 4 = 0 := by simp only [bitsAt]; omega
  have e2 : bitsAt (1 * 256 + n.val * 16) 4 4 = n.val := by simp only [bitsAt]; omega
  have e3 : bitsAt (1 * 256 + n.val * 16) 8 2 = 1 := by simp only [bitsAt]; omega
  simp only [e1, e2, e3]
  simp [Instr.wf, payloadOk] at hwf
  have h1 : ¬(n.val = 0 ∧ a.val ≠ 0) := by rintro ⟨h, h'⟩; rw [if_pos (Fin.ext h)] at hwf; exact h' (by rw [hwf]; rfl)
  have h2 : ¬(n.val ≠ 0 ∧ 32 < a.val + n.val) := by rintro ⟨h, h'⟩; rw [if_neg (fun e => h (by rw [e]; rfl))] at hwf; omega
  have h3 : ¬8 < n.val := by omega
  simp only [dec30, toCR_val, if_neg h1, if_neg h2, if_neg h3]
  simp

theorem RoundTrip.cont (d a h : CR) (n : Fin 9) : RoundTrip.Statement (.cont d a h n) := by
  have hd := d.isLt
  have ha := a.isLt
  have hh := h.isLt
  have hn := n.isLt
  refine RoundTrip.ofWord rfl (fmtR_range (by omega) (by omega) (by omega) (by omega) (by omega)) (fun hwf => ?_)
  rw [word_30 (by omega) (by omega) (by omega) (by omega)]
  have e1 : bitsAt (2 * 256 + n.val * 16) 0 4 = 0 := by simp only [bitsAt]; omega
  have e2 : bitsAt (2 * 256 + n.val * 16) 4 4 = n.val := by simp only [bitsAt]; omega
  have e3 : bitsAt (2 * 256 + n.val * 16) 8 2 = 2 := by simp only [bitsAt]; omega
  simp only [e1, e2, e3]
  simp [Instr.wf, payloadOk] at hwf
  have h1 : ¬(n.val = 0 ∧ a.val ≠ 0) := by rintro ⟨h, h'⟩; rw [if_pos (Fin.ext h)] at hwf; exact h' (by rw [hwf]; rfl)
  have h2 : ¬(n.val ≠ 0 ∧ 32 < a.val + n.val) := by rintro ⟨h, h'⟩; rw [if_neg (fun e => h (by rw [e]; rfl))] at hwf; omega
  have h3 : ¬8 < n.val := by omega
  simp only [dec30, toCR_val, if_neg h1, if_neg h2, if_neg h3]
  simp

theorem RoundTrip.bind (a : CR) (k : BitVec 6) : RoundTrip.Statement (.bind a k) := by
  have ha := a.isLt
  have hk := k.isLt
  refine RoundTrip.ofWord rfl (fmtI_range (by omega) (by omega) (by omega) (by omega)) (fun hwf => ?_)
  rw [word_31 (by omega) (by omega) (by omega)]
  have e1 : bitsAt k.toNat 0 6 = k.toNat := by simp only [bitsAt]; omega
  have e2 : bitsAt k.toNat 6 8 = 0 := by simp only [bitsAt]; omega
  have e3 : bitsAt k.toNat 14 1 = 0 := by simp only [bitsAt]; omega
  simp only [e1, e2, e3]
  simp [toCR_val, dec31, zero, toCR_zero]

theorem RoundTrip.unbind (k : BitVec 6) : RoundTrip.Statement (.unbind k) := by
  have hk := k.isLt
  refine RoundTrip.ofWord rfl (fmtI_range (by omega) (by omega) (by omega) (by omega)) (fun hwf => ?_)
  rw [word_31 (by omega) (by omega) (by omega)]
  have e1 : bitsAt (2 ^ 14 + k.toNat) 0 6 = k.toNat := by simp only [bitsAt]; omega
  have e2 : bitsAt (2 ^ 14 + k.toNat) 6 8 = 0 := by simp only [bitsAt]; omega
  have e3 : bitsAt (2 ^ 14 + k.toNat) 14 1 = 1 := by simp only [bitsAt]; omega
  simp only [e1, e2, e3]
  simp [dec31, zero, toCR_zero]

theorem RoundTrip.hstart (d a g : CR) : RoundTrip.Statement (.hstart d a g) := by
  have hd := d.isLt
  have ha := a.isLt
  have hg := g.isLt
  refine RoundTrip.ofWord rfl (fmtR_range (by omega) (by omega) (by omega) (by omega) (by omega)) (fun hwf => ?_)
  rw [word_32 (by omega) (by omega) (by omega) (by omega)]
  simp [Instr.wf] at hwf
  simp [toCR_val, dec32, hwf]

theorem RoundTrip.pair (d a g : CR) : RoundTrip.Statement (.pair d a g) := by
  have hd := d.isLt
  have ha := a.isLt
  have hg := g.isLt
  refine RoundTrip.ofWord rfl (fmtR_range (by omega) (by omega) (by omega) (by omega) (by omega)) (fun hwf => ?_)
  rw [word_32 (by omega) (by omega) (by omega) (by omega)]
  simp [Instr.wf] at hwf
  simp [toCR_val, dec32, hwf]

theorem RoundTrip.hwait (d a : CR) : RoundTrip.Statement (.hwait d a) := by
  have hd := d.isLt
  have ha := a.isLt
  refine RoundTrip.ofWord rfl (fmtR_range (by omega) (by omega) (by omega) (by omega) (by omega)) (fun hwf => ?_)
  rw [word_32 (by omega) (by omega) (by omega) (by omega)]
  simp [toCR_val, dec32, zero, toCR_zero]

theorem RoundTrip.hkill (a : CR) : RoundTrip.Statement (.hkill a) := by
  have ha := a.isLt
  refine RoundTrip.ofWord rfl (fmtR_range (by omega) (by omega) (by omega) (by omega) (by omega)) (fun hwf => ?_)
  rw [word_32 (by omega) (by omega) (by omega) (by omega)]
  simp [toCR_val, dec32, zero, toCR_zero]

theorem RoundTrip.wany (a : CR) : RoundTrip.Statement (.wany a) := by
  have ha := a.isLt
  refine RoundTrip.ofWord rfl (fmtR_range (by omega) (by omega) (by omega) (by omega) (by omega)) (fun hwf => ?_)
  rw [word_33 (by omega) (by omega) (by omega) (by omega)]
  simp [toCR_val, dec33, zero, toCR_zero]

theorem RoundTrip.wall (a : CR) : RoundTrip.Statement (.wall a) := by
  have ha := a.isLt
  refine RoundTrip.ofWord rfl (fmtR_range (by omega) (by omega) (by omega) (by omega) (by omega)) (fun hwf => ?_)
  rw [word_33 (by omega) (by omega) (by omega) (by omega)]
  simp [toCR_val, dec33, zero, toCR_zero]

theorem RoundTrip.ffr (d a : CR) : RoundTrip.Statement (.ffr d a) := by
  have hd := d.isLt
  have ha := a.isLt
  refine RoundTrip.ofWord rfl (fmtR_range (by omega) (by omega) (by omega) (by omega) (by omega)) (fun hwf => ?_)
  rw [word_33 (by omega) (by omega) (by omega) (by omega)]
  simp [toCR_val, dec33, zero, toCR_zero]

theorem RoundTrip.tclr (a : CR) : RoundTrip.Statement (.tclr a) := by
  have ha := a.isLt
  refine RoundTrip.ofWord rfl (fmtR_range (by omega) (by omega) (by omega) (by omega) (by omega)) (fun hwf => ?_)
  rw [word_33 (by omega) (by omega) (by omega) (by omega)]
  simp [toCR_val, dec33, zero, toCR_zero]

theorem RoundTrip.post (a : CR) : RoundTrip.Statement (.post a) := by
  have ha := a.isLt
  refine RoundTrip.ofWord rfl (fmtR_range (by omega) (by omega) (by omega) (by omega) (by omega)) (fun hwf => ?_)
  rw [word_34 (by omega) (by omega) (by omega) (by omega)]
  simp [Instr.wf] at hwf
  simp [toCR_val, dec34, zero, toCR_zero, hwf]

theorem RoundTrip.grab (d : CR) : RoundTrip.Statement (.grab d) := by
  have hd := d.isLt
  refine RoundTrip.ofWord rfl (fmtR_range (by omega) (by omega) (by omega) (by omega) (by omega)) (fun hwf => ?_)
  rw [word_34 (by omega) (by omega) (by omega) (by omega)]
  simp [Instr.wf] at hwf
  simp [toCR_val, dec34, zero, toCR_zero, hwf]

theorem RoundTrip.bar (g : BitVec 8) : RoundTrip.Statement (.bar g) := by
  have hg := g.isLt
  refine RoundTrip.ofWord rfl (fmtI_range (by omega) (by omega) (by omega) (by omega)) (fun hwf => ?_)
  rw [word_35 (by omega) (by omega) (by omega)]
  have e1 : bitsAt g.toNat 0 8 = g.toNat := by simp only [bitsAt]; omega
  have e2 : bitsAt g.toNat 8 6 = 0 := by simp only [bitsAt]; omega
  have e3 : bitsAt g.toNat 14 1 = 0 := by simp only [bitsAt]; omega
  simp only [e1, e2, e3]
  simp [dec35, zero, toCR_zero]

theorem RoundTrip.barAdd (a : CR) (g : BitVec 8) : RoundTrip.Statement (.barAdd a g) := by
  have ha := a.isLt
  have hg := g.isLt
  refine RoundTrip.ofWord rfl (fmtI_range (by omega) (by omega) (by omega) (by omega)) (fun hwf => ?_)
  rw [word_35 (by omega) (by omega) (by omega)]
  have e1 : bitsAt (2 ^ 14 + g.toNat) 0 8 = g.toNat := by simp only [bitsAt]; omega
  have e2 : bitsAt (2 ^ 14 + g.toNat) 8 6 = 0 := by simp only [bitsAt]; omega
  have e3 : bitsAt (2 ^ 14 + g.toNat) 14 1 = 1 := by simp only [bitsAt]; omega
  simp only [e1, e2, e3]
  simp [toCR_val, dec35, zero, toCR_zero]

theorem RoundTrip.vadd (d a e : VR) (p : PR) (t : ITy) : RoundTrip.Statement (.vadd d a e p t) := by
  have hd := d.isLt
  have ha := a.isLt
  have he := e.isLt
  have hp := p.isLt
  have ht := ITy.code_lt t
  refine RoundTrip.ofWord rfl (fmtV_range (by omega) (by omega) (by omega) (by omega) (by omega) (by omega) (by omega)) (fun hwf => ?_)
  rw [word_36 (by omega) (by omega) (by omega) (by omega) (by omega) (by omega)]
  simp [toVR_val, toPR_val, ITy.of_to, dec36, Nat.not_le.2 hd, Nat.not_le.2 ha, Nat.not_le.2 he]

theorem RoundTrip.vsub (d a e : VR) (p : PR) (t : ITy) : RoundTrip.Statement (.vsub d a e p t) := by
  have hd := d.isLt
  have ha := a.isLt
  have he := e.isLt
  have hp := p.isLt
  have ht := ITy.code_lt t
  refine RoundTrip.ofWord rfl (fmtV_range (by omega) (by omega) (by omega) (by omega) (by omega) (by omega) (by omega)) (fun hwf => ?_)
  rw [word_36 (by omega) (by omega) (by omega) (by omega) (by omega) (by omega)]
  simp [toVR_val, toPR_val, ITy.of_to, dec36, Nat.not_le.2 hd, Nat.not_le.2 ha, Nat.not_le.2 he]

theorem RoundTrip.vmul (d a e : VR) (p : PR) (t : ITy) : RoundTrip.Statement (.vmul d a e p t) := by
  have hd := d.isLt
  have ha := a.isLt
  have he := e.isLt
  have hp := p.isLt
  have ht := ITy.code_lt t
  refine RoundTrip.ofWord rfl (fmtV_range (by omega) (by omega) (by omega) (by omega) (by omega) (by omega) (by omega)) (fun hwf => ?_)
  rw [word_36 (by omega) (by omega) (by omega) (by omega) (by omega) (by omega)]
  simp [toVR_val, toPR_val, ITy.of_to, dec36, Nat.not_le.2 hd, Nat.not_le.2 ha, Nat.not_le.2 he]

theorem RoundTrip.vmin (d a e : VR) (p : PR) (t : ITy) : RoundTrip.Statement (.vmin d a e p t) := by
  have hd := d.isLt
  have ha := a.isLt
  have he := e.isLt
  have hp := p.isLt
  have ht := ITy.code_lt t
  refine RoundTrip.ofWord rfl (fmtV_range (by omega) (by omega) (by omega) (by omega) (by omega) (by omega) (by omega)) (fun hwf => ?_)
  rw [word_36 (by omega) (by omega) (by omega) (by omega) (by omega) (by omega)]
  simp [toVR_val, toPR_val, ITy.of_to, dec36, Nat.not_le.2 hd, Nat.not_le.2 ha, Nat.not_le.2 he]

theorem RoundTrip.vmax (d a e : VR) (p : PR) (t : ITy) : RoundTrip.Statement (.vmax d a e p t) := by
  have hd := d.isLt
  have ha := a.isLt
  have he := e.isLt
  have hp := p.isLt
  have ht := ITy.code_lt t
  refine RoundTrip.ofWord rfl (fmtV_range (by omega) (by omega) (by omega) (by omega) (by omega) (by omega) (by omega)) (fun hwf => ?_)
  rw [word_36 (by omega) (by omega) (by omega) (by omega) (by omega) (by omega)]
  simp [toVR_val, toPR_val, ITy.of_to, dec36, Nat.not_le.2 hd, Nat.not_le.2 ha, Nat.not_le.2 he]

theorem RoundTrip.vand (d a e : VR) (p : PR) (t : ITy) : RoundTrip.Statement (.vand d a e p t) := by
  have hd := d.isLt
  have ha := a.isLt
  have he := e.isLt
  have hp := p.isLt
  have ht := ITy.code_lt t
  refine RoundTrip.ofWord rfl (fmtV_range (by omega) (by omega) (by omega) (by omega) (by omega) (by omega) (by omega)) (fun hwf => ?_)
  rw [word_36 (by omega) (by omega) (by omega) (by omega) (by omega) (by omega)]
  simp [toVR_val, toPR_val, ITy.of_to, dec36, Nat.not_le.2 hd, Nat.not_le.2 ha, Nat.not_le.2 he]

theorem RoundTrip.vor (d a e : VR) (p : PR) (t : ITy) : RoundTrip.Statement (.vor d a e p t) := by
  have hd := d.isLt
  have ha := a.isLt
  have he := e.isLt
  have hp := p.isLt
  have ht := ITy.code_lt t
  refine RoundTrip.ofWord rfl (fmtV_range (by omega) (by omega) (by omega) (by omega) (by omega) (by omega) (by omega)) (fun hwf => ?_)
  rw [word_36 (by omega) (by omega) (by omega) (by omega) (by omega) (by omega)]
  simp [toVR_val, toPR_val, ITy.of_to, dec36, Nat.not_le.2 hd, Nat.not_le.2 ha, Nat.not_le.2 he]

theorem RoundTrip.vxor (d a e : VR) (p : PR) (t : ITy) : RoundTrip.Statement (.vxor d a e p t) := by
  have hd := d.isLt
  have ha := a.isLt
  have he := e.isLt
  have hp := p.isLt
  have ht := ITy.code_lt t
  refine RoundTrip.ofWord rfl (fmtV_range (by omega) (by omega) (by omega) (by omega) (by omega) (by omega) (by omega)) (fun hwf => ?_)
  rw [word_36 (by omega) (by omega) (by omega) (by omega) (by omega) (by omega)]
  simp [toVR_val, toPR_val, ITy.of_to, dec36, Nat.not_le.2 hd, Nat.not_le.2 ha, Nat.not_le.2 he]

theorem RoundTrip.vshl (d a e : VR) (p : PR) (t : ITy) : RoundTrip.Statement (.vshl d a e p t) := by
  have hd := d.isLt
  have ha := a.isLt
  have he := e.isLt
  have hp := p.isLt
  have ht := ITy.code_lt t
  refine RoundTrip.ofWord rfl (fmtV_range (by omega) (by omega) (by omega) (by omega) (by omega) (by omega) (by omega)) (fun hwf => ?_)
  rw [word_36 (by omega) (by omega) (by omega) (by omega) (by omega) (by omega)]
  simp [toVR_val, toPR_val, ITy.of_to, dec36, Nat.not_le.2 hd, Nat.not_le.2 ha, Nat.not_le.2 he]

theorem RoundTrip.vshr (d a e : VR) (p : PR) (t : ITy) : RoundTrip.Statement (.vshr d a e p t) := by
  have hd := d.isLt
  have ha := a.isLt
  have he := e.isLt
  have hp := p.isLt
  have ht := ITy.code_lt t
  refine RoundTrip.ofWord rfl (fmtV_range (by omega) (by omega) (by omega) (by omega) (by omega) (by omega) (by omega)) (fun hwf => ?_)
  rw [word_36 (by omega) (by omega) (by omega) (by omega) (by omega) (by omega)]
  simp [toVR_val, toPR_val, ITy.of_to, dec36, Nat.not_le.2 hd, Nat.not_le.2 ha, Nat.not_le.2 he]

theorem RoundTrip.vabs (d a : VR) (p : PR) (t : ITy) : RoundTrip.Statement (.vabs d a p t) := by
  have hd := d.isLt
  have ha := a.isLt
  have hp := p.isLt
  have ht := ITy.code_lt t
  refine RoundTrip.ofWord rfl (fmtV_range (by omega) (by omega) (by omega) (by omega) (by omega) (by omega) (by omega)) (fun hwf => ?_)
  rw [word_36 (by omega) (by omega) (by omega) (by omega) (by omega) (by omega)]
  simp [Instr.wf] at hwf
  simp [toVR_val, toPR_val, ITy.of_to, dec36, zero, toVR_zero, Nat.not_le.2 hd, Nat.not_le.2 ha, hwf]

theorem RoundTrip.vneg (d a : VR) (p : PR) (t : ITy) : RoundTrip.Statement (.vneg d a p t) := by
  have hd := d.isLt
  have ha := a.isLt
  have hp := p.isLt
  have ht := ITy.code_lt t
  refine RoundTrip.ofWord rfl (fmtV_range (by omega) (by omega) (by omega) (by omega) (by omega) (by omega) (by omega)) (fun hwf => ?_)
  rw [word_36 (by omega) (by omega) (by omega) (by omega) (by omega) (by omega)]
  simp [Instr.wf] at hwf
  simp [toVR_val, toPR_val, ITy.of_to, dec36, zero, toVR_zero, Nat.not_le.2 hd, Nat.not_le.2 ha, hwf]

theorem RoundTrip.vadds (d a e : VR) (p : PR) (t : ITy) : RoundTrip.Statement (.vadds d a e p t) := by
  have hd := d.isLt
  have ha := a.isLt
  have he := e.isLt
  have hp := p.isLt
  have ht := ITy.code_lt t
  refine RoundTrip.ofWord rfl (fmtV_range (by omega) (by omega) (by omega) (by omega) (by omega) (by omega) (by omega)) (fun hwf => ?_)
  rw [word_36 (by omega) (by omega) (by omega) (by omega) (by omega) (by omega)]
  simp [toVR_val, toPR_val, ITy.of_to, dec36, Nat.not_le.2 hd, Nat.not_le.2 ha, Nat.not_le.2 he]

theorem RoundTrip.vsubs (d a e : VR) (p : PR) (t : ITy) : RoundTrip.Statement (.vsubs d a e p t) := by
  have hd := d.isLt
  have ha := a.isLt
  have he := e.isLt
  have hp := p.isLt
  have ht := ITy.code_lt t
  refine RoundTrip.ofWord rfl (fmtV_range (by omega) (by omega) (by omega) (by omega) (by omega) (by omega) (by omega)) (fun hwf => ?_)
  rw [word_36 (by omega) (by omega) (by omega) (by omega) (by omega) (by omega)]
  simp [toVR_val, toPR_val, ITy.of_to, dec36, Nat.not_le.2 hd, Nat.not_le.2 ha, Nat.not_le.2 he]

theorem RoundTrip.vmulh (d a e : VR) (p : PR) (t : ITy) : RoundTrip.Statement (.vmulh d a e p t) := by
  have hd := d.isLt
  have ha := a.isLt
  have he := e.isLt
  have hp := p.isLt
  have ht := ITy.code_lt t
  refine RoundTrip.ofWord rfl (fmtV_range (by omega) (by omega) (by omega) (by omega) (by omega) (by omega) (by omega)) (fun hwf => ?_)
  rw [word_36 (by omega) (by omega) (by omega) (by omega) (by omega) (by omega)]
  simp [toVR_val, toPR_val, ITy.of_to, dec36, Nat.not_le.2 hd, Nat.not_le.2 ha, Nat.not_le.2 he]

theorem RoundTrip.vavg (d a e : VR) (p : PR) (t : ITy) : RoundTrip.Statement (.vavg d a e p t) := by
  have hd := d.isLt
  have ha := a.isLt
  have he := e.isLt
  have hp := p.isLt
  have ht := ITy.code_lt t
  refine RoundTrip.ofWord rfl (fmtV_range (by omega) (by omega) (by omega) (by omega) (by omega) (by omega) (by omega)) (fun hwf => ?_)
  rw [word_36 (by omega) (by omega) (by omega) (by omega) (by omega) (by omega)]
  simp [toVR_val, toPR_val, ITy.of_to, dec36, Nat.not_le.2 hd, Nat.not_le.2 ha, Nat.not_le.2 he]

theorem RoundTrip.vfadd (d a e : VR) (p : PR) (t : FTy) : RoundTrip.Statement (.vfadd d a e p t) := by
  have hd := d.isLt
  have ha := a.isLt
  have he := e.isLt
  have hp := p.isLt
  have ht := FTy.code_lt t
  refine RoundTrip.ofWord rfl (fmtV_range (by omega) (by omega) (by omega) (by omega) (by omega) (by omega) (by omega)) (fun hwf => ?_)
  rw [word_37 (by omega) (by omega) (by omega) (by omega) (by omega) (by omega)]
  simp [toVR_val, toPR_val, FTy.of_to, dec37, Nat.not_le.2 hd, Nat.not_le.2 ha, Nat.not_le.2 he]

theorem RoundTrip.vfsub (d a e : VR) (p : PR) (t : FTy) : RoundTrip.Statement (.vfsub d a e p t) := by
  have hd := d.isLt
  have ha := a.isLt
  have he := e.isLt
  have hp := p.isLt
  have ht := FTy.code_lt t
  refine RoundTrip.ofWord rfl (fmtV_range (by omega) (by omega) (by omega) (by omega) (by omega) (by omega) (by omega)) (fun hwf => ?_)
  rw [word_37 (by omega) (by omega) (by omega) (by omega) (by omega) (by omega)]
  simp [toVR_val, toPR_val, FTy.of_to, dec37, Nat.not_le.2 hd, Nat.not_le.2 ha, Nat.not_le.2 he]

theorem RoundTrip.vfmul (d a e : VR) (p : PR) (t : FTy) : RoundTrip.Statement (.vfmul d a e p t) := by
  have hd := d.isLt
  have ha := a.isLt
  have he := e.isLt
  have hp := p.isLt
  have ht := FTy.code_lt t
  refine RoundTrip.ofWord rfl (fmtV_range (by omega) (by omega) (by omega) (by omega) (by omega) (by omega) (by omega)) (fun hwf => ?_)
  rw [word_37 (by omega) (by omega) (by omega) (by omega) (by omega) (by omega)]
  simp [toVR_val, toPR_val, FTy.of_to, dec37, Nat.not_le.2 hd, Nat.not_le.2 ha, Nat.not_le.2 he]

theorem RoundTrip.vfdiv (d a e : VR) (p : PR) (t : FTy) : RoundTrip.Statement (.vfdiv d a e p t) := by
  have hd := d.isLt
  have ha := a.isLt
  have he := e.isLt
  have hp := p.isLt
  have ht := FTy.code_lt t
  refine RoundTrip.ofWord rfl (fmtV_range (by omega) (by omega) (by omega) (by omega) (by omega) (by omega) (by omega)) (fun hwf => ?_)
  rw [word_37 (by omega) (by omega) (by omega) (by omega) (by omega) (by omega)]
  simp [toVR_val, toPR_val, FTy.of_to, dec37, Nat.not_le.2 hd, Nat.not_le.2 ha, Nat.not_le.2 he]

theorem RoundTrip.vfma (d a e : VR) (p : PR) (t : FTy) : RoundTrip.Statement (.vfma d a e p t) := by
  have hd := d.isLt
  have ha := a.isLt
  have he := e.isLt
  have hp := p.isLt
  have ht := FTy.code_lt t
  refine RoundTrip.ofWord rfl (fmtV_range (by omega) (by omega) (by omega) (by omega) (by omega) (by omega) (by omega)) (fun hwf => ?_)
  rw [word_37 (by omega) (by omega) (by omega) (by omega) (by omega) (by omega)]
  simp [toVR_val, toPR_val, FTy.of_to, dec37, Nat.not_le.2 hd, Nat.not_le.2 ha, Nat.not_le.2 he]

theorem RoundTrip.vfmin (d a e : VR) (p : PR) (t : FTy) : RoundTrip.Statement (.vfmin d a e p t) := by
  have hd := d.isLt
  have ha := a.isLt
  have he := e.isLt
  have hp := p.isLt
  have ht := FTy.code_lt t
  refine RoundTrip.ofWord rfl (fmtV_range (by omega) (by omega) (by omega) (by omega) (by omega) (by omega) (by omega)) (fun hwf => ?_)
  rw [word_37 (by omega) (by omega) (by omega) (by omega) (by omega) (by omega)]
  simp [toVR_val, toPR_val, FTy.of_to, dec37, Nat.not_le.2 hd, Nat.not_le.2 ha, Nat.not_le.2 he]

theorem RoundTrip.vfmax (d a e : VR) (p : PR) (t : FTy) : RoundTrip.Statement (.vfmax d a e p t) := by
  have hd := d.isLt
  have ha := a.isLt
  have he := e.isLt
  have hp := p.isLt
  have ht := FTy.code_lt t
  refine RoundTrip.ofWord rfl (fmtV_range (by omega) (by omega) (by omega) (by omega) (by omega) (by omega) (by omega)) (fun hwf => ?_)
  rw [word_37 (by omega) (by omega) (by omega) (by omega) (by omega) (by omega)]
  simp [toVR_val, toPR_val, FTy.of_to, dec37, Nat.not_le.2 hd, Nat.not_le.2 ha, Nat.not_le.2 he]

theorem RoundTrip.vfabs (d a : VR) (p : PR) (t : FTy) : RoundTrip.Statement (.vfabs d a p t) := by
  have hd := d.isLt
  have ha := a.isLt
  have hp := p.isLt
  have ht := FTy.code_lt t
  refine RoundTrip.ofWord rfl (fmtV_range (by omega) (by omega) (by omega) (by omega) (by omega) (by omega) (by omega)) (fun hwf => ?_)
  rw [word_37 (by omega) (by omega) (by omega) (by omega) (by omega) (by omega)]
  simp [toVR_val, toPR_val, FTy.of_to, dec37, zero, toVR_zero, Nat.not_le.2 hd, Nat.not_le.2 ha]

theorem RoundTrip.vfneg (d a : VR) (p : PR) (t : FTy) : RoundTrip.Statement (.vfneg d a p t) := by
  have hd := d.isLt
  have ha := a.isLt
  have hp := p.isLt
  have ht := FTy.code_lt t
  refine RoundTrip.ofWord rfl (fmtV_range (by omega) (by omega) (by omega) (by omega) (by omega) (by omega) (by omega)) (fun hwf => ?_)
  rw [word_37 (by omega) (by omega) (by omega) (by omega) (by omega) (by omega)]
  simp [toVR_val, toPR_val, FTy.of_to, dec37, zero, toVR_zero, Nat.not_le.2 hd, Nat.not_le.2 ha]

theorem RoundTrip.vfsqrt (d a : VR) (p : PR) (t : FTy) : RoundTrip.Statement (.vfsqrt d a p t) := by
  have hd := d.isLt
  have ha := a.isLt
  have hp := p.isLt
  have ht := FTy.code_lt t
  refine RoundTrip.ofWord rfl (fmtV_range (by omega) (by omega) (by omega) (by omega) (by omega) (by omega) (by omega)) (fun hwf => ?_)
  rw [word_37 (by omega) (by omega) (by omega) (by omega) (by omega) (by omega)]
  simp [toVR_val, toPR_val, FTy.of_to, dec37, zero, toVR_zero, Nat.not_le.2 hd, Nat.not_le.2 ha]

theorem RoundTrip.vcmp (d : PR) (a e : VR) (p : PR) (t : ITy) (r : VRel) : RoundTrip.Statement (.vcmp d a e p t r) := by
  have hd := d.isLt
  have ha := a.isLt
  have he := e.isLt
  have hp := p.isLt
  have ht := ITy.code_lt t
  have hr := VRel.code_lt r
  refine RoundTrip.ofWord rfl (fmtV_range (by omega) (by omega) (by omega) (by omega) (by omega) (by omega) (by omega)) (fun hwf => ?_)
  rw [word_38 (by omega) (by omega) (by omega) (by omega) (by omega) (by omega)]
  simp [Instr.wf] at hwf
  cases t <;> cases r <;> simp_all [dec38, toVR_val, toPR_val, need, ITy.ofCode, ITy.toCode, VRel.toCode, VRel.ofCode, ITy.nibble, Option.filter, Nat.not_le.2 ha, Nat.not_le.2 hd, Nat.not_le.2 he]

theorem RoundTrip.vfcmp (d : PR) (a e : VR) (p : PR) (t : FTy) (r : VRel) : RoundTrip.Statement (.vfcmp d a e p t r) := by
  have hd := d.isLt
  have ha := a.isLt
  have he := e.isLt
  have hp := p.isLt
  have ht := FTy.code_lt t
  have hr := VRel.code_lt r
  refine RoundTrip.ofWord rfl (fmtV_range (by omega) (by omega) (by omega) (by omega) (by omega) (by omega) (by omega)) (fun hwf => ?_)
  rw [word_38 (by omega) (by omega) (by omega) (by omega) (by omega) (by omega)]
  cases t <;> cases r <;> simp_all [toPR_val, toVR_val, dec38, need, Nat.not_le.2 hd, Nat.not_le.2 ha, Nat.not_le.2 he, FTy.toCode, FTy.ofCode, VRel.toCode, VRel.ofCode]

theorem RoundTrip.vsel (d a e : VR) (p : PR) (t : ITy) : RoundTrip.Statement (.vsel d a e p t) := by
  have hd := d.isLt
  have ha := a.isLt
  have he := e.isLt
  have hp := p.isLt
  have ht := ITy.code_lt t
  refine RoundTrip.ofWord rfl (fmtV_range (by omega) (by omega) (by omega) (by omega) (by omega) (by omega) (by omega)) (fun hwf => ?_)
  rw [word_38 (by omega) (by omega) (by omega) (by omega) (by omega) (by omega)]
  simp [toVR_val, toPR_val, ITy.of_to, dec38, need, Nat.not_le.2 hd, Nat.not_le.2 ha, Nat.not_le.2 he]

theorem RoundTrip.pand (d a e : PR) : RoundTrip.Statement (.pand d a e) := by
  have hd := d.isLt
  have ha := a.isLt
  have he := e.isLt
  refine RoundTrip.ofWord rfl (fmtV_range (by omega) (by omega) (by omega) (by omega) (by omega) (by omega) (by omega)) (fun hwf => ?_)
  rw [word_38 (by omega) (by omega) (by omega) (by omega) (by omega) (by omega)]
  simp [toPR_val, dec38, zero, Nat.not_le.2 hd, Nat.not_le.2 ha, Nat.not_le.2 he]

theorem RoundTrip.por (d a e : PR) : RoundTrip.Statement (.por d a e) := by
  have hd := d.isLt
  have ha := a.isLt
  have he := e.isLt
  refine RoundTrip.ofWord rfl (fmtV_range (by omega) (by omega) (by omega) (by omega) (by omega) (by omega) (by omega)) (fun hwf => ?_)
  rw [word_38 (by omega) (by omega) (by omega) (by omega) (by omega) (by omega)]
  simp [toPR_val, dec38, zero, Nat.not_le.2 hd, Nat.not_le.2 ha, Nat.not_le.2 he]

theorem RoundTrip.pxor (d a e : PR) : RoundTrip.Statement (.pxor d a e) := by
  have hd := d.isLt
  have ha := a.isLt
  have he := e.isLt
  refine RoundTrip.ofWord rfl (fmtV_range (by omega) (by omega) (by omega) (by omega) (by omega) (by omega) (by omega)) (fun hwf => ?_)
  rw [word_38 (by omega) (by omega) (by omega) (by omega) (by omega) (by omega)]
  simp [toPR_val, dec38, zero, Nat.not_le.2 hd, Nat.not_le.2 ha, Nat.not_le.2 he]

theorem RoundTrip.vperm (d a e : VR) (p : PR) (t : ITy) : RoundTrip.Statement (.vperm d a e p t) := by
  have hd := d.isLt
  have ha := a.isLt
  have he := e.isLt
  have hp := p.isLt
  have ht := ITy.code_lt t
  refine RoundTrip.ofWord rfl (fmtV_range (by omega) (by omega) (by omega) (by omega) (by omega) (by omega) (by omega)) (fun hwf => ?_)
  rw [word_39 (by omega) (by omega) (by omega) (by omega) (by omega) (by omega)]
  simp [toVR_val, toPR_val, ITy.of_to, dec39, need, Nat.not_le.2 hd, Nat.not_le.2 ha, Nat.not_le.2 he]

theorem RoundTrip.vbcast (d : VR) (a : CR) (p : PR) (t : ITy) : RoundTrip.Statement (.vbcast d a p t) := by
  have hd := d.isLt
  have ha := a.isLt
  have hp := p.isLt
  have ht := ITy.code_lt t
  refine RoundTrip.ofWord rfl (fmtV_range (by omega) (by omega) (by omega) (by omega) (by omega) (by omega) (by omega)) (fun hwf => ?_)
  rw [word_39 (by omega) (by omega) (by omega) (by omega) (by omega) (by omega)]
  simp [toVR_val, toCR_val, toPR_val, ITy.of_to, dec39, need, Nat.not_le.2 hd]

theorem RoundTrip.vins (d : VR) (a e : CR) (p : PR) (t : ITy) : RoundTrip.Statement (.vins d a e p t) := by
  have hd := d.isLt
  have ha := a.isLt
  have he := e.isLt
  have hp := p.isLt
  have ht := ITy.code_lt t
  refine RoundTrip.ofWord rfl (fmtV_range (by omega) (by omega) (by omega) (by omega) (by omega) (by omega) (by omega)) (fun hwf => ?_)
  rw [word_39 (by omega) (by omega) (by omega) (by omega) (by omega) (by omega)]
  simp [toVR_val, toCR_val, toPR_val, ITy.of_to, dec39, need, Nat.not_le.2 hd]

theorem RoundTrip.vext (d : CR) (a : VR) (e : CR) (t : ITy) : RoundTrip.Statement (.vext d a e t) := by
  have hd := d.isLt
  have ha := a.isLt
  have he := e.isLt
  have ht := ITy.code_lt t
  refine RoundTrip.ofWord rfl (fmtV_range (by omega) (by omega) (by omega) (by omega) (by omega) (by omega) (by omega)) (fun hwf => ?_)
  rw [word_39 (by omega) (by omega) (by omega) (by omega) (by omega) (by omega)]
  simp [toCR_val, toVR_val, ITy.of_to, dec39, need, Nat.not_le.2 ha]

theorem RoundTrip.vredadd (d : CR) (a : VR) (p : PR) (t : ITy) : RoundTrip.Statement (.vredadd d a p t) := by
  have hd := d.isLt
  have ha := a.isLt
  have hp := p.isLt
  have ht := ITy.code_lt t
  refine RoundTrip.ofWord rfl (fmtV_range (by omega) (by omega) (by omega) (by omega) (by omega) (by omega) (by omega)) (fun hwf => ?_)
  rw [word_39 (by omega) (by omega) (by omega) (by omega) (by omega) (by omega)]
  simp [toCR_val, toVR_val, toPR_val, ITy.of_to, dec39, need, Nat.not_le.2 ha]

theorem RoundTrip.vredmin (d : CR) (a : VR) (p : PR) (t : ITy) : RoundTrip.Statement (.vredmin d a p t) := by
  have hd := d.isLt
  have ha := a.isLt
  have hp := p.isLt
  have ht := ITy.code_lt t
  refine RoundTrip.ofWord rfl (fmtV_range (by omega) (by omega) (by omega) (by omega) (by omega) (by omega) (by omega)) (fun hwf => ?_)
  rw [word_39 (by omega) (by omega) (by omega) (by omega) (by omega) (by omega)]
  simp [toCR_val, toVR_val, toPR_val, ITy.of_to, dec39, need, Nat.not_le.2 ha]

theorem RoundTrip.vredmax (d : CR) (a : VR) (p : PR) (t : ITy) : RoundTrip.Statement (.vredmax d a p t) := by
  have hd := d.isLt
  have ha := a.isLt
  have hp := p.isLt
  have ht := ITy.code_lt t
  refine RoundTrip.ofWord rfl (fmtV_range (by omega) (by omega) (by omega) (by omega) (by omega) (by omega) (by omega)) (fun hwf => ?_)
  rw [word_39 (by omega) (by omega) (by omega) (by omega) (by omega) (by omega)]
  simp [toCR_val, toVR_val, toPR_val, ITy.of_to, dec39, need, Nat.not_le.2 ha]

theorem RoundTrip.vfredadd (d : CR) (a : VR) (p : PR) (t : FTy) : RoundTrip.Statement (.vfredadd d a p t) := by
  have hd := d.isLt
  have ha := a.isLt
  have hp := p.isLt
  have ht := FTy.code_lt t
  refine RoundTrip.ofWord rfl (fmtV_range (by omega) (by omega) (by omega) (by omega) (by omega) (by omega) (by omega)) (fun hwf => ?_)
  rw [word_39 (by omega) (by omega) (by omega) (by omega) (by omega) (by omega)]
  simp [toCR_val, toVR_val, toPR_val, FTy.of_to, dec39, need, Nat.not_le.2 ha]

theorem RoundTrip.vfredmin (d : CR) (a : VR) (p : PR) (t : FTy) : RoundTrip.Statement (.vfredmin d a p t) := by
  have hd := d.isLt
  have ha := a.isLt
  have hp := p.isLt
  have ht := FTy.code_lt t
  refine RoundTrip.ofWord rfl (fmtV_range (by omega) (by omega) (by omega) (by omega) (by omega) (by omega) (by omega)) (fun hwf => ?_)
  rw [word_39 (by omega) (by omega) (by omega) (by omega) (by omega) (by omega)]
  simp [toCR_val, toVR_val, toPR_val, FTy.of_to, dec39, need, Nat.not_le.2 ha]

theorem RoundTrip.vfredmax (d : CR) (a : VR) (p : PR) (t : FTy) : RoundTrip.Statement (.vfredmax d a p t) := by
  have hd := d.isLt
  have ha := a.isLt
  have hp := p.isLt
  have ht := FTy.code_lt t
  refine RoundTrip.ofWord rfl (fmtV_range (by omega) (by omega) (by omega) (by omega) (by omega) (by omega) (by omega)) (fun hwf => ?_)
  rw [word_39 (by omega) (by omega) (by omega) (by omega) (by omega) (by omega)]
  simp [toCR_val, toVR_val, toPR_val, FTy.of_to, dec39, need, Nat.not_le.2 ha]

theorem RoundTrip.vcvt (d a : VR) (t f : Fmt) : RoundTrip.Statement (.vcvt d a t f) := by
  have hd := d.isLt
  have ha := a.isLt
  have ht := Fmt.code_lt t
  have hf := Fmt.code_lt f
  refine RoundTrip.ofWord rfl (fmtR_range (by omega) (by omega) (by omega) (by omega) (by omega)) (fun hwf => ?_)
  rw [word_3A (by omega) (by omega) (by omega) (by omega)]
  have e1 : bitsAt (f.toCode * 32 + 0) 4 1 = 0 := by simp only [bitsAt]; omega
  have e2 : bitsAt (f.toCode * 32 + 0) 5 5 = f.toCode := by simp only [bitsAt]; omega
  simp only [e1, e2]
  have e0 : bitsAt (f.toCode * 32) 0 4 = 0 := by simp only [bitsAt]; omega
  simp [dec3A, e0, Fmt.of_to, toVR_val, Nat.not_le.2 hd, Nat.not_le.2 ha, hwf]

theorem RoundTrip.vmxq (d a : VR) (t f : Fmt) : RoundTrip.Statement (.vmxq d a t f) := by
  have hd := d.isLt
  have ha := a.isLt
  have ht := Fmt.code_lt t
  have hf := Fmt.code_lt f
  refine RoundTrip.ofWord rfl (fmtR_range (by omega) (by omega) (by omega) (by omega) (by omega)) (fun hwf => ?_)
  rw [word_3A (by omega) (by omega) (by omega) (by omega)]
  have e1 : bitsAt (f.toCode * 32 + 1) 4 1 = 0 := by simp only [bitsAt]; omega
  have e2 : bitsAt (f.toCode * 32 + 1) 5 5 = f.toCode := by simp only [bitsAt]; omega
  simp only [e1, e2]
  have e0 : bitsAt (f.toCode * 32 + 1) 0 4 = 1 := by simp only [bitsAt]; omega
  simp [dec3A, e0, Fmt.of_to, toVR_val, Nat.not_le.2 hd, Nat.not_le.2 ha, hwf]

theorem RoundTrip.vmxd (d a : VR) (t f : Fmt) : RoundTrip.Statement (.vmxd d a t f) := by
  have hd := d.isLt
  have ha := a.isLt
  have ht := Fmt.code_lt t
  have hf := Fmt.code_lt f
  refine RoundTrip.ofWord rfl (fmtR_range (by omega) (by omega) (by omega) (by omega) (by omega)) (fun hwf => ?_)
  rw [word_3A (by omega) (by omega) (by omega) (by omega)]
  have e1 : bitsAt (f.toCode * 32 + 2) 4 1 = 0 := by simp only [bitsAt]; omega
  have e2 : bitsAt (f.toCode * 32 + 2) 5 5 = f.toCode := by simp only [bitsAt]; omega
  simp only [e1, e2]
  have e0 : bitsAt (f.toCode * 32 + 2) 0 4 = 2 := by simp only [bitsAt]; omega
  simp [dec3A, e0, Fmt.of_to, toVR_val, Nat.not_le.2 hd, Nat.not_le.2 ha, hwf]

theorem RoundTrip.vld (d : VR) (a : CR) (p : PR) (off : BitVec 9) : RoundTrip.Statement (.vld d a p off) := by
  have hd := d.isLt
  have ha := a.isLt
  have hp := p.isLt
  have hoff := off.isLt
  refine RoundTrip.ofWord rfl (fmtM_range (by omega) (by omega) (by omega) (by omega) (by omega)) (fun hwf => ?_)
  rw [word_3B (by omega) (by omega) (by omega) (by omega)]
  have e1 : bitsAt (p.val * 512 + off.toNat) 0 9 = off.toNat := by simp only [bitsAt]; omega
  have e2 : bitsAt (p.val * 512 + off.toNat) 9 3 = p.val := by simp only [bitsAt]; omega
  simp [toVR_val, toCR_val, toPR_val, dec3B, Nat.not_le.2 hd, e1, e2]

theorem RoundTrip.vst (d : VR) (a : CR) (p : PR) (off : BitVec 9) : RoundTrip.Statement (.vst d a p off) := by
  have hd := d.isLt
  have ha := a.isLt
  have hp := p.isLt
  have hoff := off.isLt
  refine RoundTrip.ofWord rfl (fmtM_range (by omega) (by omega) (by omega) (by omega) (by omega)) (fun hwf => ?_)
  rw [word_3B (by omega) (by omega) (by omega) (by omega)]
  have e1 : bitsAt (p.val * 512 + off.toNat) 0 9 = off.toNat := by simp only [bitsAt]; omega
  have e2 : bitsAt (p.val * 512 + off.toNat) 9 3 = p.val := by simp only [bitsAt]; omega
  simp [toVR_val, toCR_val, toPR_val, dec3B, Nat.not_le.2 hd, e1, e2]

theorem RoundTrip.vgather (d : VR) (a : CR) (vi : VR) (p : PR) (w : Fin 4) : RoundTrip.Statement (.vgather d a vi p w) := by
  have hd := d.isLt
  have ha := a.isLt
  have hvi := vi.isLt
  have hp := p.isLt
  have hw := w.isLt
  refine RoundTrip.ofWord rfl (fmtM_range (by omega) (by omega) (by omega) (by omega) (by omega)) (fun hwf => ?_)
  rw [word_3B (by omega) (by omega) (by omega) (by omega)]
  have e1 : bitsAt (vi.val * 256 + p.val * 32 + w.val * 4) 0 2 = 0 := by simp only [bitsAt]; omega
  have e2 : bitsAt (vi.val * 256 + p.val * 32 + w.val * 4) 2 3 = w.val := by simp only [bitsAt]; omega
  have e3 : bitsAt (vi.val * 256 + p.val * 32 + w.val * 4) 5 3 = p.val := by simp only [bitsAt]; omega
  have e4 : bitsAt (vi.val * 256 + p.val * 32 + w.val * 4) 8 4 = vi.val := by simp only [bitsAt]; omega
  simp [toVR_val, toCR_val, toPR_val, dec3B, Nat.not_le.2 hd, Nat.not_lt.2 (Nat.le_of_lt_succ hw), e1, e2, e3, e4]

theorem RoundTrip.vscatter (d : VR) (a : CR) (vi : VR) (p : PR) (w : Fin 4) : RoundTrip.Statement (.vscatter d a vi p w) := by
  have hd := d.isLt
  have ha := a.isLt
  have hvi := vi.isLt
  have hp := p.isLt
  have hw := w.isLt
  refine RoundTrip.ofWord rfl (fmtM_range (by omega) (by omega) (by omega) (by omega) (by omega)) (fun hwf => ?_)
  rw [word_3B (by omega) (by omega) (by omega) (by omega)]
  have e1 : bitsAt (vi.val * 256 + p.val * 32 + w.val * 4) 0 2 = 0 := by simp only [bitsAt]; omega
  have e2 : bitsAt (vi.val * 256 + p.val * 32 + w.val * 4) 2 3 = w.val := by simp only [bitsAt]; omega
  have e3 : bitsAt (vi.val * 256 + p.val * 32 + w.val * 4) 5 3 = p.val := by simp only [bitsAt]; omega
  have e4 : bitsAt (vi.val * 256 + p.val * 32 + w.val * 4) 8 4 = vi.val := by simp only [bitsAt]; omega
  simp [toVR_val, toCR_val, toPR_val, dec3B, Nat.not_le.2 hd, Nat.not_lt.2 (Nat.le_of_lt_succ hw), e1, e2, e3, e4]

theorem RoundTrip.vloop (c : CR) (nm1 stag : BitVec 4) (icnt : BitVec 12) : RoundTrip.Statement (.vloop c nm1 stag icnt) := by
  have hc := c.isLt
  have hnm1 := nm1.isLt
  have hstag := stag.isLt
  have hicnt := icnt.isLt
  refine RoundTrip.ofWord rfl (by omega) (fun hwf => ?_)
  rw [show 2 ^ 31 + 0x3C * 2 ^ 25 + c.val * 2 ^ 20 + nm1.toNat * 2 ^ 16 + stag.toNat * 2 ^ 12 + icnt.toNat = ((((64 + 0x3C) * 2 ^ 5 + c.val) * 2 ^ 4 + nm1.toNat) * 2 ^ 4 + stag.toNat) * 2 ^ 12 + icnt.toNat by omega, word_3C (by omega) (by omega) (by omega) (by omega)]
  simp [Instr.wf] at hwf
  rcases hwf with rfl | rfl <;> simp [toCR_val, dec3C, toCR_zero]

theorem RoundTrip.tld (d a n : CR) (q : QR) (qm : Bool) : RoundTrip.Statement (.tld d a n q qm) := by
  have hd := d.isLt
  have ha := a.isLt
  have hn := n.isLt
  have hq := q.isLt
  have hqm := Bool.toNat_lt qm
  refine RoundTrip.ofWord rfl (fmtR_range (by omega) (by omega) (by omega) (by omega) (by omega)) (fun hwf => ?_)
  rw [word_3D (by omega) (by omega) (by omega) (by omega)]
  have e1 : bitsAt (0 * 128 + q.val * 16 + qm.toNat * 8) 0 3 = 0 := by simp only [bitsAt]; omega
  have e2 : bitsAt (0 * 128 + q.val * 16 + qm.toNat * 8) 3 1 = qm.toNat := by simp only [bitsAt]; omega
  have e3 : bitsAt (0 * 128 + q.val * 16 + qm.toNat * 8) 4 3 = q.val := by simp only [bitsAt]; omega
  have e4 : bitsAt (0 * 128 + q.val * 16 + qm.toNat * 8) 7 3 = 0 := by simp only [bitsAt]; omega
  simp only [e1, e2, e3, e4]
  simp [Instr.wf] at hwf
  cases qm <;> simp_all [toCR_val, toQR_val, dec3D, zero, toCR_zero, toQR_zero]

theorem RoundTrip.tst (d a n : CR) (q : QR) (qm : Bool) : RoundTrip.Statement (.tst d a n q qm) := by
  have hd := d.isLt
  have ha := a.isLt
  have hn := n.isLt
  have hq := q.isLt
  have hqm := Bool.toNat_lt qm
  refine RoundTrip.ofWord rfl (fmtR_range (by omega) (by omega) (by omega) (by omega) (by omega)) (fun hwf => ?_)
  rw [word_3D (by omega) (by omega) (by omega) (by omega)]
  have e1 : bitsAt (1 * 128 + q.val * 16 + qm.toNat * 8) 0 3 = 0 := by simp only [bitsAt]; omega
  have e2 : bitsAt (1 * 128 + q.val * 16 + qm.toNat * 8) 3 1 = qm.toNat := by simp only [bitsAt]; omega
  have e3 : bitsAt (1 * 128 + q.val * 16 + qm.toNat * 8) 4 3 = q.val := by simp only [bitsAt]; omega
  have e4 : bitsAt (1 * 128 + q.val * 16 + qm.toNat * 8) 7 3 = 1 := by simp only [bitsAt]; omega
  simp only [e1, e2, e3, e4]
  simp [Instr.wf] at hwf
  cases qm <;> simp_all [toCR_val, toQR_val, dec3D, zero, toCR_zero, toQR_zero]

theorem RoundTrip.tqDef (a n : CR) (q : QR) : RoundTrip.Statement (.tqDef a n q) := by
  have ha := a.isLt
  have hn := n.isLt
  have hq := q.isLt
  refine RoundTrip.ofWord rfl (fmtR_range (by omega) (by omega) (by omega) (by omega) (by omega)) (fun hwf => ?_)
  rw [word_3D (by omega) (by omega) (by omega) (by omega)]
  have e1 : bitsAt (2 * 128 + q.val * 16) 0 3 = 0 := by simp only [bitsAt]; omega
  have e2 : bitsAt (2 * 128 + q.val * 16) 3 1 = 0 := by simp only [bitsAt]; omega
  have e3 : bitsAt (2 * 128 + q.val * 16) 4 3 = q.val := by simp only [bitsAt]; omega
  have e4 : bitsAt (2 * 128 + q.val * 16) 7 3 = 2 := by simp only [bitsAt]; omega
  simp only [e1, e2, e3, e4]
  simp [toCR_val, toQR_val, dec3D, zero, toCR_zero]

theorem RoundTrip.tqAdv (n : CR) (q : QR) : RoundTrip.Statement (.tqAdv n q) := by
  have hn := n.isLt
  have hq := q.isLt
  refine RoundTrip.ofWord rfl (fmtR_range (by omega) (by omega) (by omega) (by omega) (by omega)) (fun hwf => ?_)
  rw [word_3D (by omega) (by omega) (by omega) (by omega)]
  have e1 : bitsAt (3 * 128 + q.val * 16) 0 3 = 0 := by simp only [bitsAt]; omega
  have e2 : bitsAt (3 * 128 + q.val * 16) 3 1 = 0 := by simp only [bitsAt]; omega
  have e3 : bitsAt (3 * 128 + q.val * 16) 4 3 = q.val := by simp only [bitsAt]; omega
  have e4 : bitsAt (3 * 128 + q.val * 16) 7 3 = 3 := by simp only [bitsAt]; omega
  simp only [e1, e2, e3, e4]
  simp [toCR_val, toQR_val, dec3D, zero, toCR_zero]

theorem RoundTrip.tqRel (n : CR) (q : QR) : RoundTrip.Statement (.tqRel n q) := by
  have hn := n.isLt
  have hq := q.isLt
  refine RoundTrip.ofWord rfl (fmtR_range (by omega) (by omega) (by omega) (by omega) (by omega)) (fun hwf => ?_)
  rw [word_3D (by omega) (by omega) (by omega) (by omega)]
  have e1 : bitsAt (4 * 128 + q.val * 16) 0 3 = 0 := by simp only [bitsAt]; omega
  have e2 : bitsAt (4 * 128 + q.val * 16) 3 1 = 0 := by simp only [bitsAt]; omega
  have e3 : bitsAt (4 * 128 + q.val * 16) 4 3 = q.val := by simp only [bitsAt]; omega
  have e4 : bitsAt (4 * 128 + q.val * 16) 7 3 = 4 := by simp only [bitsAt]; omega
  simp only [e1, e2, e3, e4]
  simp [toCR_val, toQR_val, dec3D, zero, toCR_zero]

theorem RoundTrip.tqWait (n : CR) (q : QR) : RoundTrip.Statement (.tqWait n q) := by
  have hn := n.isLt
  have hq := q.isLt
  refine RoundTrip.ofWord rfl (fmtR_range (by omega) (by omega) (by omega) (by omega) (by omega)) (fun hwf => ?_)
  rw [word_3D (by omega) (by omega) (by omega) (by omega)]
  have e1 : bitsAt (5 * 128 + q.val * 16) 0 3 = 0 := by simp only [bitsAt]; omega
  have e2 : bitsAt (5 * 128 + q.val * 16) 3 1 = 0 := by simp only [bitsAt]; omega
  have e3 : bitsAt (5 * 128 + q.val * 16) 4 3 = q.val := by simp only [bitsAt]; omega
  have e4 : bitsAt (5 * 128 + q.val * 16) 7 3 = 5 := by simp only [bitsAt]; omega
  simp only [e1, e2, e3, e4]
  simp [toCR_val, toQR_val, dec3D, zero, toCR_zero]

theorem RoundTrip.epush (a : CR) (e : EP) (s : Bool) : RoundTrip.Statement (.epush a e s) := by
  have ha := a.isLt
  have he := e.isLt
  have hs := Bool.toNat_lt s
  refine RoundTrip.ofWord rfl (fmtI_range (by omega) (by omega) (by omega) (by omega)) (fun hwf => ?_)
  rw [word_3E (by omega) (by omega) (by omega)]
  have e1 : bitsAt (e.val * 2 ^ 13 + s.toNat * 512) 13 2 = e.val := by simp only [bitsAt]; omega
  have e2 : bitsAt (e.val * 2 ^ 13 + s.toNat * 512) 10 3 = 0 := by simp only [bitsAt]; omega
  have e3 : bitsAt (e.val * 2 ^ 13 + s.toNat * 512) 0 10 = s.toNat * 512 := by simp only [bitsAt]; omega
  have e4 : bitsAt (s.toNat * 512) 0 9 = 0 := by simp only [bitsAt]; omega
  have e5 : bitsAt (s.toNat * 512) 9 1 = s.toNat := by simp only [bitsAt]; omega
  have e6 : bitsAt (s.toNat * 512) 0 5 = 0 := by simp only [bitsAt]; omega
  have e7 : bitsAt (s.toNat * 512) 5 4 = 0 := by simp only [bitsAt]; omega
  simp only [e1, e2, e3]
  simp [Instr.wf] at hwf
  have hz : ¬a = 0 := fun h => by rw [h] at hwf; simp at hwf
  simp [toCR_val, toEP_val, dec3E, zero, toCR_zero, Nat.not_lt.2 (Nat.le_of_lt_succ he), e4, e5, hz, Nat.not_lt.2 hwf.2]

theorem RoundTrip.epop (d : CR) (e : EP) : RoundTrip.Statement (.epop d e) := by
  have hd := d.isLt
  have he := e.isLt
  refine RoundTrip.ofWord rfl (fmtI_range (by omega) (by omega) (by omega) (by omega)) (fun hwf => ?_)
  rw [word_3E (by omega) (by omega) (by omega)]
  have e1 : bitsAt (e.val * 2 ^ 13 + 2 ^ 10) 13 2 = e.val := by simp only [bitsAt]; omega
  have e2 : bitsAt (e.val * 2 ^ 13 + 2 ^ 10) 10 3 = 1 := by simp only [bitsAt]; omega
  have e3 : bitsAt (e.val * 2 ^ 13 + 2 ^ 10) 0 10 = 0 := by simp only [bitsAt]; omega
  simp only [e1, e2, e3]
  simp [toCR_val, toEP_val, dec3E, zero, toCR_zero, Nat.not_lt.2 (Nat.le_of_lt_succ he)]

theorem RoundTrip.estat (d : CR) (e : EP) : RoundTrip.Statement (.estat d e) := by
  have hd := d.isLt
  have he := e.isLt
  refine RoundTrip.ofWord rfl (fmtI_range (by omega) (by omega) (by omega) (by omega)) (fun hwf => ?_)
  rw [word_3E (by omega) (by omega) (by omega)]
  have e1 : bitsAt (e.val * 2 ^ 13 + 2 * 2 ^ 10) 13 2 = e.val := by simp only [bitsAt]; omega
  have e2 : bitsAt (e.val * 2 ^ 13 + 2 * 2 ^ 10) 10 3 = 2 := by simp only [bitsAt]; omega
  have e3 : bitsAt (e.val * 2 ^ 13 + 2 * 2 ^ 10) 0 10 = 0 := by simp only [bitsAt]; omega
  simp only [e1, e2, e3]
  simp [toCR_val, toEP_val, dec3E, zero, toCR_zero, Nat.not_lt.2 (Nat.le_of_lt_succ he)]

theorem RoundTrip.aget (d a : CR) (bank : Bool) (g : BitVec 4) : RoundTrip.Statement (.aget d a bank g) := by
  have hd := d.isLt
  have ha := a.isLt
  have hbank := Bool.toNat_lt bank
  have hg := g.isLt
  refine RoundTrip.ofWord rfl (fmtI_range (by omega) (by omega) (by omega) (by omega)) (fun hwf => ?_)
  rw [word_3E (by omega) (by omega) (by omega)]
  have e1 : bitsAt (3 * 2 ^ 10 + bank.toNat * 512 + g.toNat * 32) 13 2 = 0 := by simp only [bitsAt]; omega
  have e2 : bitsAt (3 * 2 ^ 10 + bank.toNat * 512 + g.toNat * 32) 10 3 = 3 := by simp only [bitsAt]; omega
  have e3 : bitsAt (3 * 2 ^ 10 + bank.toNat * 512 + g.toNat * 32) 0 10 = bank.toNat * 512 + g.toNat * 32 := by simp only [bitsAt]; omega
  have e4 : bitsAt (bank.toNat * 512 + g.toNat * 32) 9 1 = bank.toNat := by simp only [bitsAt]; omega
  have e5 : bitsAt (bank.toNat * 512 + g.toNat * 32) 0 5 = 0 := by simp only [bitsAt]; omega
  have e6 : bitsAt (bank.toNat * 512 + g.toNat * 32) 5 4 = g.toNat := by simp only [bitsAt]; omega
  simp only [e1, e2, e3]
  simp [toCR_val, dec3E, zero, e4, e5, e6]

theorem RoundTrip.shufOpen (a n : CR) : RoundTrip.Statement (.shufOpen a n) := by
  have ha := a.isLt
  have hn := n.isLt
  refine RoundTrip.ofWord rfl (fmtR_range (by omega) (by omega) (by omega) (by omega) (by omega)) (fun hwf => ?_)
  rw [word_3F (by omega) (by omega) (by omega) (by omega)]
  simp [toCR_val, dec3F, zero, toCR_zero]

theorem RoundTrip.shufHold (a n : CR) : RoundTrip.Statement (.shufHold a n) := by
  have ha := a.isLt
  have hn := n.isLt
  refine RoundTrip.ofWord rfl (fmtR_range (by omega) (by omega) (by omega) (by omega) (by omega)) (fun hwf => ?_)
  rw [word_3F (by omega) (by omega) (by omega) (by omega)]
  simp [toCR_val, dec3F, zero, toCR_zero]

theorem RoundTrip.shufClose (n : CR) : RoundTrip.Statement (.shufClose n) := by
  have hn := n.isLt
  refine RoundTrip.ofWord rfl (fmtR_range (by omega) (by omega) (by omega) (by omega) (by omega)) (fun hwf => ?_)
  rw [word_3F (by omega) (by omega) (by omega) (by omega)]
  simp [toCR_val, dec3F, zero, toCR_zero]

theorem RoundTrip.shufStat (d n : CR) : RoundTrip.Statement (.shufStat d n) := by
  have hd := d.isLt
  have hn := n.isLt
  refine RoundTrip.ofWord rfl (fmtR_range (by omega) (by omega) (by omega) (by omega) (by omega)) (fun hwf => ?_)
  rw [word_3F (by omega) (by omega) (by omega) (by omega)]
  simp [toCR_val, dec3F, zero, toCR_zero]

theorem RoundTrip.cAddi (d : BitVec 4) (imm : BitVec 7) : RoundTrip.Statement (.cAddi d imm) := by
  have hd := d.isLt
  have himm := imm.isLt
  refine RoundTrip.ofParcel rfl (by omega) (fun hwf => ?_)
  have e0 : bitsAt (0 * 2 ^ 11 + d.toNat * 2 ^ 7 + imm.toNat) 7 4 = d.toNat := by simp only [bitsAt]; omega
  have e2 : bitsAt (0 * 2 ^ 11 + d.toNat * 2 ^ 7 + imm.toNat) 0 7 = imm.toNat := by simp only [bitsAt]; omega
  have e7 : bitsAt (0 * 2 ^ 11 + d.toNat * 2 ^ 7 + imm.toNat) 11 4 = 0 := by simp only [bitsAt]; omega
  simp only [decodeCompact, e0, e2, e7]
  simp [Instr.wf] at hwf
  have hz : d.toNat ≠ 0 := fun h => hwf (BitVec.eq_of_toNat_eq (by simpa using h))
  simp [hz]

theorem RoundTrip.cMov (d a : BitVec 4) : RoundTrip.Statement (.cMov d a) := by
  have hd := d.isLt
  have ha := a.isLt
  refine RoundTrip.ofParcel rfl (by omega) (fun hwf => ?_)
  have e0 : bitsAt (1 * 2 ^ 11 + d.toNat * 2 ^ 7 + a.toNat * 2 ^ 3) 7 4 = d.toNat := by simp only [bitsAt]; omega
  have e1 : bitsAt (1 * 2 ^ 11 + d.toNat * 2 ^ 7 + a.toNat * 2 ^ 3) 3 4 = a.toNat := by simp only [bitsAt]; omega
  have e6 : bitsAt (1 * 2 ^ 11 + d.toNat * 2 ^ 7 + a.toNat * 2 ^ 3) 0 3 = 0 := by simp only [bitsAt]; omega
  have e7 : bitsAt (1 * 2 ^ 11 + d.toNat * 2 ^ 7 + a.toNat * 2 ^ 3) 11 4 = 1 := by simp only [bitsAt]; omega
  simp only [decodeCompact, e0, e1, e6, e7]
  simp [zero]

theorem RoundTrip.cAdd (d a : BitVec 4) : RoundTrip.Statement (.cAdd d a) := by
  have hd := d.isLt
  have ha := a.isLt
  refine RoundTrip.ofParcel rfl (by omega) (fun hwf => ?_)
  have e0 : bitsAt (2 * 2 ^ 11 + d.toNat * 2 ^ 7 + a.toNat * 2 ^ 3) 7 4 = d.toNat := by simp only [bitsAt]; omega
  have e1 : bitsAt (2 * 2 ^ 11 + d.toNat * 2 ^ 7 + a.toNat * 2 ^ 3) 3 4 = a.toNat := by simp only [bitsAt]; omega
  have e6 : bitsAt (2 * 2 ^ 11 + d.toNat * 2 ^ 7 + a.toNat * 2 ^ 3) 0 3 = 0 := by simp only [bitsAt]; omega
  have e7 : bitsAt (2 * 2 ^ 11 + d.toNat * 2 ^ 7 + a.toNat * 2 ^ 3) 11 4 = 2 := by simp only [bitsAt]; omega
  simp only [decodeCompact, e0, e1, e6, e7]
  simp [zero]

theorem RoundTrip.cSub (d a : BitVec 4) : RoundTrip.Statement (.cSub d a) := by
  have hd := d.isLt
  have ha := a.isLt
  refine RoundTrip.ofParcel rfl (by omega) (fun hwf => ?_)
  have e0 : bitsAt (3 * 2 ^ 11 + d.toNat * 2 ^ 7 + a.toNat * 2 ^ 3) 7 4 = d.toNat := by simp only [bitsAt]; omega
  have e1 : bitsAt (3 * 2 ^ 11 + d.toNat * 2 ^ 7 + a.toNat * 2 ^ 3) 3 4 = a.toNat := by simp only [bitsAt]; omega
  have e6 : bitsAt (3 * 2 ^ 11 + d.toNat * 2 ^ 7 + a.toNat * 2 ^ 3) 0 3 = 0 := by simp only [bitsAt]; omega
  have e7 : bitsAt (3 * 2 ^ 11 + d.toNat * 2 ^ 7 + a.toNat * 2 ^ 3) 11 4 = 3 := by simp only [bitsAt]; omega
  simp only [decodeCompact, e0, e1, e6, e7]
  simp [zero]

theorem RoundTrip.cLi (d : BitVec 4) (imm : BitVec 7) : RoundTrip.Statement (.cLi d imm) := by
  have hd := d.isLt
  have himm := imm.isLt
  refine RoundTrip.ofParcel rfl (by omega) (fun hwf => ?_)
  have e0 : bitsAt (4 * 2 ^ 11 + d.toNat * 2 ^ 7 + imm.toNat) 7 4 = d.toNat := by simp only [bitsAt]; omega
  have e2 : bitsAt (4 * 2 ^ 11 + d.toNat * 2 ^ 7 + imm.toNat) 0 7 = imm.toNat := by simp only [bitsAt]; omega
  have e7 : bitsAt (4 * 2 ^ 11 + d.toNat * 2 ^ 7 + imm.toNat) 11 4 = 4 := by simp only [bitsAt]; omega
  simp only [decodeCompact, e0, e2, e7]
  simp 

theorem RoundTrip.cLdD (d a : BitVec 3) (k : BitVec 5) : RoundTrip.Statement (.cLdD d a k) := by
  have hd := d.isLt
  have ha := a.isLt
  have hk := k.isLt
  refine RoundTrip.ofParcel rfl (by omega) (fun hwf => ?_)
  have e3 : bitsAt (5 * 2 ^ 11 + d.toNat * 2 ^ 8 + a.toNat * 2 ^ 5 + k.toNat) 8 3 = d.toNat := by simp only [bitsAt]; omega
  have e4 : bitsAt (5 * 2 ^ 11 + d.toNat * 2 ^ 8 + a.toNat * 2 ^ 5 + k.toNat) 5 3 = a.toNat := by simp only [bitsAt]; omega
  have e5 : bitsAt (5 * 2 ^ 11 + d.toNat * 2 ^ 8 + a.toNat * 2 ^ 5 + k.toNat) 0 5 = k.toNat := by simp only [bitsAt]; omega
  have e7 : bitsAt (5 * 2 ^ 11 + d.toNat * 2 ^ 8 + a.toNat * 2 ^ 5 + k.toNat) 11 4 = 5 := by simp only [bitsAt]; omega
  simp only [decodeCompact, e3, e4, e5, e7]
  simp 

theorem RoundTrip.cStD (d a : BitVec 3) (k : BitVec 5) : RoundTrip.Statement (.cStD d a k) := by
  have hd := d.isLt
  have ha := a.isLt
  have hk := k.isLt
  refine RoundTrip.ofParcel rfl (by omega) (fun hwf => ?_)
  have e3 : bitsAt (6 * 2 ^ 11 + d.toNat * 2 ^ 8 + a.toNat * 2 ^ 5 + k.toNat) 8 3 = d.toNat := by simp only [bitsAt]; omega
  have e4 : bitsAt (6 * 2 ^ 11 + d.toNat * 2 ^ 8 + a.toNat * 2 ^ 5 + k.toNat) 5 3 = a.toNat := by simp only [bitsAt]; omega
  have e5 : bitsAt (6 * 2 ^ 11 + d.toNat * 2 ^ 8 + a.toNat * 2 ^ 5 + k.toNat) 0 5 = k.toNat := by simp only [bitsAt]; omega
  have e7 : bitsAt (6 * 2 ^ 11 + d.toNat * 2 ^ 8 + a.toNat * 2 ^ 5 + k.toNat) 11 4 = 6 := by simp only [bitsAt]; omega
  simp only [decodeCompact, e3, e4, e5, e7]
  simp 

theorem RoundTrip.cLdW (d a : BitVec 3) (k : BitVec 5) : RoundTrip.Statement (.cLdW d a k) := by
  have hd := d.isLt
  have ha := a.isLt
  have hk := k.isLt
  refine RoundTrip.ofParcel rfl (by omega) (fun hwf => ?_)
  have e3 : bitsAt (7 * 2 ^ 11 + d.toNat * 2 ^ 8 + a.toNat * 2 ^ 5 + k.toNat) 8 3 = d.toNat := by simp only [bitsAt]; omega
  have e4 : bitsAt (7 * 2 ^ 11 + d.toNat * 2 ^ 8 + a.toNat * 2 ^ 5 + k.toNat) 5 3 = a.toNat := by simp only [bitsAt]; omega
  have e5 : bitsAt (7 * 2 ^ 11 + d.toNat * 2 ^ 8 + a.toNat * 2 ^ 5 + k.toNat) 0 5 = k.toNat := by simp only [bitsAt]; omega
  have e7 : bitsAt (7 * 2 ^ 11 + d.toNat * 2 ^ 8 + a.toNat * 2 ^ 5 + k.toNat) 11 4 = 7 := by simp only [bitsAt]; omega
  simp only [decodeCompact, e3, e4, e5, e7]
  simp 

theorem RoundTrip.cStW (d a : BitVec 3) (k : BitVec 5) : RoundTrip.Statement (.cStW d a k) := by
  have hd := d.isLt
  have ha := a.isLt
  have hk := k.isLt
  refine RoundTrip.ofParcel rfl (by omega) (fun hwf => ?_)
  have e3 : bitsAt (8 * 2 ^ 11 + d.toNat * 2 ^ 8 + a.toNat * 2 ^ 5 + k.toNat) 8 3 = d.toNat := by simp only [bitsAt]; omega
  have e4 : bitsAt (8 * 2 ^ 11 + d.toNat * 2 ^ 8 + a.toNat * 2 ^ 5 + k.toNat) 5 3 = a.toNat := by simp only [bitsAt]; omega
  have e5 : bitsAt (8 * 2 ^ 11 + d.toNat * 2 ^ 8 + a.toNat * 2 ^ 5 + k.toNat) 0 5 = k.toNat := by simp only [bitsAt]; omega
  have e7 : bitsAt (8 * 2 ^ 11 + d.toNat * 2 ^ 8 + a.toNat * 2 ^ 5 + k.toNat) 11 4 = 8 := by simp only [bitsAt]; omega
  simp only [decodeCompact, e3, e4, e5, e7]
  simp 

theorem RoundTrip.cLdsp (d : CR) (k : BitVec 6) : RoundTrip.Statement (.cLdsp d k) := by
  have hd := d.isLt
  have hk := k.isLt
  refine RoundTrip.ofParcel rfl (by omega) (fun hwf => ?_)
  have e7 : bitsAt (9 * 2 ^ 11 + d.val * 2 ^ 6 + k.toNat) 11 4 = 9 := by simp only [bitsAt]; omega
  have e8 : bitsAt (9 * 2 ^ 11 + d.val * 2 ^ 6 + k.toNat) 6 5 = d.val := by simp only [bitsAt]; omega
  have e9 : bitsAt (9 * 2 ^ 11 + d.val * 2 ^ 6 + k.toNat) 0 6 = k.toNat := by simp only [bitsAt]; omega
  simp only [decodeCompact, e7, e8, e9]
  simp [toCR_val]

theorem RoundTrip.cStsp (d : CR) (k : BitVec 6) : RoundTrip.Statement (.cStsp d k) := by
  have hd := d.isLt
  have hk := k.isLt
  refine RoundTrip.ofParcel rfl (by omega) (fun hwf => ?_)
  have e7 : bitsAt (10 * 2 ^ 11 + d.val * 2 ^ 6 + k.toNat) 11 4 = 10 := by simp only [bitsAt]; omega
  have e8 : bitsAt (10 * 2 ^ 11 + d.val * 2 ^ 6 + k.toNat) 6 5 = d.val := by simp only [bitsAt]; omega
  have e9 : bitsAt (10 * 2 ^ 11 + d.val * 2 ^ 6 + k.toNat) 0 6 = k.toNat := by simp only [bitsAt]; omega
  simp only [decodeCompact, e7, e8, e9]
  simp [toCR_val]

theorem RoundTrip.cB (k : BitVec 11) : RoundTrip.Statement (.cB k) := by
  have hk := k.isLt
  refine RoundTrip.ofParcel rfl (by omega) (fun hwf => ?_)
  have e7 : bitsAt (11 * 2 ^ 11 + k.toNat) 11 4 = 11 := by simp only [bitsAt]; omega
  have e10 : bitsAt (11 * 2 ^ 11 + k.toNat) 0 11 = k.toNat := by simp only [bitsAt]; omega
  simp only [decodeCompact, e7, e10]
  simp 

theorem RoundTrip.cBeqz (a : BitVec 3) (k : BitVec 8) : RoundTrip.Statement (.cBeqz a k) := by
  have ha := a.isLt
  have hk := k.isLt
  refine RoundTrip.ofParcel rfl (by omega) (fun hwf => ?_)
  have e3 : bitsAt (12 * 2 ^ 11 + a.toNat * 2 ^ 8 + k.toNat) 8 3 = a.toNat := by simp only [bitsAt]; omega
  have e7 : bitsAt (12 * 2 ^ 11 + a.toNat * 2 ^ 8 + k.toNat) 11 4 = 12 := by simp only [bitsAt]; omega
  have e11 : bitsAt (12 * 2 ^ 11 + a.toNat * 2 ^ 8 + k.toNat) 0 8 = k.toNat := by simp only [bitsAt]; omega
  simp only [decodeCompact, e3, e7, e11]
  simp 

theorem RoundTrip.cBnez (a : BitVec 3) (k : BitVec 8) : RoundTrip.Statement (.cBnez a k) := by
  have ha := a.isLt
  have hk := k.isLt
  refine RoundTrip.ofParcel rfl (by omega) (fun hwf => ?_)
  have e3 : bitsAt (13 * 2 ^ 11 + a.toNat * 2 ^ 8 + k.toNat) 8 3 = a.toNat := by simp only [bitsAt]; omega
  have e7 : bitsAt (13 * 2 ^ 11 + a.toNat * 2 ^ 8 + k.toNat) 11 4 = 13 := by simp only [bitsAt]; omega
  have e11 : bitsAt (13 * 2 ^ 11 + a.toNat * 2 ^ 8 + k.toNat) 0 8 = k.toNat := by simp only [bitsAt]; omega
  simp only [decodeCompact, e3, e7, e11]
  simp 

theorem RoundTrip.cRet : RoundTrip.Statement (.cRet) := by
  refine RoundTrip.ofParcel rfl (by omega) (fun hwf => ?_)
  have e0 : bitsAt (14 * 2 ^ 11) 7 4 = 0 := by simp only [bitsAt]; omega
  have e1 : bitsAt (14 * 2 ^ 11) 3 4 = 0 := by simp only [bitsAt]; omega
  have e2 : bitsAt (14 * 2 ^ 11) 0 7 = 0 := by simp only [bitsAt]; omega
  have e3 : bitsAt (14 * 2 ^ 11) 8 3 = 0 := by simp only [bitsAt]; omega
  have e4 : bitsAt (14 * 2 ^ 11) 5 3 = 0 := by simp only [bitsAt]; omega
  have e5 : bitsAt (14 * 2 ^ 11) 0 5 = 0 := by simp only [bitsAt]; omega
  have e6 : bitsAt (14 * 2 ^ 11) 0 3 = 0 := by simp only [bitsAt]; omega
  have e7 : bitsAt (14 * 2 ^ 11) 11 4 = 14 := by simp only [bitsAt]; omega
  have e8 : bitsAt (14 * 2 ^ 11) 6 5 = 0 := by simp only [bitsAt]; omega
  have e9 : bitsAt (14 * 2 ^ 11) 0 6 = 0 := by simp only [bitsAt]; omega
  have e10 : bitsAt (14 * 2 ^ 11) 0 11 = 0 := by simp only [bitsAt]; omega
  have e11 : bitsAt (14 * 2 ^ 11) 0 8 = 0 := by simp only [bitsAt]; omega
  simp only [decodeCompact, e7, e10]
  simp [zero]

theorem RoundTrip.cNop : RoundTrip.Statement (.cNop) := by
  refine RoundTrip.ofParcel rfl (by omega) (fun hwf => ?_)
  have e0 : bitsAt (15 * 2 ^ 11) 7 4 = 0 := by simp only [bitsAt]; omega
  have e1 : bitsAt (15 * 2 ^ 11) 3 4 = 0 := by simp only [bitsAt]; omega
  have e2 : bitsAt (15 * 2 ^ 11) 0 7 = 0 := by simp only [bitsAt]; omega
  have e3 : bitsAt (15 * 2 ^ 11) 8 3 = 0 := by simp only [bitsAt]; omega
  have e4 : bitsAt (15 * 2 ^ 11) 5 3 = 0 := by simp only [bitsAt]; omega
  have e5 : bitsAt (15 * 2 ^ 11) 0 5 = 0 := by simp only [bitsAt]; omega
  have e6 : bitsAt (15 * 2 ^ 11) 0 3 = 0 := by simp only [bitsAt]; omega
  have e7 : bitsAt (15 * 2 ^ 11) 11 4 = 15 := by simp only [bitsAt]; omega
  have e8 : bitsAt (15 * 2 ^ 11) 6 5 = 0 := by simp only [bitsAt]; omega
  have e9 : bitsAt (15 * 2 ^ 11) 0 6 = 0 := by simp only [bitsAt]; omega
  have e10 : bitsAt (15 * 2 ^ 11) 0 11 = 0 := by simp only [bitsAt]; omega
  have e11 : bitsAt (15 * 2 ^ 11) 0 8 = 0 := by simp only [bitsAt]; omega
  simp only [decodeCompact, e7, e10]
  simp [zero]

theorem RoundTrip.illegal (word : BitVec 32) (compact : Bool) : RoundTrip.Statement (.illegal word compact) := RoundTrip.ofStep rfl
theorem RoundTrip.mma (core : Nat) (upsets : List Upset) : RoundTrip.Statement (.mma core upsets) := RoundTrip.ofStep rfl
theorem RoundTrip.loadb (core : Nat) : RoundTrip.Statement (.loadb core) := RoundTrip.ofStep rfl
theorem RoundTrip.ringClaim (core : Nat) : RoundTrip.Statement (.ringClaim core) := RoundTrip.ofStep rfl
theorem RoundTrip.passb (core : Nat) : RoundTrip.Statement (.passb core) := RoundTrip.ofStep rfl
theorem RoundTrip.drain (core : Nat) : RoundTrip.Statement (.drain core) := RoundTrip.ofStep rfl
theorem RoundTrip.zero (core : Nat) : RoundTrip.Statement (.zero core) := RoundTrip.ofStep rfl
theorem RoundTrip.mark (core : Nat) : RoundTrip.Statement (.mark core) := RoundTrip.ofStep rfl
theorem RoundTrip.copy (core : Nat) (mishap : Option Mishap) : RoundTrip.Statement (.copy core mishap) := RoundTrip.ofStep rfl
theorem RoundTrip.fill (core : Nat) (mishap : Option Mishap) : RoundTrip.Statement (.fill core mishap) := RoundTrip.ofStep rfl
theorem RoundTrip.move (core : Nat) : RoundTrip.Statement (.move core) := RoundTrip.ofStep rfl
theorem RoundTrip.decrypt (core : Nat) : RoundTrip.Statement (.decrypt core) := RoundTrip.ofStep rfl
theorem RoundTrip.ckpt (core : Nat) (mishap : Option Mishap) : RoundTrip.Statement (.ckpt core mishap) := RoundTrip.ofStep rfl
theorem RoundTrip.areduce (core : Nat) (others : List Member) : RoundTrip.Statement (.areduce core others) := RoundTrip.ofStep rfl
theorem RoundTrip.agather (core : Nat) (others : List Member) : RoundTrip.Statement (.agather core others) := RoundTrip.ofStep rfl
theorem RoundTrip.bcast (core : Nat) (others : List Member) : RoundTrip.Statement (.bcast core others) := RoundTrip.ofStep rfl
theorem RoundTrip.shuffle (core : Nat) : RoundTrip.Statement (.shuffle core) := RoundTrip.ofStep rfl
theorem RoundTrip.rget (core : Nat) (mishap : Option Mishap) : RoundTrip.Statement (.rget core mishap) := RoundTrip.ofStep rfl
theorem RoundTrip.rput (core : Nat) (mishap : Option Mishap) : RoundTrip.Statement (.rput core mishap) := RoundTrip.ofStep rfl
theorem RoundTrip.commandCompletion (core : Nat) (e : EP) : RoundTrip.Statement (.commandCompletion core e) := RoundTrip.ofStep rfl
theorem RoundTrip.leaveGrant (core : Nat) (e : EP) : RoundTrip.Statement (.leaveGrant core e) := RoundTrip.ofStep rfl
theorem RoundTrip.loadReply (core slot : Nat) (r : Reply) : RoundTrip.Statement (.loadReply core slot r) := RoundTrip.ofStep rfl
theorem RoundTrip.storeDrain (core slot : Nat) : RoundTrip.Statement (.storeDrain core slot) := RoundTrip.ofStep rfl
theorem RoundTrip.syncRetry (core slot : Nat) : RoundTrip.Statement (.syncRetry core slot) := RoundTrip.ofStep rfl
theorem RoundTrip.pageWalk (asid page : Nat) : RoundTrip.Statement (.pageWalk asid page) := RoundTrip.ofStep rfl
theorem RoundTrip.entryUpdate (obj : Nat) : RoundTrip.Statement (.entryUpdate obj) := RoundTrip.ofStep rfl
theorem RoundTrip.translationStore (core slot : Nat) : RoundTrip.Statement (.translationStore core slot) := RoundTrip.ofStep rfl
theorem RoundTrip.cleaningDone (pool base : Nat) : RoundTrip.Statement (.cleaningDone pool base) := RoundTrip.ofStep rfl
theorem RoundTrip.transferPlacement (obj : Nat) : RoundTrip.Statement (.transferPlacement obj) := RoundTrip.ofStep rfl
theorem RoundTrip.transferBounce (obj : Nat) : RoundTrip.Statement (.transferBounce obj) := RoundTrip.ofStep rfl
theorem RoundTrip.helperStart (core : Nat) : RoundTrip.Statement (.helperStart core) := RoundTrip.ofStep rfl
theorem RoundTrip.messageArrival (core pick : Nat) : RoundTrip.Statement (.messageArrival core pick) := RoundTrip.ofStep rfl
theorem RoundTrip.messageClaim (core : Nat) : RoundTrip.Statement (.messageClaim core) := RoundTrip.ofStep rfl
theorem RoundTrip.controlStrandEntry (core : Nat) : RoundTrip.Statement (.controlStrandEntry core) := RoundTrip.ofStep rfl
theorem RoundTrip.spillOut (core : Nat) : RoundTrip.Statement (.spillOut core) := RoundTrip.ofStep rfl
theorem RoundTrip.spillReplay (core asid : Nat) : RoundTrip.Statement (.spillReplay core asid) := RoundTrip.ofStep rfl
theorem RoundTrip.workReplay (core asid : Nat) : RoundTrip.Statement (.workReplay core asid) := RoundTrip.ofStep rfl
theorem RoundTrip.levellingSample : RoundTrip.Statement (.levellingSample) := RoundTrip.ofStep rfl
theorem RoundTrip.workShipArrival (core : Nat) : RoundTrip.Statement (.workShipArrival core) := RoundTrip.ofStep rfl
theorem RoundTrip.quiescenceTest : RoundTrip.Statement (.quiescenceTest) := RoundTrip.ofStep rfl
theorem RoundTrip.launchSubmit (fn : Nat) (v : Word) : RoundTrip.Statement (.launchSubmit fn v) := RoundTrip.ofStep rfl
theorem RoundTrip.launch (part : Nat) : RoundTrip.Statement (.launch part) := RoundTrip.ofStep rfl
theorem RoundTrip.launchRetire (part : Nat) : RoundTrip.Statement (.launchRetire part) := RoundTrip.ofStep rfl
theorem RoundTrip.lqstatusRead (fn : Nat) : RoundTrip.Statement (.lqstatusRead fn) := RoundTrip.ofStep rfl
theorem RoundTrip.schedOut (core slot : Nat) (pairAll : Bool) : RoundTrip.Statement (.schedOut core slot pairAll) := RoundTrip.ofStep rfl
theorem RoundTrip.schedIn (core slot handle : Nat) (pairAll : Bool) : RoundTrip.Statement (.schedIn core slot handle pairAll) := RoundTrip.ofStep rfl
theorem RoundTrip.schedExchange (core slot handle : Nat) (pairAll : Bool) : RoundTrip.Statement (.schedExchange core slot handle pairAll) := RoundTrip.ofStep rfl
theorem RoundTrip.swapBoundary (core slot : Nat) : RoundTrip.Statement (.swapBoundary core slot) := RoundTrip.ofStep rfl
theorem RoundTrip.domainStop (core asid : Nat) : RoundTrip.Statement (.domainStop core asid) := RoundTrip.ofStep rfl
theorem RoundTrip.domainResume (core asid : Nat) : RoundTrip.Statement (.domainResume core asid) := RoundTrip.ofStep rfl
theorem RoundTrip.stopnote (dev core asid : Nat) (stop : Bool) : RoundTrip.Statement (.stopnote dev core asid stop) := RoundTrip.ofStep rfl
theorem RoundTrip.resume (core slot : Nat) : RoundTrip.Statement (.resume core slot) := RoundTrip.ofStep rfl
theorem RoundTrip.kill (core slot : Nat) : RoundTrip.Statement (.kill core slot) := RoundTrip.ofStep rfl
theorem RoundTrip.halt (core slot : Nat) : RoundTrip.Statement (.halt core slot) := RoundTrip.ofStep rfl
theorem RoundTrip.step (core slot : Nat) : RoundTrip.Statement (.step core slot) := RoundTrip.ofStep rfl
theorem RoundTrip.crossTriggerFire (cluster : Nat) : RoundTrip.Statement (.crossTriggerFire cluster) := RoundTrip.ofStep rfl
theorem RoundTrip.crossTriggerRelease (cluster : Nat) : RoundTrip.Statement (.crossTriggerRelease cluster) := RoundTrip.ofStep rfl
theorem RoundTrip.pairEffectMatch (core slot : Nat) : RoundTrip.Statement (.pairEffectMatch core slot) := RoundTrip.ofStep rfl
theorem RoundTrip.eccUncorr (site core slot obj : Nat) : RoundTrip.Statement (.eccUncorr site core slot obj) := RoundTrip.ofStep rfl
theorem RoundTrip.raceRecordAppend (core : Nat) : RoundTrip.Statement (.raceRecordAppend core) := RoundTrip.ofStep rfl
theorem RoundTrip.sweepVisit (cluster : Nat) : RoundTrip.Statement (.sweepVisit cluster) := RoundTrip.ofStep rfl
theorem RoundTrip.rebase (core asid : Nat) : RoundTrip.Statement (.rebase core asid) := RoundTrip.ofStep rfl
theorem RoundTrip.remoteLoadServe (p : Packet) : RoundTrip.Statement (.remoteLoadServe p) := RoundTrip.ofStep rfl
theorem RoundTrip.noReply (core slot dev : Nat) : RoundTrip.Statement (.noReply core slot dev) := RoundTrip.ofStep rfl
theorem RoundTrip.commitOutcome (core : Nat) (slot : Nat) (answers : List (Nat × Option Nat)) : RoundTrip.Statement (.commitOutcome core slot answers) := RoundTrip.ofStep rfl
theorem RoundTrip.rbatch (p : Packet) : RoundTrip.Statement (.rbatch p) := RoundTrip.ofStep rfl
theorem RoundTrip.linkGroupReceive (port : Nat) (flits : List Byte) (ctl : Quad) : RoundTrip.Statement (.linkGroupReceive port flits ctl) := RoundTrip.ofStep rfl
theorem RoundTrip.nak (port gseq : Nat) : RoundTrip.Statement (.nak port gseq) := RoundTrip.ofStep rfl
theorem RoundTrip.linkDown (port : Nat) : RoundTrip.Statement (.linkDown port) := RoundTrip.ofStep rfl
theorem RoundTrip.widthChange (port lanes : Nat) : RoundTrip.Statement (.widthChange port lanes) := RoundTrip.ofStep rfl
theorem RoundTrip.packetHop (port : Nat) (p : Packet) : RoundTrip.Statement (.packetHop port p) := RoundTrip.ofStep rfl
theorem RoundTrip.remapWrite (part job phys : Nat) (valid : Bool) : RoundTrip.Statement (.remapWrite part job phys valid) := RoundTrip.ofStep rfl
theorem RoundTrip.deviceFence (dev : Nat) (keys : List Nat) : RoundTrip.Statement (.deviceFence dev keys) := RoundTrip.ofStep rfl
theorem RoundTrip.isolatedReadAnswer (port : Nat) (p : Packet) : RoundTrip.Statement (.isolatedReadAnswer port p) := RoundTrip.ofStep rfl
theorem RoundTrip.holdFirstArrival (p : Packet) : RoundTrip.Statement (.holdFirstArrival p) := RoundTrip.ofStep rfl
theorem RoundTrip.holdPartnerArrival (p : Packet) : RoundTrip.Statement (.holdPartnerArrival p) := RoundTrip.ofStep rfl
theorem RoundTrip.pairwait (shuf xa : Nat) : RoundTrip.Statement (.pairwait shuf xa) := RoundTrip.ofStep rfl
theorem RoundTrip.sack (p : Packet) : RoundTrip.Statement (.sack p) := RoundTrip.ofStep rfl
theorem RoundTrip.snack (p : Packet) : RoundTrip.Statement (.snack p) := RoundTrip.ofStep rfl
theorem RoundTrip.codedTimerExpiry (shuf xa : Nat) : RoundTrip.Statement (.codedTimerExpiry shuf xa) := RoundTrip.ofStep rfl
theorem RoundTrip.block (p : Packet) : RoundTrip.Statement (.block p) := RoundTrip.ofStep rfl
theorem RoundTrip.lake (p : Packet) : RoundTrip.Statement (.lake p) := RoundTrip.ofStep rfl
theorem RoundTrip.busyResend (p : Packet) : RoundTrip.Statement (.busyResend p) := RoundTrip.ofStep rfl
theorem RoundTrip.senderSackTimeout (part shuf blk : Nat) : RoundTrip.Statement (.senderSackTimeout part shuf blk) := RoundTrip.ofStep rfl
theorem RoundTrip.shuffleReceiveTimeout (part shuf : Nat) : RoundTrip.Statement (.shuffleReceiveTimeout part shuf) := RoundTrip.ofStep rfl
theorem RoundTrip.hostLineDrain (failed : Bool) : RoundTrip.Statement (.hostLineDrain failed) := RoundTrip.ofStep rfl
theorem RoundTrip.timeout (core slot : Nat) : RoundTrip.Statement (.timeout core slot) := RoundTrip.ofStep rfl
theorem RoundTrip.inboundWrite (fn : Nat) (addr : Nat) (b : List (Option Byte)) : RoundTrip.Statement (.inboundWrite fn addr b) := RoundTrip.ofStep rfl
theorem RoundTrip.inboundSyncPut (fn addr : Nat) (v : Quad) : RoundTrip.Statement (.inboundSyncPut fn addr v) := RoundTrip.ofStep rfl
theorem RoundTrip.inboundRead (fn addr n : Nat) : RoundTrip.Statement (.inboundRead fn addr n) := RoundTrip.ofStep rfl
theorem RoundTrip.inboundSyncPeek (fn addr n : Nat) : RoundTrip.Statement (.inboundSyncPeek fn addr n) := RoundTrip.ofStep rfl
theorem RoundTrip.doorbellMessage (fn d : Nat) (v : Word) : RoundTrip.Statement (.doorbellMessage fn d v) := RoundTrip.ofStep rfl
theorem RoundTrip.doorbellTag (fn d : Nat) (v : Word) : RoundTrip.Statement (.doorbellTag fn d v) := RoundTrip.ofStep rfl
theorem RoundTrip.windowRegister (fn : Nat) (v : Word) : RoundTrip.Statement (.windowRegister fn v) := RoundTrip.ofStep rfl
theorem RoundTrip.windowUnregister (fn : Nat) (v : Word) : RoundTrip.Statement (.windowUnregister fn v) := RoundTrip.ofStep rfl
theorem RoundTrip.quiesce (part : Nat) : RoundTrip.Statement (.quiesce part) := RoundTrip.ofStep rfl
theorem RoundTrip.partitionReset (part : Nat) : RoundTrip.Statement (.partitionReset part) := RoundTrip.ofStep rfl
theorem RoundTrip.flr (fn : Nat) : RoundTrip.Statement (.flr fn) := RoundTrip.ofStep rfl
theorem RoundTrip.quiesceComplete (part : Nat) : RoundTrip.Statement (.quiesceComplete part) := RoundTrip.ofStep rfl
theorem RoundTrip.resetComplete (part : Nat) : RoundTrip.Statement (.resetComplete part) := RoundTrip.ofStep rfl
theorem RoundTrip.counterRead (fn n : Nat) (trusted : Bool) : RoundTrip.Statement (.counterRead fn n trusted) := RoundTrip.ofStep rfl
theorem RoundTrip.counterReadLow (fn n : Nat) (trusted : Bool) : RoundTrip.Statement (.counterReadLow fn n trusted) := RoundTrip.ofStep rfl
theorem RoundTrip.counterReadHigh (fn n : Nat) (trusted : Bool) : RoundTrip.Statement (.counterReadHigh fn n trusted) := RoundTrip.ofStep rfl
theorem RoundTrip.ofpop (fn : Nat) : RoundTrip.Statement (.ofpop fn) := RoundTrip.ofStep rfl
theorem RoundTrip.counterIntervalSnapshot (part cls : Nat) : RoundTrip.Statement (.counterIntervalSnapshot part cls) := RoundTrip.ofStep rfl
theorem RoundTrip.traceSample (cluster part : Nat) : RoundTrip.Statement (.traceSample cluster part) := RoundTrip.ofStep rfl
theorem RoundTrip.traceIntervalRecord (part cls : Nat) : RoundTrip.Statement (.traceIntervalRecord part cls) := RoundTrip.ofStep rfl
theorem RoundTrip.deepestRead (fn : Nat) : RoundTrip.Statement (.deepestRead fn) := RoundTrip.ofStep rfl
theorem RoundTrip.thermalSample (die degrees : Nat) : RoundTrip.Statement (.thermalSample die degrees) := RoundTrip.ofStep rfl
theorem RoundTrip.clusterPowerEntry (cluster : Nat) : RoundTrip.Statement (.clusterPowerEntry cluster) := RoundTrip.ofStep rfl
theorem RoundTrip.clusterPowerExit (cluster : Nat) : RoundTrip.Statement (.clusterPowerExit cluster) := RoundTrip.ofStep rfl
theorem RoundTrip.deviceReset : RoundTrip.Statement (.deviceReset) := RoundTrip.ofStep rfl
theorem RoundTrip.getMeasurements (fn : Nat) : RoundTrip.Statement (.getMeasurements fn) := RoundTrip.ofStep rfl
theorem RoundTrip.policyInstall (fn : Nat) (secured : Bool) (record : List Byte) : RoundTrip.Statement (.policyInstall fn secured record) := RoundTrip.ofStep rfl
theorem RoundTrip.streamInstall (fn stream : Nat) (secured : Bool) (key : BitVec 256) (salt : BitVec 32) : RoundTrip.Statement (.streamInstall fn stream secured key salt) := RoundTrip.ofStep rfl
theorem RoundTrip.tdiStateChange (fn state : Nat) : RoundTrip.Statement (.tdiStateChange fn state) := RoundTrip.ofStep rfl
theorem RoundTrip.migrationExport (part : Nat) : RoundTrip.Statement (.migrationExport part) := RoundTrip.ofStep rfl
theorem RoundTrip.migrationImport (image : Image) : RoundTrip.Statement (.migrationImport image) := RoundTrip.ofStep rfl
theorem RoundTrip.firmwareUpdate (image : Firmware) : RoundTrip.Statement (.firmwareUpdate image) := RoundTrip.ofStep rfl
theorem RoundTrip.registerWrite (fn off : Nat) (v : Word) : RoundTrip.Statement (.registerWrite fn off v) := RoundTrip.ofStep rfl
theorem RoundTrip.ewrite (p : Packet) : RoundTrip.Statement (.ewrite p) := RoundTrip.ofStep rfl
theorem RoundTrip.eread (p : Packet) : RoundTrip.Statement (.eread p) := RoundTrip.ofStep rfl
theorem RoundTrip.commandRemoteTimeout (core : Nat) (e : EP) : RoundTrip.Statement (.commandRemoteTimeout core e) := RoundTrip.ofStep rfl
theorem RoundTrip.spareJobAssign (part job key : Nat) : RoundTrip.Statement (.spareJobAssign part job key) := RoundTrip.ofStep rfl

end Sys2Proof.Laws
end

