-- ==== Sys2Proof/Tests/Slice0.lean ====
section
/-! SUPPORT. Tests: a word of every encoding decodes; ill-formed terms are refused; single steps; and states that meet the
hypotheses of every statement. -/

open Sys2Proof Sys2Proof.Machine

set_option Elab.async false

namespace Sys2Proof.Tests

/-! ### One word of every encoding, written field by field from spec/opcode_table.json -/

/-- ADD to MAXN (R104). -/
theorem test_decode_1 :
    decodeTableWord 32 0b1000000_01001_10010_01101_0000000000 = some (.add 9 18 13) ∧
    decodeTableWord 32 0b1000000_01001_10010_01101_0000000001 = some (.sub 9 18 13) ∧
    decodeTableWord 32 0b1000000_01001_10010_01101_0000000010 = some (.and 9 18 13) ∧
    decodeTableWord 32 0b1000000_01001_10010_01101_0000000011 = some (.or 9 18 13) ∧
    decodeTableWord 32 0b1000000_01001_10010_01101_0000000100 = some (.xor 9 18 13) ∧
    decodeTableWord 32 0b1000000_01001_10010_01101_0000000101 = some (.shl 9 18 13) ∧
    decodeTableWord 32 0b1000000_01001_10010_01101_0000000110 = some (.shr 9 18 13) ∧
    decodeTableWord 32 0b1000000_01001_10010_01101_0000000111 = some (.sra 9 18 13) ∧
    decodeTableWord 32 0b1000000_01001_10010_01101_0000001000 = some (.min 9 18 13) ∧
    decodeTableWord 32 0b1000000_01001_10010_01101_0000001001 = some (.max 9 18 13) ∧
    decodeTableWord 32 0b1000000_01001_10010_01101_0000001010 = some (.minn 9 18 13) ∧
    decodeTableWord 32 0b1000000_01001_10010_01101_0000001011 = some (.maxn 9 18 13) := by decide +kernel

/-- ADD_Q to SHRI (R104, R105, R106). -/
theorem test_decode_2 :
    decodeTableWord 32 0b1000000_01001_10010_01101_0000010000 = some (.addQ 9 18 13) ∧
    decodeTableWord 32 0b1000000_01001_10010_01101_0000010001 = some (.subQ 9 18 13) ∧
    decodeTableWord 32 0b1000000_01001_10010_01101_0000010010 = some (.andQ 9 18 13) ∧
    decodeTableWord 32 0b1000000_01001_10010_01101_0000010011 = some (.orQ 9 18 13) ∧
    decodeTableWord 32 0b1000000_01001_10010_01101_0000010100 = some (.xorQ 9 18 13) ∧
    decodeTableWord 32 0b1000000_01001_10010_01101_0000100_001 = some (.setCc 9 18 13 .ne) ∧
    decodeTableWord 32 0b1000001_01001_10010_111000000000001 = some (.addi 9 18 0x7001) ∧
    decodeTableWord 32 0b1000010_01001_10010_111000000000001 = some (.andi 9 18 0x7001) ∧
    decodeTableWord 32 0b1000011_01001_10010_111000000000001 = some (.ori 9 18 0x7001) ∧
    decodeTableWord 32 0b1000100_01001_10010_111000000000001 = some (.xori 9 18 0x7001) ∧
    decodeTableWord 32 0b1000101_01001_10010_000000000_100101 = some (.shli 9 18 0x25) ∧
    decodeTableWord 32 0b1000101_01001_10010_001000000_100101 = some (.shri 9 18 0x25) := by decide +kernel

/-- SRAI to REM (R106, R107, R108, R109). -/
theorem test_decode_3 :
    decodeTableWord 32 0b1000101_01001_10010_010000000_100101 = some (.srai 9 18 0x25) ∧
    decodeTableWord 32 0b1000101_01001_10010_011000000_100101 = some (.roli 9 18 0x25) ∧
    decodeTableWord 32 0b1000110_01001_10010_001_000000000101 = some (.setiCc 9 18 .ne 0x005) ∧
    decodeTableWord 32 0b1000111_01001_01_00_1000000000000001 = some (.lkZ 9 0x1 0x8001) ∧
    decodeTableWord 32 0b1000111_01001_01_01_1000000000000001 = some (.lkK 9 0x1 0x8001) ∧
    decodeTableWord 32 0b1000111_01001_01_10_1000000000000001 = some (.lkS 9 0x1 0x8001) ∧
    decodeTableWord 32 0b1001000_01001_10010_01101_0000000000 = some (.mul 9 18 13) ∧
    decodeTableWord 32 0b1001000_01001_10010_01101_0000000001 = some (.mulh 9 18 13) ∧
    decodeTableWord 32 0b1001000_01001_10010_01101_0000000010 = some (.mulhn 9 18 13) ∧
    decodeTableWord 32 0b1001000_01001_10010_01101_0000000011 = some (.div 9 18 13) ∧
    decodeTableWord 32 0b1001000_01001_10010_01101_0000000100 = some (.divn 9 18 13) ∧
    decodeTableWord 32 0b1001000_01001_10010_01101_0000000101 = some (.remS 9 18 13) := by decide +kernel

/-- REMN to ADDPC (R109, R110, R111). -/
theorem test_decode_4 :
    decodeTableWord 32 0b1001000_01001_10010_01101_0000000110 = some (.remn 9 18 13) ∧
    decodeTableWord 32 0b1001000_01001_10010_01101_0000000111 = some (.mulx 9 18 13) ∧
    decodeTableWord 32 0b1001000_01001_10010_01101_0000001000 = some (.mulxn 9 18 13) ∧
    decodeTableWord 32 0b1001001_01001_10010_000000000000000 = some (.clz 9 18) ∧
    decodeTableWord 32 0b1001001_01001_10010_000000000000001 = some (.ctz 9 18) ∧
    decodeTableWord 32 0b1001001_01001_10010_000000000000010 = some (.popc 9 18) ∧
    decodeTableWord 32 0b1001001_01001_10010_000000000000011 = some (.brev 9 18) ∧
    decodeTableWord 32 0b1001001_01001_10010_000000000000100 = some (.bswap 9 18) ∧
    decodeTableWord 32 0b1001001_01001_10010_01101_0000000101 = some (.bext 9 18 13) ∧
    decodeTableWord 32 0b1001001_01001_10010_01101_0000000110 = some (.bins 9 18 13) ∧
    decodeTableWord 32 0b1001001_01001_10010_01101_0000000111 = some (.andn 9 18 13) ∧
    decodeTableWord 32 0b1001010_01001_00000_100000000000001 = some (.addpc 9 0x4001) := by decide +kernel

/-- B to BRK (R114, R115, R116, R117, R118, R119, R120). -/
theorem test_decode_5 :
    decodeTableWord 32 0b1010000_1000000000000000000000011 = some (.b 0x1000003) ∧
    decodeTableWord 32 0b1010001_1000000000000000000000011 = some (.bl 0x1000003) ∧
    decodeTableWord 32 0b1010010_10010_01101_001_111110000001 = some (.bcc 18 13 .ne 0xf81) ∧
    decodeTableWord 32 0b1010011_10010_001_10000000000000011 = some (.bccz 18 .nez 0x10003) ∧
    decodeTableWord 32 0b101010000000_10010_000000000000000 = some (.br 18) ∧
    decodeTableWord 32 0b101010000000_10010_000000000000001 = some (.brl 18) ∧
    decodeTableWord 32 0b10101000000000000000000000000010 = some .ret ∧
    decodeTableWord 32 0b1010101_10010_000_10000000000000011 = some (.dbnz 18 0x10003) ∧
    decodeTableWord 32 0b10110000000000000000000000000000 = some .nop ∧
    decodeTableWord 32 0b10110000000000000001000000000000 = some .endStrand ∧
    decodeTableWord 32 0b10110000000000000010_100000000001 = some (.trap 0x801) ∧
    decodeTableWord 32 0b10110000000000000011_100000000001 = some (.brk 0x801) := by decide +kernel

/-- YIELD to ST (R118, R121, R122, R124, R127, R128, R133). -/
theorem test_decode_6 :
    decodeTableWord 32 0b10110000000000000100000000000000 = some .yield ∧
    decodeTableWord 32 0b1011001_01001_00000000_000000100000 = some (.rdst 9 0x020) ∧
    decodeTableWord 32 0b101100100000_10010_001_000000100000 = some (.wrst 18 0x020) ∧
    decodeTableWord 32 0b101100100000_10010_010_000000100000 = some (.setst 18 0x020) ∧
    decodeTableWord 32 0b101100100000_10010_011_000000100000 = some (.clrst 18 0x020) ∧
    decodeTableWord 32 0b1011010_01001_00000000_100000000001 = some (.rdcnt 9 0x801) ∧
    decodeTableWord 32 0b1011010_01001_00000001000000000000 = some (.clock 9) ∧
    decodeTableWord 32 0b1011011_10010_000_10000000000000011 = some (.rmtBegin 18 0x10003) ∧
    decodeTableWord 32 0b1011011_00101_00100000000000000000 = some (.rmtCommit 5) ∧
    decodeTableWord 32 0b10110110000001000000000000000000 = some .rmtAbort ∧
    decodeTableWord 32 0b1100000_01001_10010_010_111110000001 = some (.ld 9 18 .w 0xf81) ∧
    decodeTableWord 32 0b1100001_01001_10010_010_111110000001 = some (.st 9 18 .w 0xf81) := by decide +kernel

/-- LDC to SEND (R134, R135, R136, R138, R139, R140, R141, R142, R143). -/
theorem test_decode_7 :
    decodeTableWord 32 0b1100010_01001_10010_000_111110000001 = some (.ldc 9 18 0xf81) ∧
    decodeTableWord 32 0b1100011_01001_10010_000_111110000001 = some (.stc 9 18 0xf81) ∧
    decodeTableWord 32 0b1100100_01001_10010_01101_010_001_0000 = some (.ldx 9 18 13 .w 1) ∧
    decodeTableWord 32 0b1100101_01001_10010_01101_010_001_0000 = some (.stx 9 18 13 .w 1) ∧
    decodeTableWord 32 0b1100110_11010_10010_01101_1_011_000000 = some (.sbind 26 18 13 true 3) ∧
    decodeTableWord 32 0b1100110_11001_00000000000000000001 = some (.sunbind 25) ∧
    decodeTableWord 32 0b1101000_01001_10010_01101_0000000000 = some (.alloc 9 18 13) ∧
    decodeTableWord 32 0b110100000000_10010_000000000000001 = some (.free 18) ∧
    decodeTableWord 32 0b1101000_01001_10010_000000000000010 = some (.creclaim 9 18) ∧
    decodeTableWord 32 0b1101001_01001_10010_01101_0000000000 = some (.split 9 18 13) ∧
    decodeTableWord 32 0b1101001_01001_10010_01101_0000000001 = some (.join 9 18 13) ∧
    decodeTableWord 32 0b110100100000_10010_01101_10_1_0000010 = some (.send 18 13 0x2 true) := by decide +kernel

/-- CVIEW to AMO_XOR (R144, R145, R147, R149). -/
theorem test_decode_8 :
    decodeTableWord 32 0b1101001_01001_10010_01101_0000000011 = some (.cview 9 18 13) ∧
    decodeTableWord 32 0b1101010_01001_10010_00000000_0010_000 = some (.cget 9 18 .frac) ∧
    decodeTableWord 32 0b1101010_01001_10010_01101_000_0101_001 = some (.cset 9 18 13 .cursor) ∧
    decodeTableWord 32 0b1101010_01001_10010_01101_0000000010 = some (.cinc 9 18 13) ∧
    decodeTableWord 32 0b1101010_01001_10010_000000000000011 = some (.ctest 9 18) ∧
    decodeTableWord 32 0b1101100_01001_10010_000_111110000001 = some (.take 9 18 0xf81) ∧
    decodeTableWord 32 0b1101100_01001_10010_1_01_111110000001 = some (.put 9 18 0xf81 true) ∧
    decodeTableWord 32 0b1101100_01001_10010_010_111110000001 = some (.peek 9 18 0xf81) ∧
    decodeTableWord 32 0b1101101_01001_10010_01101_1_1_00000000 = some (.amoAdd 9 18 13 true true) ∧
    decodeTableWord 32 0b1101101_01001_10010_01101_1_1_00010000 = some (.amoAnd 9 18 13 true true) ∧
    decodeTableWord 32 0b1101101_01001_10010_01101_1_1_00100000 = some (.amoOr 9 18 13 true true) ∧
    decodeTableWord 32 0b1101101_01001_10010_01101_1_1_00110000 = some (.amoXor 9 18 13 true true) := by decide +kernel

/-- AMO_MIN to MCAST (R149, R150, R151, R153). -/
theorem test_decode_9 :
    decodeTableWord 32 0b1101101_01001_10010_01101_1_1_01000000 = some (.amoMin 9 18 13 true true) ∧
    decodeTableWord 32 0b1101101_01001_10010_01101_1_1_01010000 = some (.amoMax 9 18 13 true true) ∧
    decodeTableWord 32 0b1101101_01001_10010_01101_1_1_01100000 = some (.amoMinn 9 18 13 true true) ∧
    decodeTableWord 32 0b1101101_01001_10010_01101_1_1_01110000 = some (.amoMaxn 9 18 13 true true) ∧
    decodeTableWord 32 0b1101101_01001_10010_01101_1_1_10000000 = some (.amoSwap 9 18 13 true true) ∧
    decodeTableWord 32 0b1101101_01001_10010_01101_1_1_10010000 = some (.amoCas 9 18 13 true true) ∧
    decodeTableWord 32 0b1101110_01001_10010_01101_1_01_000_1001 = some (.amoFadd 9 18 13 true .f64 0x9) ∧
    decodeTableWord 32 0b1101110_01001_10010_01101_1_01_001_1001 = some (.amoFmin 9 18 13 true .f64 0x9) ∧
    decodeTableWord 32 0b1101110_01001_10010_01101_1_01_010_1001 = some (.amoFmax 9 18 13 true .f64 0x9) ∧
    decodeTableWord 32 0b1101111_01001_10010_01101_1_000000000 = some (.amoCas2 9 18 13 true) ∧
    decodeTableWord 32 0b1110000_01001_10010_01101_00_0011_0000 = some (.msg 9 18 13 3) ∧
    decodeTableWord 32 0b1110000_01001_10010_01101_01_0011_0000 = some (.mcast 9 18 13 3) := by decide +kernel

/-- CONT to POST (R161, R154, R155, R156, R157, R158, R159). -/
theorem test_decode_10 :
    decodeTableWord 32 0b1110000_01001_10010_01101_10_0011_0000 = some (.cont 9 18 13 3) ∧
    decodeTableWord 32 0b111000100000_10010_000000000_100101 = some (.bind 18 0x25) ∧
    decodeTableWord 32 0b11100010000000000100000000_100101 = some (.unbind 0x25) ∧
    decodeTableWord 32 0b1110010_01001_10010_01101_0000000000 = some (.hstart 9 18 13) ∧
    decodeTableWord 32 0b1110010_01001_10010_01101_0000000001 = some (.pair 9 18 13) ∧
    decodeTableWord 32 0b1110010_01001_10010_000000000000010 = some (.hwait 9 18) ∧
    decodeTableWord 32 0b111001000000_10010_000000000000011 = some (.hkill 18) ∧
    decodeTableWord 32 0b111001100000_10010_000000000000000 = some (.wany 18) ∧
    decodeTableWord 32 0b111001100000_10010_000000000000001 = some (.wall 18) ∧
    decodeTableWord 32 0b1110011_01001_10010_000000000000010 = some (.ffr 9 18) ∧
    decodeTableWord 32 0b111001100000_10010_000000000000011 = some (.tclr 18) ∧
    decodeTableWord 32 0b111010000000_10010_000000000000000 = some (.post 18) := by decide +kernel

/-- GRAB to VSHL (R159, R160, R165). -/
theorem test_decode_11 :
    decodeTableWord 32 0b1110100_01001_00000000000000000001 = some (.grab 9) ∧
    decodeTableWord 32 0b111010100000000000000000_10000001 = some (.bar 0x81) ∧
    decodeTableWord 32 0b111010100000_10010_1000000_10000001 = some (.barAdd 18 0x81) ∧
    decodeTableWord 32 0b1110110_01001_01101_00110_101_001_0000 = some (.vadd 9 13 6 5 .n8) ∧
    decodeTableWord 32 0b1110110_01001_01101_00110_101_001_0001 = some (.vsub 9 13 6 5 .n8) ∧
    decodeTableWord 32 0b1110110_01001_01101_00110_101_001_0010 = some (.vmul 9 13 6 5 .n8) ∧
    decodeTableWord 32 0b1110110_01001_01101_00110_101_001_0011 = some (.vmin 9 13 6 5 .n8) ∧
    decodeTableWord 32 0b1110110_01001_01101_00110_101_001_0100 = some (.vmax 9 13 6 5 .n8) ∧
    decodeTableWord 32 0b1110110_01001_01101_00110_101_001_0101 = some (.vand 9 13 6 5 .n8) ∧
    decodeTableWord 32 0b1110110_01001_01101_00110_101_001_0110 = some (.vor 9 13 6 5 .n8) ∧
    decodeTableWord 32 0b1110110_01001_01101_00110_101_001_0111 = some (.vxor 9 13 6 5 .n8) ∧
    decodeTableWord 32 0b1110110_01001_01101_00110_101_001_1000 = some (.vshl 9 13 6 5 .n8) := by decide +kernel

/-- VSHR to VFMA (R165, R166). -/
theorem test_decode_12 :
    decodeTableWord 32 0b1110110_01001_01101_00110_101_001_1001 = some (.vshr 9 13 6 5 .n8) ∧
    decodeTableWord 32 0b1110110_01001_01101_00000_101_100_1010 = some (.vabs 9 13 5 .i64) ∧
    decodeTableWord 32 0b1110110_01001_01101_00000_101_100_1011 = some (.vneg 9 13 5 .i64) ∧
    decodeTableWord 32 0b1110110_01001_01101_00110_101_001_1100 = some (.vadds 9 13 6 5 .n8) ∧
    decodeTableWord 32 0b1110110_01001_01101_00110_101_001_1101 = some (.vsubs 9 13 6 5 .n8) ∧
    decodeTableWord 32 0b1110110_01001_01101_00110_101_001_1110 = some (.vmulh 9 13 6 5 .n8) ∧
    decodeTableWord 32 0b1110110_01001_01101_00110_101_001_1111 = some (.vavg 9 13 6 5 .n8) ∧
    decodeTableWord 32 0b1110111_01001_01101_00110_101_001_0000 = some (.vfadd 9 13 6 5 .f32) ∧
    decodeTableWord 32 0b1110111_01001_01101_00110_101_001_0001 = some (.vfsub 9 13 6 5 .f32) ∧
    decodeTableWord 32 0b1110111_01001_01101_00110_101_001_0010 = some (.vfmul 9 13 6 5 .f32) ∧
    decodeTableWord 32 0b1110111_01001_01101_00110_101_001_0011 = some (.vfdiv 9 13 6 5 .f32) ∧
    decodeTableWord 32 0b1110111_01001_01101_00110_101_001_0100 = some (.vfma 9 13 6 5 .f32) := by decide +kernel

/-- VFMIN to VPERM (R166, R167, R168, R169, R170). -/
theorem test_decode_13 :
    decodeTableWord 32 0b1110111_01001_01101_00110_101_001_0101 = some (.vfmin 9 13 6 5 .f32) ∧
    decodeTableWord 32 0b1110111_01001_01101_00110_101_001_0110 = some (.vfmax 9 13 6 5 .f32) ∧
    decodeTableWord 32 0b1110111_01001_01101_00000_101_001_0111 = some (.vfabs 9 13 5 .f32) ∧
    decodeTableWord 32 0b1110111_01001_01101_00000_101_001_1000 = some (.vfneg 9 13 5 .f32) ∧
    decodeTableWord 32 0b1110111_01001_01101_00000_101_001_1001 = some (.vfsqrt 9 13 5 .f32) ∧
    decodeTableWord 32 0b1111000_00101_01101_00110_011_001_0_010 = some (.vcmp 5 13 6 3 .n8 .lt) ∧
    decodeTableWord 32 0b1111000_00101_01101_00110_011_001_1001 = some (.vfcmp 5 13 6 3 .f32 .le) ∧
    decodeTableWord 32 0b1111000_01001_01101_00110_101_001_1100 = some (.vsel 9 13 6 5 .n8) ∧
    decodeTableWord 32 0b1111000_00101_00011_00110_0000001101 = some (.pand 5 3 6) ∧
    decodeTableWord 32 0b1111000_00101_00011_00110_0000001110 = some (.por 5 3 6) ∧
    decodeTableWord 32 0b1111000_00101_00011_00110_0000001111 = some (.pxor 5 3 6) ∧
    decodeTableWord 32 0b1111001_01001_01101_00110_101_001_0000 = some (.vperm 9 13 6 5 .n8) := by decide +kernel

/-- VBCAST to VMXD (R170, R171, R100, R173, R174, R175). -/
theorem test_decode_14 :
    decodeTableWord 32 0b1111001_01001_10010_00000_101_001_0001 = some (.vbcast 9 18 5 .n8) ∧
    decodeTableWord 32 0b1111001_01001_10010_01101_101_001_0010 = some (.vins 9 18 13 5 .n8) ∧
    decodeTableWord 32 0b1111001_01001_01101_00110_000_001_0011 = some (.vext 9 13 6 .n8) ∧
    decodeTableWord 32 0b1111001_01001_01101_00000_101_001_0100 = some (.vredadd 9 13 5 .n8) ∧
    decodeTableWord 32 0b1111001_01001_01101_00000_101_001_0101 = some (.vredmin 9 13 5 .n8) ∧
    decodeTableWord 32 0b1111001_01001_01101_00000_101_001_0110 = some (.vredmax 9 13 5 .n8) ∧
    decodeTableWord 32 0b1111001_01001_01101_00000_101_001_0111 = some (.vfredadd 9 13 5 .f32) ∧
    decodeTableWord 32 0b1111001_01001_01101_00000_101_001_1000 = some (.vfredmin 9 13 5 .f32) ∧
    decodeTableWord 32 0b1111001_01001_01101_00000_101_001_1001 = some (.vfredmax 9 13 5 .f32) ∧
    decodeTableWord 32 0b1111010_01001_01101_00010_00001_00000 = some (.vcvt 9 13 .f16 .f32) ∧
    decodeTableWord 32 0b1111010_01001_01100_00100_00001_00001 = some (.vmxq 9 12 .e4m3 .f32) ∧
    decodeTableWord 32 0b1111010_01000_00101_00010_00110_00010 = some (.vmxd 8 5 .f16 .e2m3) := by decide +kernel

/-- VLD to EPUSH (R176, R178, R180, R186, R187, R188, R190). -/
theorem test_decode_15 :
    decodeTableWord 32 0b1111011_01001_10010_000_101_100000001 = some (.vld 9 18 5 0x101) ∧
    decodeTableWord 32 0b1111011_01001_10010_001_101_100000001 = some (.vst 9 18 5 0x101) ∧
    decodeTableWord 32 0b1111011_01001_10010_010_0110_101_010_00 = some (.vgather 9 18 6 5 2) ∧
    decodeTableWord 32 0b1111011_01001_10010_011_0110_101_010_00 = some (.vscatter 9 18 6 5 2) ∧
    decodeTableWord 32 0b1111100_10010_0011_0101_000000000000 = some (.vloop 18 0x3 0x5 0x000) ∧
    decodeTableWord 32 0b1111101_01001_10010_01101_000_000_0_000 = some (.tld 9 18 13 0 false) ∧
    decodeTableWord 32 0b1111101_01001_10010_01101_001_000_0_000 = some (.tst 9 18 13 0 false) ∧
    decodeTableWord 32 0b111110100000_10010_01101_010_101_0000 = some (.tqDef 18 13 5) ∧
    decodeTableWord 32 0b11111010000000000_01101_011_101_0000 = some (.tqAdv 13 5) ∧
    decodeTableWord 32 0b11111010000000000_01101_100_101_0000 = some (.tqRel 13 5) ∧
    decodeTableWord 32 0b11111010000000000_01101_101_101_0000 = some (.tqWait 13 5) ∧
    decodeTableWord 32 0b111111000000_10010_01_000_1_000000000 = some (.epush 18 1 true) := by decide +kernel

/-- EPOP to C_LI (R193, R194, R195, R358, R214, R364, R215, R71). -/
theorem test_decode_16 :
    decodeTableWord 32 0b1111110_01001_00000_01_0010000000000 = some (.epop 9 1) ∧
    decodeTableWord 32 0b1111110_01001_00000_01_0100000000000 = some (.estat 9 1) ∧
    decodeTableWord 32 0b1111110_01001_10010_00011_1_1001_00000 = some (.aget 9 18 true 0x9) ∧
    decodeTableWord 32 0b111111100000_10010_01101_0000000000 = some (.shufOpen 18 13) ∧
    decodeTableWord 32 0b111111100000_10010_01101_0000000001 = some (.shufHold 18 13) ∧
    decodeTableWord 32 0b11111110000000000_01101_0000000010 = some (.shufClose 13) ∧
    decodeTableWord 32 0b1111111_01001_00000_01101_0000000011 = some (.shufStat 9 13) ∧
    decodeTableWord 16 0b00000_1001_1000001 = some (.cAddi 0x9 0x41) ∧
    decodeTableWord 16 0b00001_1001_0110_000 = some (.cMov 0x9 0x6) ∧
    decodeTableWord 16 0b00010_1001_0110_000 = some (.cAdd 0x9 0x6) ∧
    decodeTableWord 16 0b00011_1001_0110_000 = some (.cSub 0x9 0x6) ∧
    decodeTableWord 16 0b00100_1001_1000001 = some (.cLi 0x9 0x41) := by decide +kernel

/-- C_LD_D to C_NOP (R71). -/
theorem test_decode_17 :
    decodeTableWord 16 0b00101_011_110_10011 = some (.cLdD 0x3 0x6 0x13) ∧
    decodeTableWord 16 0b00110_011_110_10011 = some (.cStD 0x3 0x6 0x13) ∧
    decodeTableWord 16 0b00111_011_110_10011 = some (.cLdW 0x3 0x6 0x13) ∧
    decodeTableWord 16 0b01000_011_110_10011 = some (.cStW 0x3 0x6 0x13) ∧
    decodeTableWord 16 0b01001_01001_100101 = some (.cLdsp 9 0x25) ∧
    decodeTableWord 16 0b01010_01001_100101 = some (.cStsp 9 0x25) ∧
    decodeTableWord 16 0b01011_10000000001 = some (.cB 0x401) ∧
    decodeTableWord 16 0b01100_110_10000001 = some (.cBeqz 0x6 0x81) ∧
    decodeTableWord 16 0b01101_110_10000001 = some (.cBnez 0x6 0x81) ∧
    decodeTableWord 16 0b0111000000000000 = some .cRet ∧
    decodeTableWord 16 0b0111100000000000 = some .cNop := by decide +kernel

/-! ### Words the spec writes out -/

/-- The encodings that the rules give as examples (R105, R121, R134, R133, R141, R147, R149, R153, R154, R160). -/
theorem test_words_of_the_spec :
    decodeTableWord 32 0x82A00000 = some (.addi 10 0 0) ∧ decodeTableWord 32 0xB2500020 = some (.rdst 5 0x020) ∧
    decodeTableWord 32 0xB2031010 = some (.wrst 6 0x010) ∧ decodeTableWord 32 0xC0B4B000 = some (.ld 11 9 .d 0) ∧
    decodeTableWord 32 0xC254B010 = some (.st 5 9 .d 16) ∧ decodeTableWord 32 0xD2A4B000 = some (.split 10 9 12) ∧
    decodeTableWord 32 0xD8548000 = some (.take 5 9 0) ∧ decodeTableWord 32 0xD8549000 = some (.put 5 9 0 false) ∧
    decodeTableWord 32 0xD854D000 = some (.put 5 9 0 true) ∧ decodeTableWord 32 0xDA649D00 = some (.amoAdd 6 9 7 false true) ∧
    decodeTableWord 32 0xE0C0B420 = some (.msg 12 1 13 2) ∧ decodeTableWord 32 0xE2050005 = some (.bind 10 5) ∧
    decodeTableWord 32 0xE2004005 = some (.unbind 5) ∧ decodeTableWord 32 0xEA000003 = some (.bar 3) ∧
    decodeTableWord 32 0xEA02C003 = some (.barAdd 5 3) := by decide +kernel

/-- More of them (R165 to R175, R186, R303, R387). -/
theorem test_vector_words_of_the_spec :
    decodeTableWord 32 0xEC321500 = some (.vadd 3 4 5 2 .i8) ∧ decodeTableWord 32 0xEE208014 = some (.vfma 2 1 0 0 .f32) ∧
    decodeTableWord 32 0xF0110C18 = some (.vfcmp 1 2 3 0 .f32 .lt) ∧ decodeTableWord 32 0xF2068041 = some (.vbcast 0 13 0 .i64) ∧
    decodeTableWord 32 0xF4428C20 = some (.vcvt 4 5 .bf16 .f32) ∧ decodeTableWord 32 0xF4642021 = some (.vmxq 6 8 .e2m1 .f32) ∧
    decodeTableWord 32 0xFA04B008 = some (.tld 0 9 12 0 true) ∧ decodeTableWord 32 0xFAE43080 = some (.tst 14 8 12 0 false) ∧
    decodeTableWord 32 0xB2029030 = some (.wrst 5 0x030) ∧ decodeTableWord 32 0xB45000A1 = some (.rdcnt 5 0x0A1) := by decide +kernel

/-- Patterns that are no instruction (R50, R57, R61, R69). -/
theorem test_patterns_that_are_none :
    decodePattern 4 0x96000000 = .error .reservedMajor ∧
    -- cset of FIELD 4
    (decodePattern 4 0b1101010_01001_10010_01101_000_0100_001).isOk = false ∧
    -- vcmp into p8
    (decodePattern 4 0b1111000_01000_01101_00110_011_001_0_010).isOk = false ∧
    -- vadd of type 7
    (decodePattern 4 0b1110110_01001_01101_00110_101_111_0000).isOk = false := by decide +kernel

/-! ### Terms that are no instruction -/

/-- Stores take no zero-extending size (R55). -/
theorem test_wf_stores : Instr.wf (.st 1 2 .bz 0) = false ∧ Instr.wf (.stx 1 2 3 .wz 0) = false := by decide

/-- Streams bind c24 to c27 (R56). -/
theorem test_wf_streams : Instr.wf (.sbind 23 1 2 true 0) = false ∧ Instr.wf (.sbind 28 1 2 true 0) = false ∧
    Instr.wf (.sunbind 28) = false := by decide

/-- `cset` sets restriction bits or the cursor (R57). -/
theorem test_wf_cset : Instr.wf (.cset 1 2 3 .gen) = false := by decide

/-- Controls of a floating atomic stand under OVR (R58). -/
theorem test_wf_atomics : Instr.wf (.amoFadd 1 2 3 false .f32 4) = false ∧ Instr.wf (.amoFmin 1 2 3 false .f32 1) = false ∧
    Instr.wf (.amoFmax 1 2 3 false .f32 2) = false := by decide

/-- Payload registers stay within c31, and c0 is named when there are none (R59). -/
theorem test_wf_payload : Instr.wf (.msg 1 31 2 2) = false ∧ Instr.wf (.mcast 1 5 2 0) = false ∧
    Instr.wf (.cont 1 30 2 3) = false := by decide

/-- Argument groups, work pairs and command groups stay within the registers (R59, R66). -/
theorem test_wf_groups : Instr.wf (.hstart 1 2 29) = false ∧ Instr.wf (.pair 1 2 31) = false ∧ Instr.wf (.post 31) = false ∧
    Instr.wf (.post 0) = false ∧ Instr.wf (.grab 0) = false ∧ Instr.wf (.grab 31) = false ∧ Instr.wf (.epush 0 1 false) = false ∧
    Instr.wf (.epush 29 1 false) = false := by decide

/-- Types that vector instructions do not take (R61, R62). -/
theorem test_wf_vector_types : Instr.wf (.vabs 1 2 0 .n8) = false ∧ Instr.wf (.vneg 1 2 0 .n64) = false ∧
    Instr.wf (.vcmp 1 2 3 0 .n4 .eq) = false ∧ Instr.wf (.vcvt 1 2 .e2m1 .f32) = false ∧ Instr.wf (.vcvt 1 2 .f32 .mxi8) = false ∧
    Instr.wf (.vcvt 1 2 .f32 .f32) = false ∧ Instr.wf (.vmxq 1 2 .f16 .f32) = false ∧ Instr.wf (.vmxq 1 2 .e2m1 .f64) = false ∧
    Instr.wf (.vmxq 1 2 .e2m1 .f32) = false ∧ Instr.wf (.vmxq 15 4 .e2m1 .f32) = false ∧ Instr.wf (.vmxd 1 2 .f32 .e2m1) = false ∧
    Instr.wf (.vmxd 4 15 .f32 .e2m1) = false := by decide

/-- A loop count stands in one place; QM puts zero in the unused tile field; a compact increment has a register (R64, R65, R71). -/
theorem test_wf_loop_tile_compact : Instr.wf (.vloop 3 1 0 5) = false ∧ Instr.wf (.tld 1 2 3 0 true) = false ∧
    Instr.wf (.tld 1 2 3 4 false) = false ∧ Instr.wf (.tst 1 2 3 0 true) = false ∧ Instr.wf (.tst 1 2 3 4 false) = false ∧
    Instr.wf (.cAddi 0 5) = false := by decide

/-- Steps name cores, clusters, slots, ports and functions that exist (R12, R14, R17, R343, R370). -/
theorem test_wf_names : Instr.wf (.mma 24 []) = false ∧ Instr.wf (.copy 8192 none) = false ∧ Instr.wf (.loadReply 0 16 .level) = false ∧
    Instr.wf (.storeDrain (48 * 32) 0) = false ∧ Instr.wf (.sweepVisit 48) = false ∧ Instr.wf (.launch 64) = false ∧
    Instr.wf (.nak 8 0) = false ∧ Instr.wf (.widthChange 0 5) = false ∧ Instr.wf (.eccUncorr 5 0 0 0) = false ∧
    Instr.wf (.tdiStateChange 0 1) = false ∧ Instr.wf (.doorbellTag 0 16 (2 ^ 63)) = false ∧ Instr.wf (.doorbellMessage 0 0 (2 ^ 63)) = false ∧
    Instr.wf (.linkGroupReceive 0 [] 0) = false ∧ Instr.wf (.thermalSample 4 0) = false := by decide +kernel

/-! ### Small states -/

/-- The strand of core 0 at an instruction, with registers (log 6). -/
def given (i : Instr) (rs : Tab CReg) : State :=
  let p := (encodePattern i).getD (0, 0)
  (State.reset.withFetchWord (8 * p.1) p.2).modCur (fun t => { t with c := rs })

/-- An untagged register value. -/
def num (x : Nat) : CReg := word128 (.ofNat 128 x)

/-- An untagged register value that holds an integer in 64 bits. -/
def int (x : Int) : CReg := word64 (.ofInt 64 x)

/-- What a property of the state after one step is; none when the step does not go on. -/
def after {α : Type} (s : State) (f : State → α) : Option α :=
  match step s with
  | .next t => some (f t)
  | .fault _ => none
  | .refused _ => none

/-- A live object of 256 bytes at 0x400 of the LS of core 0, 5 (R219), with its pool 9. -/
def live (level len base pool : Nat) : Obj :=
  { Obj.free with gen := 7, level := level, entKind := 1, length := len, base := base, poolId := pool, held := 65536 }

/-- A pool of a level. -/
def poolOf (level len : Nat) : Obj := { Obj.free with gen := 3, level := level, entKind := 2, length := len }

/-- The objects of the tests: 5 in LS, 7 in CS, 8 in HBM, 12 in TS, 15 of SYNC words in LS, 22 REMOTE, 24 HOST, and their pools. -/
def shelf : Tab Obj :=
  [(5, live 0 256 0x400 9), (7, live 2 256 0x400 11), (8, live 3 4096 0x10000 14), (9, poolOf 0 65536), (11, poolOf 2 (2 ^ 20)),
   (12, live 1 1024 0x400 13), (13, poolOf 1 65536), (14, poolOf 3 (2 ^ 20)), (15, { live 0 256 0x800 9 with entKind := 3 }),
   (22, { live 5 4096 0 0 with homeDev := 4, homeObj := 99, homeGen := 3 }), (24, live 4 300 0 0)]

/-- A port of core 0 in context 0 for the classes from lo to hi. -/
def portTo (core lo hi : Nat) : CReg :=
  ⟨.ofNat 128 (7 * 2 ^ 124 + core * 2 ^ 74 + lo * 2 ^ 42 + hi * 2 ^ 36), true⟩

/-- The registers of the tests: capabilities of the shelf, a port, a header, numbers. -/
def hand : Tab CReg :=
  [(1, mkCap 0 0 0 7 5 0), (2, num 16), (3, num 3), (4, mkCap 4 0 0 3 9 0), (5, mkCap 1 0 300 7 5 0), (6, mkCap 1 0 65236 7 5 0),
   (7, mkCap 2 0 0 7 15 0), (8, portTo 0 3 9), (9, num 5), (10, mkCap 0 0 0 7 12 0), (11, mkCap 3 0 0 1 0 0), (12, mkCap 0 0 0 7 8 0),
   (13, mkCap 0 0 0 7 7 0), (15, mkCap 0 0 0 7 8 0x1000), (29, mkCap 0 0 0 7 5 0), (31, mkCap 3 0 0 1 0 0)]

/-- The strand of core 0 at `nop` with the hand and the shelf, the matrix unit held, and a page of HBM in the TLB. -/
def board : State :=
  let s := (given .nop hand).modCore 0 (fun c =>
    { c with tlb := ⟨0, 0x10000, 65536, 0, 0x40000⟩ :: c.tlb, holder := some 0, checkCache := c.checkCache ++ shelf.map (fun p => p.1) })
  { s with objs := s.objs ++ shelf, time := 100 }

/-- The board with objects that another context owns: accesses to them are not checked for races (R303). -/
def yard : State := { board with objs := board.objs.map (fun p => (p.1, { p.2 with ownCtx := 3 })) }

/-- A command of the domain of core 0, with its leave. -/
def order (h : Nat) (x y z : CReg) : Cmd :=
  { asid := 0, slot := 0, seq := 9, h := num h, x := x, y := y, z := z, clk := ⟨0, []⟩, pc := 0, code := CReg.zero, done := none, leave := 2,
    stopped := false, kind := 0, born := 0, since := 50, sent := false }

/-! ### One step -/

/-- A register after one step. -/
def reg (s : State) (k : Nat) : Option CReg := after s (fun t => t.cur.reg k)

/-- R109: 7 / −2 = −3 and its remainder 1; −7 / 2 = −3. -/
theorem test_division :
    reg (given (.div 3 1 2) [(1, int 7), (2, int (-2))]) 3 = some (int (-3)) ∧
    reg (given (.remS 3 1 2) [(1, int 7), (2, int (-2))]) 3 = some (int 1) ∧
    reg (given (.div 3 1 2) [(1, int (-7)), (2, int 2)]) 3 = some (int (-3)) ∧
    reg (given (.remS 3 1 2) [(1, int (-7)), (2, int 2)]) 3 = some (int (-1)) := by decide +kernel

/-- R109: the high half of the square of the largest number, and −1 × −1 in 128 bits. -/
theorem test_products :
    reg (given (.mulhn 3 1 1) [(1, int (-1))]) 3 = some (int (-2)) ∧
    reg (given (.mulx 3 1 1) [(1, int (-1))]) 3 = some (num 1) := by decide +kernel

/-- R110: 8 bits from position 8, and a field that the end of the register cuts to 4 bits. -/
theorem test_bext :
    reg (given (.bext 3 1 2) [(1, num 0xABCD00), (2, num 0x0808)]) 3 = some (num 0xCD) ∧
    reg (given (.bext 3 1 2) [(1, num 0xA234567890ABCDEF), (2, num (0x0800 + 60))]) 3 = some (num 0xA) := by decide +kernel

/-- R108: the constant of the example, and a write to c0 that is discarded (R23). -/
theorem test_constants :
    reg (given (.lkS 7 2 1) []) 7 = some (num 0x100000000) ∧ reg (given (.addi 0 0 5) []) 0 = some (num 0) := by decide +kernel

/-- R104: an add wraps at 64 bits and clears the high half (R24). -/
theorem test_add_wraps : reg (given (.add 1 1 2) [(1, num (2 ^ 64 + 2 ^ 64 - 1)), (2, num 2)]) 1 = some (num 1) := by decide +kernel

/-- R114, R117: a branch goes back by 2 × k; a count that reaches zero falls through. -/
theorem test_branches :
    after (given (.b 5) []) (fun t => t.cur.pc) = some 10 ∧
    after (given (.dbnz 1 8) [(1, num 1)]) (fun t => (t.cur.pc, t.cur.reg 1)) = some (4, num 0) ∧
    after (given (.dbnz 1 8) [(1, num 2)]) (fun t => (t.cur.pc, t.cur.reg 1)) = some (16, num 1) := by decide +kernel

/-- R69, R119: a reserved major and a trap freeze with their codes. -/
theorem test_faults :
    after (State.reset.withFetchWord 32 0x96000000) (fun t => (t.cur.state, t.cur.lastCode)) = some (.frozen, 0x01) ∧
    after (given (.trap 7) []) (fun t => (t.cur.state, t.cur.lastCode)) = some (.frozen, 0x17) ∧
    after (given (.ld 3 1 .d 0) [(1, num 5)]) (fun t => (t.cur.state, t.cur.lastCode)) = some (.frozen, 0x02) := by decide +kernel

/-- R310's example: 0x12 in RACECTL selects reporting only and clears LOSS. -/
theorem test_racectl :
    after ((given (.wrst 5 0x030) [(5, num 0x12)]).modCurDom (fun d => { d with loss := true })) (fun t => (t.dom.mode, t.dom.loss)) =
      some (2, false) := by decide +kernel

/-- A vector register whose byte 0 is given. -/
def lane0 (x : Nat) : Tab VReg := [(4, .ofNat 256 x)]

/-- R165's examples: saturation of 100 + 100 as `i8` and as `n8`, and the absolute value of 0x8 as `i4`. -/
theorem test_vector_examples :
    (after ((given (.vadds 3 4 4 0 .i8) []).modCur (fun t => { t with v := lane0 100, p := [(0, 1)] })) (fun t => t.cur.vreg 3)) =
      some 127 ∧
    (after ((given (.vadds 3 4 4 0 .n8) []).modCur (fun t => { t with v := lane0 100, p := [(0, 1)] })) (fun t => t.cur.vreg 3)) =
      some 200 ∧
    (after ((given (.vabs 3 4 0 .i4) []).modCur (fun t => { t with v := lane0 8, p := [(0, 1)] })) (fun t => t.cur.vreg 3)) =
      some 8 := by decide +kernel

/-- R169's example: 64-bit copies of a pair of floats reach all four lanes. -/
theorem test_vbcast :
    after ((given (.vbcast 0 13 0 .i64) [(13, num 0x4000000040000000)]).modCur (fun t => { t with p := [(0, 0xFFFFFFFF)] }))
      (fun t => t.cur.vreg 0) =
      some 0x4000000040000000400000004000000040000000400000004000000040000000 := by decide +kernel

/-- R14: core 15 of cluster 37 on die 2 is 0x14AF. -/
theorem test_core_identifier : coreOk 0x14AF = true ∧ clusterOf 0x14AF = 2 * 64 + 37 := by decide +kernel

/-- The step that a store of one byte takes: it waits in the store buffer (R131). -/
theorem test_store_is_buffered :
    after (State.modCur { board with mem := Memory.write board.mem hbmBase (wordBytes (((encodePattern (.st 2 1 .b 3)).getD (0, 0)).2)) } id)
      (fun t => (t.cur.sbuf.map (fun e => (e.addr, e.bytes)), Memory.get t.mem (lsBase 0 + 0x403))) =
      some ([(lsBase 0 + 0x403, [some 16])], 0) := by decide +kernel

/-- Resting steps of the table run from the agenda (R8). -/
theorem test_agenda :
    after { board with agenda := [.event (.thermalSample 0 110)] } (fun t => (t.booted, t.out)) = some (false, [.report 0x81 0]) ∧
    after { board with agenda := [.event (.launch 64)] } (fun t => t.out) = some [] := by decide +kernel

/-! ### States that meet the hypotheses of the statements -/

/-- Accesses that the race check does not cover make no race. -/
theorem ordered_of_unchecked {s : State} {p : Party} {o : Nat} (h : s.checks p o = false) : s.ordered p o := by
  intro loc a w
  simp [State.raceAt, h]

/-- What holds of every listed value holds of the one under a key. -/
theorem lookT_all {α : Type} {f : α → Bool} : ∀ {l : Tab α} {k : Nat} {x : α}, l.all (fun p => f p.2) = true → lookT l k = some x → f x = true
  | [], _, _, _, h => by simp [lookT] at h
  | (j, y) :: t, k, x, ha, h => by
    simp only [List.all_cons, Bool.and_eq_true] at ha
    simp only [lookT] at h
    split at h
    · cases h
      exact ha.1
    · exact lookT_all ha.2 h

/-- Whether a strand waits at a barrier. -/
def atBarrier (t : Slot) : Bool := match t.state with
  | .wait (.barrier _ _) => true
  | _ => false

/-- Where no listed strand waits at a barrier, the premise holds that those who do have nothing pending. -/
theorem settled_of_listed {s : State} (h : s.cores.all (fun k => k.2.slots.all (fun t => !atBarrier t.2)) = true) (c i n m : Nat)
    (hs : (s.slotAt c i).state = .wait (.barrier n m)) : (s.slotAt c i).pend = .none := by
  have hn : atBarrier (s.slotAt c i) = false := by
    unfold State.slotAt State.coreAt Core.slotAt
    cases hc : lookT s.cores c with
    | none => simp [Core.reset, lookT, Slot.vacant, atBarrier]
    | some k =>
      have hk := lookT_all (f := fun k => k.slots.all (fun t => !atBarrier t.2)) h hc
      cases ht : lookT k.slots i with
      | none => simp [ht, Slot.vacant, atBarrier]
      | some t => simpa [ht] using lookT_all (f := fun t => !atBarrier t) hk ht
  rw [atBarrier, hs] at hn
  cases hn

/-- EncodingsDecodeBack, and DecodedPatternsEncodeBack at the ends of both ranges. -/
theorem witness_encodings :
    (Instr.wf (.addi 10 0 0) = true ∧ encode (.addi 10 0 0) = some [0xA0, 0x82, 0x00, 0x00]) ∧
    (Instr.wf .cNop = true ∧ encode .cNop = some [0x00, 0x78]) ∧
    decodePattern 2 (2 ^ 15 - 2 ^ 11) = .ok .cNop ∧ decodePattern 4 (2 ^ 31) = .ok (.add 0 0 0) ∧
    (decodePattern 4 0xFAE43080).isOk = true := by decide +kernel

/-- StepRunsDecodedInstruction: a slot that issues in this cycle, one that issues in the next, and one that takes its instruction up
again. -/
theorem witness_step_runs :
    let s := given (.add 3 1 2) hand
    let late := s.modCur (fun t => { t with opening := 0x020 })
    let redo := s.modCur (fun t => { t with again := true, insn := 0x80308800 })
    let issues (u : State) : Bool :=
      let v := u.choose 0 0
      u.redoSlot 0 == none && u.pickSlot 0 == some 0 && u.mayIssue 0 && (u.slotAt 0 0).region == none &&
      (match fetch.run ⟨v, v, []⟩ with
        | .ok x => x.1 == (4, 0x80308800) && x.2.st.missing 0 0 4 == [] && x.2.st.cur.loop == none
        | .error _ => false)
    s.core = 0 ∧ s.agenda = [] ∧ coreOk 0 = true ∧ issues s = true ∧ decodePattern 4 0x80308800 = .ok (.add 3 1 2) ∧
    (late.core = 0 ∧ late.agenda = [] ∧ late.redoSlot 0 = none ∧ late.pickSlot 0 = none ∧ issues (late.cycles 1) = true) ∧
    (redo.core = 0 ∧ redo.agenda = [] ∧ redo.redoSlot 0 = some 0 ∧ redo.running 0 = true ∧ (redo.slotAt 0 0).insn = 0x80308800 ∧
      (redo.slotAt 0 0).loop = none ∧ decodePattern (if 0x80308800 < 2 ^ 15 then 2 else 4) 0x80308800 = .ok (.add 3 1 2)) := by
  decide +kernel

/-- The statements of calm strands with no stream: RegisterOperationsResults to StateRegistersWrite, CompactArithmeticResults,
TagsAndWorkLists and BarriersGatherTheirGroup among them. -/
theorem witness_calm : board.calm ∧ board.alone ∧ board.vectorFree ∧ board.unbound [0, 1, 2, 3, 12, 29, 31] ∧
    board.unbound [cr3 7, cr4 15] ∧ board.waiters = [] ∧ board.cur.stochastic = false := by
  simp only [State.calm, State.alone, State.vectorFree, State.unbound]
  and_intros <;> decide +kernel

/-- CapabilityBranchesEnterTheirTarget: a checked target, and an untagged one. -/
theorem witness_capability_branches :
    board.passes .fetch (board.cur.reg 31) 0 2 2 ∧ board.liesAt 0 0 hbmBase ∧ (board.cur.reg 2).tag = false := by
  simp only [State.passes, State.liesAt]
  and_intros <;> decide +kernel

/-- StrandControlEffects: `brk` with the trigger off; the end of a control strand, and of a helper with a handle. -/
theorem witness_strand_control :
    let s := given .endStrand [(1, num 7)]
    let h := (s.modCur (fun t => { t with kind := 1, serial := 3 })).modCurDom (fun d => { d with handles := [⟨3, false, 0, none⟩] })
    let ends (s : State) : Bool := s.cur.frame == none && s.cur.region == none && s.cur.sbuf == [] && s.cur.wrote == [] &&
      s.cur.c.all (fun p => !isShade p.2) && !s.mustRebase s.core s.slot
    ((s.clusterAt 0).arm && (s.clusterAt 0).onBreak) = false ∧ ends s = true ∧ ends h = true ∧ h.cur.kind = 1 ∧
    h.hasDom h.core h.cur.asid = true ∧ h.dom.handles.map (fun x => x.serial) = [h.cur.serial] := by decide +kernel

/-- StateRegistersWrite: the largest legal rounding mode, and one above it. -/
theorem witness_state_registers :
    ((5 : BitVec 64) &&& 7 ≤ 4) = false ∧ ((4 : BitVec 64) &&& 7 ≤ 4) = true ∧ (4 : BitVec 64).getLsbD 4 = false := by decide

/-- RemoteRegionsOpenAndClose: outside a region, and in one that is empty, whose handler is the first and the last address of the
code. -/
theorem witness_regions :
    let r (x : Int) : Region := ⟨[(1, num 3)], [], mkCap 3 0 0 1 0 0, 0, 8, 0, 0, x, 5, [], none, none⟩
    let s (x : Int) : State := board.modCur (fun t => { t with region := some (r x) })
    board.cur.region = none ∧ (∀ x ∈ [(0 : Int), 65534], (s x).cur.region = some (r x) ∧ (r x).buf = [] ∧ (s x).cur.sbuf = [] ∧
      (s x).owesRemote 0 (s x).cur.born = false ∧ 0 ≤ (r x).target ∧ (r x).target + 2 ≤ ((s x).objAt (objOf (r x).code)).length) := by
  decide +kernel

/-- LoadsDeliverOrWait: the first and the last bytes of an object in LS at hand, and one in HBM that is not; offsets of a compact
form. -/
theorem witness_loads :
    let c := board.cur.reg 1
    let h := board.cur.reg 12
    (board.passes .load c 0 8 8 ∧ board.liesAt 5 0 (lsBase 0 + 0x400) ∧ board.raceFree c 0 (lsBase 0 + 0x400) 8 false ∧
      board.atHand 0 5 (lsBase 0 + 0x400) 8 = true) ∧
    (board.passes .load c 255 1 1 ∧ board.liesAt 5 255 (lsBase 0 + 0x4FF) ∧ board.raceFree c 255 (lsBase 0 + 0x4FF) 1 false) ∧
    (board.passes .load c (8 * 31) 8 8 ∧ board.passes .load c (4 * 31) 4 4 ∧ kindOf c ≠ 6) ∧
    (board.passes .load h 4080 16 16 ∧ board.liesAt 8 4080 (hbmBase + 0x40FF0) ∧
      board.raceFree h 4080 (hbmBase + 0x40FF0) 16 false ∧ board.atHand 0 8 (hbmBase + 0x40FF0) 16 = false) := by
  simp only [State.passes, State.liesAt, State.raceFree]
  and_intros <;> decide +kernel

/-- StoresEnterTheStoreBuffer, with room and with none. -/
theorem witness_stores :
    let c := board.cur.reg 1
    let e : StoreEntry := ⟨5, 0, lsBase 0 + 0x400, [some 1], none, 0, true⟩
    let full := board.modCur (fun t => { t with sbuf := List.replicate 8 e })
    (board.passes .store c 240 16 16 ∧ kindOf c ≠ 6 ∧ (board.objAt 5).ptab = false ∧ board.liesAt 5 240 (lsBase 0 + 0x4F0) ∧
      board.lineDue (isOwn c) 5 240 (lsBase 0 + 0x4F0) 16 = none ∧ board.raceFree c 240 (lsBase 0 + 0x4F0) 16 true ∧
      board.cur.sbuf.length < 8) ∧
    (full.calm ∧ full.alone ∧ full.unbound [1, 2] ∧ full.passes .store c 0 1 1 ∧ full.liesAt 5 0 (lsBase 0 + 0x400) ∧
      (full.objAt 5).ptab = false ∧ full.lineDue (isOwn c) 5 0 (lsBase 0 + 0x400) 1 = none ∧
      full.raceFree c 0 (lsBase 0 + 0x400) 1 true ∧ ¬ full.cur.sbuf.length < 8) := by
  simp only [State.calm, State.alone, State.unbound, State.passes, State.liesAt, State.raceFree]
  and_intros <;> decide +kernel

/-- A granule of LS that holds a SHADE. -/
def shaded : State :=
  { board with mem := Memory.write board.mem (lsBase 0 + 0x400) (leBytes 16 (board.cur.reg 5).val.toNat), tags := [(lsBase 0 + 0x400) / 16] }

/-- CapabilityLoadsAndStores: a plain granule, a SHADE through an OWN and through a SHADE, a granule that is not at hand; a
register that may be stored, and one with NOSEND that may not. -/
theorem witness_capability_moves :
    let c := board.cur.reg 1
    let x := lsBase 0 + 0x400
    let nosend := mkCap 0 4 0 7 12 0
    let t := board.modCur (fun t => t.setReg 3 nosend)
    (board.passes .capLoad c 0 16 16 ∧ kindOf c ≠ 6 ∧ board.liesAt 5 0 x ∧ board.cur.sbuf = [] ∧ board.raceFree c 0 x 16 false ∧
      board.raceFree c 0 x 16 true ∧ board.atHand 0 5 x 16 = true ∧ isShade (board.granuleSeen 0 5 x) = false) ∧
    (shaded.passes .capLoad c 0 16 16 ∧ shaded.liesAt 5 0 x ∧ shaded.raceFree c 0 x 16 true ∧ shaded.atHand 0 5 x 16 = true ∧
      isShade (shaded.granuleSeen 0 5 x) = true ∧ isOwn c = true) ∧
    (shaded.passes .capLoad (board.cur.reg 5) 0 16 16 ∧ isOwn (board.cur.reg 5) = false) ∧
    (board.passes .capLoad (board.cur.reg 12) 0 16 16 ∧ board.liesAt 8 0 (hbmBase + 0x40000) ∧
      board.raceFree (board.cur.reg 12) 0 (hbmBase + 0x40000) 16 true ∧ board.atHand 0 8 (hbmBase + 0x40000) 16 = false) ∧
    (board.cur.held = [] ∧ (board.objAt 5).ptab = false ∧ board.cur.sbuf.length < 8) ∧
    (board.passes .capStore c 240 16 16 ∧ board.liesAt 5 240 (lsBase 0 + 0x4F0) ∧ board.raceFree c 240 (lsBase 0 + 0x4F0) 16 true ∧
      board.lineDue (isOwn c) 5 240 (lsBase 0 + 0x4F0) 16 = none ∧
      (board.cur.reg 2).tag = false ∧ noSend (board.cur.reg 5) = false) ∧
    (nosend.tag = true ∧ noSend nosend = true ∧ t.takesNoSend (board.cur.reg 13) 0 = false ∧
      t.passes .capStore (board.cur.reg 13) 0 16 16 ∧ t.liesAt 7 0 (csBase 0 + 0x400) ∧ t.lineDue true 7 0 (csBase 0 + 0x400) 16 = none ∧
      t.raceFree (board.cur.reg 13) 0 (csBase 0 + 0x400) 16 true ∧
      t.cur.sbuf.length < 8) := by
  simp only [State.passes, State.liesAt, State.raceFree]
  and_intros <;> decide +kernel

/-- CapabilityChecksInOrder: a capability that stops at each check, at the ends of its range. -/
theorem witness_checks_in_order :
    let own := mkCap 0 0 0 7 5 0
    let e := board.objAt 5
    let perm (c : CReg) : Option Nat := permit .load c (board.objAt (objOf c)).level (board.mayDebug c) false
    board.remoteAccess own = false ∧ (num 16).tag = false ∧ wellFormed ⟨.ofNat 128 (15 * 2 ^ 124), true⟩ = false ∧
    (perm (mkCap 4 0 0 3 9 0)).isSome = true ∧ perm own = none ∧ genCurrent e (genOf (mkCap 0 0 0 6 5 0)) = false ∧
    genCurrent e 7 = true ∧ ((256 : Int) < 249 + 8 ∧ (248 : Int) + 8 ≤ e.length) ∧ (248 % 8 = 0 ∧ 244 % 8 ≠ 0) ∧
    ((board.modObj 5 (fun e => { e with poisoned := true })).objAt 5).poisoned = true ∧
    ((board.modObj 5 (fun e => { e with transit := true })).objAt 5).transit = true ∧ e.poisoned = false ∧ e.transit = false := by
  decide +kernel

/-- CapabilityChecksInOrder: an entry that the check cache of the core holds, and one that it does not. -/
theorem witness_check_cache :
    let away := board.modCore 0 (fun c => { c with checkCache := [0] })
    board.entryHere 5 = true ∧ away.entryHere 5 = false ∧ away.entryHere 0 = true ∧ away.calm ∧ away.alone ∧ away.unbound [3, 1] := by
  simp only [State.calm, State.alone, State.unbound]
  and_intros <;> decide +kernel

/-- LoadRepliesDeliver. -/
theorem witness_load_replies :
    let a (own : Bool) := pending false own (Size.load .d).2 8 3 5 0 (lsBase 0 + 0x400)
    let s (own : Bool) := yard.modCur (fun t => { t with state := .wait (.reply (a own) 4) })
    ∀ own, (s own).slot = 0 ∧ (s own).replaying = false ∧ (s own).cur.state = .wait (.reply (a own) 4) ∧
    (s own).ordered ((s own).party (s own).core 0) 5 ∧ (s own).cur.pend = .none ∧ (s own).alone ∧
    (s own).unbound [3] ∧ ((s own).objAt 5).level < 2 ∧ (s own).waiters = [] ∧ (s own).cur.frame = none ∧
    ((s own).modSlot (s own).core 0 (fun t => { t with state := .ready })).loading 5 = false := by
  simp only [State.alone, State.unbound]
  intro own
  cases own <;> and_intros <;> first | exact ordered_of_unchecked (by decide +kernel) | decide +kernel

/-- StoreDrainWritesItsBytesOnly: stores of bytes and of a granule to LS, a store to a line of HBM that the L1 holds, one to a
PTAB, and the host's write buffer. -/
theorem witness_store_drain :
    let e (o loc a : Nat) (cap : Option Bool) (n : Nat) : StoreEntry := ⟨o, loc, a, List.replicate n (some 7), cap, 0, true⟩
    let s (x : StoreEntry) : State := board.modCur (fun t => { t with sbuf := [x] })
    let h := (s (e 8 0 (hbmBase + 0x40000) none 8)).fillLine 0 0 8 (hbmBase + 0x40000) 0
    let q : HostLine := ⟨64, [some 1], [], 24, 0, false⟩
    (board.slotAt 0 0).state = .ready ∧ (board.slotAt 0 0).sbuf = [] ∧
    ((s (e 5 0 (lsBase 0 + 0x400) none 1)).slotAt 0 0).sbuf = [e 5 0 (lsBase 0 + 0x400) none 1] ∧ (board.objAt 5).level < 2 ∧
    (board.objAt 5).ptab = false ∧ lsBase 0 + 0x400 < hostBase ∧ (e 5 0 (lsBase 0 + 0x400) (some true) 16).bytes.length = 16 ∧
    (lsBase 0 + 0x400) % 16 = 0 ∧ (h.objAt 8).level = 3 ∧ hbmBase + 0x40000 < hostBase ∧ (hbmBase + 0x40000) % 64 + 8 ≤ 64 ∧
    ((h.coreAt 0).l1Hit 8 (hbmBase + 0x40000)).map (fun l => l.addr % 64) = some 0 ∧
    (let p := (s (e 8 0 (hbmBase + 0x40000) none 8)).modObj 8 (fun o => { o with ptab := true })
     (p.slotAt 0 0).sbuf ≠ [] ∧ (p.objAt 8).level = 3 ∧ (p.objAt 8).ptab = true ∧ p.translated 8 = false) ∧ board.hostBuf = [] ∧
    { board with hostBuf := [q] }.hostBuf = [q] := by decide +kernel

/-- StreamsBindPopAppendAndEnd: a descriptor that binds, ones with a reserved bit and a misaligned stride; an in stream with its
next element read, and an out stream before its last one. -/
theorem witness_streams :
    let c := board.cur.reg 1
    let q (out : Bool) : Stream := ⟨out, 8, c, 4, 8, 3, if out then [] else [(3, (num 9, []))]⟩
    let inn := board.modCur (fun t => { t with streams := [(24, q false)] })
    let outt := board.modCur (fun t => { t with streams := [(25, q true)] })
    (board.cur.held = [] ∧ (4 * 2 ^ 40 + 8 : BitVec 64).extractLsb' 32 8 = 0 ∧ c.tag = true ∧ wellFormed c = true ∧
      permit .streamIn c 0 false false = none ∧ permit .streamOut c 0 false false = none ∧ (board.objAt 5).level = 0 ∧
      board.dom.supv = false ∧ board.entryHere 5 = true ∧ genCurrent (board.objAt 5) (genOf c) = true ∧ cursorOf c % 8 = 0 ∧ cursorOf (mkCap 0 0 0 7 5 4) % 8 ≠ 0 ∧
      (2 ^ 32 : BitVec 64).extractLsb' 32 8 ≠ 0) ∧
    (inn.cur.stream 24 = some (q false) ∧ lookT (q false).ahead 3 = some (num 9, []) ∧ inn.unbound [3] ∧
      inn.passes .streamIn c (3 * 8) 8 8 ∧ inn.calm ∧ inn.alone ∧ inn.cur.held = []) ∧
    (outt.cur.stream 25 = some (q true) ∧ outt.unbound [1, 2] ∧ outt.passes .streamOut c (3 * 8) 8 8 ∧
      outt.liesAt 5 24 (lsBase 0 + 0x418) ∧ outt.lineDue true 5 24 (lsBase 0 + 0x418) 8 = none ∧ outt.raceFree c 24 (lsBase 0 + 0x418) 8 true ∧ outt.cur.sbuf.length < 8) := by
  simp only [State.calm, State.alone, State.unbound, State.passes, State.liesAt, State.raceFree]
  and_intros <;> decide +kernel

/-- CapabilityFieldsReadAndAdjust: an OWN and a PORT, a value with no tag, and cursors at the ends of the object. -/
theorem witness_fields :
    let c := board.cur.reg 1
    board.usable c [0] ∧ kindOf c ≠ 7 ∧ kindOf c ≠ 4 ∧ board.entryHere (objOf c) = true ∧ (board.cur.reg 2).tag = false ∧ kindOf (board.cur.reg 8) = 7 ∧
    wellFormed (board.cur.reg 8) = true ∧ (board.cur.reg 8).tag = true ∧ (0 : Int) ≤ cursorOf c + 256 ∧
    cursorOf c + 256 ≤ (board.objAt (objOf c)).length ∧ (board.objAt (objOf c)).length < cursorOf c + 257 := by
  simp only [State.usable]
  and_intros <;> decide +kernel

/-- A table with entries 0 and 9 in use has a free one, wherever the search begins (log 3). -/
theorem free_beside_two (a b : Obj) (ha : a.open_ = false) (hb : b.open_ = false) (k : Nat) :
    ∃ m, freeFrom [(0, a), (9, b)] 65535 k 3 = some m := by
  have hf : (Obj.free.open_ && decide (Obj.free.gen ≤ 65535)) = true := by decide
  by_cases h0 : k = 0
  · subst h0
    exact ⟨1, by simp [freeFrom, lookT, ha, hf]⟩
  · by_cases h9 : k = 9
    · subst h9
      exact ⟨10, by simp [freeFrom, lookT, hb, hf]⟩
    · exact ⟨k, by simp [freeFrom, lookT, Ne.symm h0, Ne.symm h9, hf]⟩

/-- A pool beside the code: ALLOC finds a free entry for it. -/
def bare : State := { board with objs := [(0, placedCode), (9, poolOf 0 65536)] }

theorem witness_free_entry : bare.usable (bare.cur.reg 4) [4] ∧ bare.requestsBefore 9 bare.core bare.slot = [] ∧
    bare.room 9 64 true = some 0 ∧ (∃ m, bare.pickEntry bare.dom.part 65535 = some m) := by
  refine ⟨?_, by decide +kernel, by decide +kernel, ?_⟩
  · simp only [State.usable]
    decide +kernel
  · have h : ¬ (bare.partAt bare.dom.part).otcap ≤ bare.entriesUsed bare.dom.part := by decide +kernel
    unfold State.pickEntry
    rw [if_neg h]
    exact free_beside_two placedCode (poolOf 0 65536) (by decide) (by decide) _

/-- ObjectsAllocateFreeReclaim: sizes at the ends of the range and outside it, a pool that is full, one whose space is being
cleaned; an object that may be freed; one that a supervisor may reclaim. -/
theorem witness_objects :
    let c := board.cur.reg 4
    let full := board.modObj 9 (fun e => { e with length := 0 })
    let mop := { board.modObj 9 (fun e => { e with length := 128 }) with cleaning := [⟨9, 0, 128, 0⟩] }
    let boss := board.modCurDom (fun d => { d with supv := true })
    let none_ := board.modPart 0 (fun p => { p with otcap := 0 })
    let ahead := { board.modSlot 0 3 (fun _ => { board.cur with state := .wait (.cleaning 9) }) with requests := [(9, 0, 3)] }
    let busy := boss.modCore 0 (fun c => { c with ports := [(1, [order (64 * 2 ^ 64 + 0x10) (mkCap 0 0 0 7 7 0) (mkCap 0 0 0 7 5 0) CReg.zero])] })
    (board.usable c [4] ∧ (board.objAt 9).level = 0 ∧ (board.room 9 1 true).isSome = true ∧ (board.room 9 65536 true).isSome = false ∧
      board.requestsBefore 9 0 0 = [] ∧ none_.pickEntry none_.dom.part 65535 = none ∧ none_.usable c [4] ∧
      (none_.room 9 64 true).isSome = true ∧ none_.requestsBefore 9 0 0 = []) ∧
    (ahead.calm ∧ ahead.usable c [4] ∧ ahead.requestsBefore 9 0 0 ≠ []) ∧
    (full.usable c [4] ∧ full.requestsBefore 9 0 0 = [] ∧ full.room 9 64 true = none ∧ full.room 9 64 false = none) ∧
    (mop.usable c [4] ∧ mop.requestsBefore 9 0 0 = [] ∧ mop.room 9 64 true = none ∧ (mop.room 9 64 false).isSome = true) ∧
    (board.usable (board.cur.reg 1) [0] ∧ (board.objAt 5).pinned = false ∧ board.quiet 5 ∧ (board.objAt 5).gen < 65535) ∧
    (boss.dom.supv = true ∧ board.dom.supv = false ∧ kindOf (board.cur.reg 5) < 2 ∧ engOnly (board.cur.reg 5) = false ∧
      kindOf (board.cur.reg 1) = 0 ∧ engOnly (board.cur.reg 1) = false ∧ (board.cur.reg 1).tag = true ∧ wellFormed (board.cur.reg 1) = true ∧
      (boss.objAt 5).part = boss.dom.part ∧ (boss.objAt 5).entKind ≠ 0 ∧ (boss.objAt 5).retired = false ∧
      (boss.objAt 5).transit = false ∧ boss.named 5 = false ∧ boss.loading 5 = false ∧ ((boss.drainObj 5).objAt 5).gen < 65535 ∧
      (boss.objAt 5).gen < 65535 ∧ busy.dom.supv = true ∧ busy.named 5 = true ∧ (busy.objAt 5).transit = false) := by
  simp only [State.usable, State.quiet, State.calm]
  and_intros <;> decide +kernel

/-- ShadesSplitAndJoin: a value with no right to split, all of an OWN and of a SHADE, too much; parts that make a SHADE and parts that
make an OWN. -/
theorem witness_shades :
    let own := board.cur.reg 1
    let a := board.cur.reg 5
    let b := board.cur.reg 6
    board.usable own [0, 1] ∧ board.usable a [0, 1] ∧ board.anyCmd board.core board.cur.asid (fun k => k.borrows 5) = false ∧ board.usable a [1] ∧ board.usable b [1] ∧ noSplit own = false ∧
    1 < kindOf (board.cur.reg 7) ∧ fracOf a = 300 ∧ fracOf a + fracOf b = 65536 ∧ objOf a = objOf b ∧ board.quiet 5 ∧ genOf own < 65535 ∧
    (((board.drainObj 5).releaseObj board.core board.slot 5).mustRebase board.core board.slot) = false := by
  simp only [State.usable, State.quiet]
  and_intros <;> decide +kernel

/-- SyncWordsTakePutPeek and AtomicsUpdateTheirWord: an empty word, and a full one; room in the deferred list, and none. -/
theorem witness_sync :
    let c := board.cur.reg 7
    let w := lsBase 0 + 0x800
    let full := { board with full := [w] }
    let crowd := { board with waiters := List.replicate 32 ⟨w, 0, 0, 3, 0, 0, CReg.zero, ⟨0, []⟩, 4⟩ }
    (board.passes .sync c 0 16 16 ∧ board.passes .atomic c 0 4 4 ∧ board.passes .atomic c 0 8 8 ∧ board.passes .atomic c 0 16 16 ∧
      kindOf c = 2 ∧ board.liesAt 15 0 w ∧ w % 16 = 0 ∧
      (board.drain board.core board.slot).waiters = [] ∧ (board.drain board.core board.slot).isFull w = false ∧
      board.listRoom w = true ∧ board.mayTick .device ∧ isOwn (board.cur.reg 2) = false ∧ (board.cur.reg 2).tag = false ∧
      board.anyCmd 0 0 (fun k => k.borrows 0) = false) ∧
    (full.passes .sync c 0 16 16 ∧ full.liesAt 15 0 w ∧ (full.drain full.core full.slot).isFull w = true ∧
      (full.drain full.core full.slot).tagAt w = false ∧ isOwn ((full.drain full.core full.slot).wordAt w) = false ∧
      full.mayTick .device) ∧
    crowd.listRoom w = false := by
  simp only [State.passes, State.liesAt, State.mayTick]
  and_intros <;> decide +kernel

/-- A group of core 0 alone, and one with core 5 as well. -/
def grouped (ms : List (Nat × Nat)) : State :=
  let s := board.modPart 0 (fun p => { p with groups := [(3, ⟨0, 0, 2, ms, [], [], 0, 0, []⟩)] })
  let s := s.modCurDom (fun d => { d with groups := .ofNat 128 (2 ^ 31 + 3 * 2 ^ 23) })
  s.modCur (fun t => t.setReg 8 ⟨.ofNat 128 (7 * 2 ^ 124 + 2 ^ 87 + 3 * 2 ^ 74 + 9 * 2 ^ 36), true⟩)

/-- MessagesLeaveTheirStrand: a port to the own domain, one to another core, and one to a group; plain payloads, and an OWN. -/
theorem witness_messages :
    let p := board.cur.reg 8
    let far := portTo 5 0 9
    let g := grouped [(0, 0), (0, 5)]
    let compat := { board with ctxs := putT board.ctxs 0 ⟨0, 0, true, 1, 0⟩ }
    (board.sendable p 5 ∧ board.inDomain (portDev p) (portTarget p) (portCtx p) = true ∧ board.mayTick .domain ∧
      (∀ v ∈ (payRegs 2 2).map (fun k => board.cur.reg k.val), v.tag = false) ∧ board.compat 0 = false) ∧
    (board.sendable far 9 ∧ board.sendable far 0 ∧ board.inDomain (portDev far) (portTarget far) (portCtx far) = false ∧
      noSend far = false) ∧
    (board.usable (board.cur.reg 7) [2, 4] ∧ noSend (board.cur.reg 7) = false ∧ board.sendable p (portLo p)) ∧
    (compat.compat 0 = true ∧ compat.sendable p 5 ∧ (compat.cur.reg 2).tag = false) ∧
    (let q := g.cur.reg 8
     q.tag = true ∧ wellFormed q = true ∧ g.portPerm q 5 true = none ∧ (∀ m ∈ g.castTo q, g.held_ m.1 m.2 (portCtx q) = false) ∧
      (g.castTo q).any (fun m => g.inDomain m.1 m.2 (portCtx q)) = true ∧ g.mayTick .domain) := by
  simp only [State.sendable, State.mayTick, State.usable]
  and_intros <;> decide +kernel

/-- HandlersAreBound: a class of every strand, and the supervisor's. -/
theorem witness_handlers :
    let c := board.cur.reg 11
    let boss := board.modCurDom (fun d => { d with supv := true })
    c.tag = true ∧ wellFormed c = true ∧ kindOf c = 3 ∧ engOnly c = false ∧ board.entryHere (objOf c) = true ∧
    genCurrent (board.objAt (objOf c)) (genOf c) = true ∧ board.dom.supv = false ∧ boss.dom.supv = true := by decide +kernel

/-- A core whose helper slots are all taken, and a helper with a handle. -/
def crewed : State :=
  (List.range 14).foldl (fun s i => s.modSlot 0 (i + 1) (fun t => { t with state := .frozen, kind := 1, serial := 30 + i })) board

/-- HelpersStartEndAndDie: two vacant slots, none; no handle, a handle of a helper that runs, and one that has ended. -/
theorem witness_helpers :
    let c := board.cur.reg 11
    let h : Handle := ⟨7, false, 2, none⟩
    let run := (board.modSlot 0 2 (fun t => { t with state := .ready, kind := 1, serial := 7 })).modCurDom (fun d => { d with handles := [h] })
    let past := board.modCurDom (fun d => { d with handles := [{ h with ended := some (num 9, ⟨0, []⟩) }] })
    let x := 7 * 2 ^ 8 + 2
    (c.tag = true ∧ wellFormed c = true ∧ kindOf c = 3 ∧ engOnly c = false ∧ genCurrent (board.objAt (objOf c)) (genOf c) = true ∧
      (∀ r ∈ (argRegs 16).map (fun r => board.cur.reg r.val), isShade r = false) ∧ board.mayTick .domain ∧
      (board.coreAt 0).open_.head? = some 1 ∧ (board.coreAt 0).open_.tail.head? = some 2 ∧ (board.coreAt 0).helpers + 2 ≤ 10 ∧
      (board.coreAt 0).starts = []) ∧
    (crewed.coreAt 0).open_ = [] ∧ board.dom.handleAt x = none ∧ past.dom.handleAt x = some { h with ended := some (num 9, ⟨0, []⟩) } ∧
    (run.dom.handleAt x = some h ∧ h.slot ≠ run.slot ∧ run.hasDom run.core run.cur.asid = true ∧
      (∀ j < 16, j ≠ h.slot → (run.slotAt run.core j).serial ≠ h.serial ∨ (run.slotAt run.core j).kind ≠ 1) ∧
      (let u := run.slotAt run.core h.slot
       u.state = .ready ∧ u.pair = 0 ∧ u.kind = 1 ∧ u.asid = run.cur.asid ∧ u.serial = h.serial ∧ u.sbuf = [] ∧ u.frame = none)) := by
  simp only [State.mayTick]
  and_intros <;> decide +kernel

/-- TagsAndWorkLists: tags that are set and that are not; a work list with an entry, with none, and full. -/
theorem witness_tags_and_work :
    let t := board.modCurDom (fun d => { d with tags := 4 })
    let w : WorkEntry := ⟨0, 9, num 3, ⟨0, []⟩⟩
    let some_ := board.modCore 0 (fun k => { k with work := [w] })
    let full := board.modCore 0 (fun k => { k with work := List.replicate 32 w })
    (4 : BitVec 64) &&& t.dom.tags ≠ 0 ∧ (3 : BitVec 64) &&& t.dom.tags = 0 ∧ (6 : BitVec 64) &&& t.dom.tags ≠ 6 ∧
    board.compat 0 = false ∧ (board.cur.reg 2).tag = false ∧ (board.cur.reg 1).tag = true ∧ (board.cur.reg 3).tag = false ∧ board.mayTick .domain ∧
    ((board.announces .domain).addWork 0 w).isSome = true ∧ (full.announces .domain).addWork 0 w = none ∧
    (some_.coreAt 0).work.find? (fun x => x.asid == 0) = some w ∧ (board.coreAt 0).work = [] ∧ board.dom.workRecs = false := by
  simp only [State.mayTick]
  and_intros <;> decide +kernel

/-- BarriersGatherTheirGroup: a group of one, a member of two, no member; a counter at its ends. -/
theorem witness_barriers :
    let g := grouped [(0, 0)]
    let w : Group := ⟨0, 0, 2, [(0, 0)], [], [], 0, 0, []⟩
    g.calm ∧ g.alone ∧ g.dom.memberOf 3 = true ∧ lookT (g.partAt g.dom.part).groups 3 = some w ∧ g.cur.barrier = none ∧
    g.mayTick (groupRelease w.scope) ∧ (groupRelease 3).wide = true ∧ g.mayTick .fabric ∧ g.owesRemote g.core g.cur.born = false ∧ w.pending = 0 ∧ w.early = [] ∧ w.members = [(g.devOf g.cur.asid, g.core)] ∧ g.partOf g.cur.asid = g.dom.part ∧
    (∀ k ∈ g.cores, ∀ t ∈ k.2.slots, t.2.barrier = none) ∧ board.dom.memberOf 3 = false ∧
    (0 : Int) ≤ w.pending + (-1 + 1 : BitVec 64).toInt ∧ (w.pending : Int) + (-1 : BitVec 64).toInt < 0 := by
  simp only [State.calm, State.alone, State.mayTick]
  and_intros <;> decide +kernel

/-- VectorFloatingLanes: an active subnormal lane that asks for an assist, with a routine and with none, and a normal one. -/
theorem witness_vector_floats :
    let s := board.modCur (fun t => { t with fpmode := 0x10, v := [(1, 1), (2, 0x3F800000)], p := [(0, 1)] })
    let r := s.modPart 0 (fun p => { p with assist := [(0, mkCap 3 0 0 1 0 0)] })
    let ctl : Ctl := ⟨0, false, false, 1, 0⟩
    let ln (v k : Nat) : Nat := (laneOf (s.cur.vreg v) 32 k).toNat
    s.calm ∧ s.alone ∧ s.vectorFree ∧ s.cur.stochastic = false ∧ s.cur.frame = none ∧ governs (s.cur.preg 0) 32 0 = true ∧
    (fAdd fmtF32 ctl false (ln 1 0) (ln 2 0)).assist = true ∧ (fAdd fmtF32 ctl false (ln 2 0) (ln 2 0)).assist = false ∧
    s.assistOf s.cur.asid = none ∧ r.assistOf r.cur.asid = some (mkCap 3 0 0 1 0 0) ∧ (r.coreAt r.core).cacheUsed < 32 := by
  simp only [State.calm, State.alone, State.vectorFree]
  and_intros <;> decide +kernel

/-- VectorConversions: pairs of formats, at the last register of a group. -/
theorem witness_conversions :
    Instr.wf (.vcvt 1 2 .f64 .f32) = true ∧ Instr.wf (.vcvt 15 0 .i4 .bf16) = true ∧ Instr.wf (.vmxq 14 12 .e2m1 .f32) = true ∧
    Instr.wf (.vmxq 0 14 .mxi8 .bf16) = true ∧ Instr.wf (.vmxd 12 14 .f32 .e4m3) = true := by decide +kernel

/-- VectorMemoryMovesActiveBytes: no active byte; all bytes at hand, and in HBM not at hand; elements of 8 bytes. -/
theorem witness_vector_memory :
    let c := board.cur.reg 1
    let h := board.cur.reg 12
    let s := board.modCur (fun t => { t with p := [(1, 0xFFFFFFFF)], v := [(5, 31)] })
    let x := lsBase 0 + 0x400
    (s.calm ∧ s.alone ∧ s.vectorFree ∧ s.unbound [1] ∧ s.cur.sbuf = [] ∧ s.cur.preg 2 = 0 ∧ s.cur.preg 1 = 0xFFFFFFFF) ∧
    (s.passes .vload c (7 * 32) 0 1 ∧ s.liesAt 5 (7 * 32) (x + 224)) ∧
    (s.passes .vload c (7 * 32 + 0) (31 - 0 + 1) 1 ∧ s.raceFree c 224 (x + 224) 32 false ∧ s.passes .vstore c (7 * 32) 32 1 ∧
      s.raceFree c 224 (x + 224) 32 true ∧ s.lineDue (isOwn c) 5 224 (x + 224) 32 = none ∧ (s.objAt 5).ptab = false ∧ s.atHand 0 5 (x + 224) 1 = true) ∧
    (s.passes .vload h 0 32 1 ∧ s.liesAt 8 0 (hbmBase + 0x40000) ∧ s.atHand 0 8 (hbmBase + 0x40000) 1 = false) ∧
    (s.passes .vload c (31 * 8) 8 8 ∧ s.liesAt 5 (31 * 8) (x + 248) ∧ s.raceFree c 248 (x + 248) 8 false ∧
      (laneOf (s.cur.vreg 5) 64 0).toNat = 31 ∧ s.passes .vstore c (31 * 8) 8 8 ∧ s.raceFree c 248 (x + 248) 8 true ∧
      s.lineDue (isOwn c) 5 248 (x + 248) 8 = none ∧
      (s.cur.preg 1).getLsbD 0 = true) := by
  simp only [State.calm, State.alone, State.vectorFree, State.unbound, State.passes, State.liesAt, State.raceFree]
  and_intros <;> decide +kernel

/-- A loop of one `vadd` at the start of its block, and its first replay. -/
def looping : State :=
  let s := given (.vloop 0 0 1 3) hand
  let s := { s with mem := Memory.write s.mem (hbmBase + 4) (wordBytes (((encodePattern (.vadd 1 2 3 0 .i8)).getD (0, 0)).2)) }
  { s with objs := s.objs ++ shelf }

/-- VectorLoopsCaptureAndReplay: a block that is captured, one that is not, and a replay. -/
theorem witness_vector_loops :
    let empty := given (.vloop 0 0 1 3) hand
    let l : Loop := ⟨[0xEC110C00], 3, 1, 0, 0, 4, 0, true, none⟩
    let run := (looping.modCur (fun t => { t with loop := some l })).modCore 0 (fun k => { k with loopSlot := some 0 })
    let turn := { run with replaying := true }
    (looping.calm ∧ looping.vectorFree ∧ looping.unbound [0] ∧ looping.cur.pc + 4 + 4 * 1 ≤ (looping.objAt 0).length ∧
      looping.liesAt 0 4 (hbmBase + 4) ∧ looping.liesAt 0 6 (hbmBase + 6) ∧ captures 0xEC110C00 = true ∧
      leNat (looping.seen 0 16 0 (hbmBase + 4) 2) * 2 ^ 16 + leNat (looping.seen 0 16 0 (hbmBase + 6) 2) = 0xEC110C00) ∧
    (empty.calm ∧ empty.alone ∧ empty.vectorFree ∧ captures 0 = false) ∧
    (run.agenda = [] ∧ (run.coreAt run.core).loopSlot = some 0 ∧ run.replaySlot run.core = some 0 ∧ coreOk run.core = true ∧
      (run.slotAt run.core 0).loop = some l ∧ decodePattern 4 (l.words.getD l.j 0).toNat = .ok (.vadd 1 2 3 0 .i8)) ∧
    (turn.cur.state = .ready ∧ turn.cur.pend = .none ∧ turn.replaying = true ∧ turn.cur.loop = some l) := by
  simp only [State.calm, State.alone, State.vectorFree, State.unbound, State.liesAt]
  and_intros <;> decide +kernel

/-- The yard with a queue of 4 rows of object 12 with one filled, one read and two free. -/
def queued : State := yard.setQueue 0 2 ⟨mkCap 0 0 0 7 12 0, 4, 3, 2, 1, []⟩

/-- TileQueuesAndCopies: a holder and none; a queue in between; copies of one row between CS and TS. -/
theorem witness_tiles :
    let x : Queue := ⟨mkCap 0 0 0 7 12 0, 4, 3, 2, 1, []⟩
    let idle := board.modCore 0 (fun k => { k with holder := none })
    let s := queued
    let ts := s.cur.reg 10
    let cs := s.cur.reg 13
    let xs := [(0, csBase 0 + 0x400, 128)]
    let ys := [(0, tsBase 0 + 0x400, 128)]
    let u := s.drain s.core s.slot
    (s.calm ∧ s.alone ∧ s.unbound [10, 13, 2] ∧ s.isHolder s.core s.cur.asid = true ∧ idle.isHolder idle.core idle.cur.asid = false) ∧
    (s.queueAt s.core 2 = some x ∧ s.queueAt s.core 3 = none ∧ genCurrent (s.objAt (objOf x.cap)) (genOf x.cap) = true ∧
      s.usable x.cap [0] ∧ x.room = 2 ∧ x.held = 1 ∧ x.filled = 1 ∧ s.mustRebase s.core s.slot = false ∧
      s.anyCmd s.core s.cur.asid (fun k => k.namesQueue 2) = false) ∧
    (s.usable ts [0] ∧ s.tileSide (s.objAt 12) = true ∧ cursorOf ts % 128 = 0 ∧ cursorOf ts + 128 * 8 ≤ (s.objAt 12).length) ∧
    (s.usable cs [0, 1, 3] ∧ s.memorySide (s.objAt 7) = true ∧ cursorOf cs % 64 = 0 ∧ cursorOf cs + 128 * 2 ≤ (s.objAt 7).length) ∧
    (s.spanned 7 0 128 xs ∧ s.spanned 12 0 128 ys ∧ u.ordered (u.party s.core s.slot) 7 ∧ u.ordered (u.party s.core s.slot) 12) := by
  simp only [State.calm, State.alone, State.unbound, State.usable, State.spanned, State.liesAt]
  and_intros <;> first | exact ordered_of_unchecked (by decide +kernel) | decide +kernel

/-- EnginePortsTakeAndGive: a COPY of 64 bytes with and without a barrier mark, a MARK that needs the matrix unit, a malformed
record; a port with room and a full one; elements that are there, are due, and are not. -/
theorem witness_ports :
    let copy (m : Nat) : CReg := num (64 * 2 ^ 64 + m * (2 ^ 47 + 3 * 2 ^ 48) + 0x10)
    let x : Role := { kinds := [0, 1, 3, 5], place := .localMem, write := false, n := 64 }
    let y : Role := { kinds := [0, 5], place := .localMem, write := true, n := 64 }
    let fits (x : Role) (c : CReg) : Bool :=
      let o := board.objAt (objOf c)
      c.tag && wellFormed c && x.kinds.contains (kindOf c) && board.placeOk x.place o && board.entryHere (objOf c) &&
        genCurrent o (genOf c) && (!x.start || cursorOf c == 0) && (x.exact_.all (fun n => o.length == n)) &&
        decide (cursorOf c + x.n ≤ o.length) && decide (cursorOf c % x.align = 0) && !o.poisoned
    let g := grouped [(0, 0)]
    let k : Cmd := { order 0x10 CReg.zero CReg.zero CReg.zero with seq := 1, leave := 0, since := 0 }
    let full := board.modCore 0 (fun c => { c with ports := [(1, List.replicate 8 k)] })
    let due := board.modCore 0 (fun c => { c with ports := [(1, [{ k with h := num (2 ^ 56 + 0x10) }])] })
    let e : Element := ⟨num 7, ⟨0, []⟩⟩
    let there := board.modCurDom (fun d => { d with elements := [(1, [e])] })
    (board.parse 0 0 1 (copy 0) (mkCap 0 0 0 7 5 0) (mkCap 0 0 0 7 7 192) CReg.zero = some ⟨some x, some y, 64⟩ ∧
      fits x (mkCap 0 0 0 7 5 0) = true ∧ fits y (mkCap 0 0 0 7 7 192) = true ∧ board.unbound [9, 10, 11, 12] ∧
      (board.coreAt 0).port 1 = [] ∧ ((full.coreAt 0).port 1).length = 8 ∧ (board.objAt 5).pinned = false ∧ (board.objAt 5).level ≠ 4 ∧
      board.pushScope ⟨some x, some y, 64⟩ (mkCap 0 0 0 7 5 0) (mkCap 0 0 0 7 7 192) = .device ∧ board.owesRemote 0 board.cur.born = false ∧
      ((board.modCur (fun t => { t with raised := false })).releaseAll 0 0 .device).mustRebase 0 0 = false) ∧
    (g.parse 0 0 1 (copy 1) (mkCap 0 0 0 7 5 0) (mkCap 0 0 0 7 7 192) CReg.zero = some ⟨some x, some y, 64⟩ ∧
      (lookT (g.partAt g.dom.part).groups 3).map (fun y => y.pending) = some 0) ∧
    board.parse 0 0 0 (num 6) CReg.zero CReg.zero CReg.zero = some ⟨none, none, 0⟩ ∧
    board.parse 0 0 0 (num 0x10) CReg.zero CReg.zero CReg.zero = none ∧ board.isHolder 0 0 = true ∧
    there.dom.results 1 = [e] ∧ board.dom.results 1 = [] ∧ board.elementDue 0 0 1 = false ∧ due.elementDue 0 0 1 = true ∧
    ((board.coreAt 0).port 0).any (fun k => k.asid == 0 && k.targets 1) = false := by
  simp only [State.unbound]
  and_intros <;> decide +kernel

/-- A shuffle of 16 bytes from job 0 to itself. -/
def opened : Shuffle := ⟨3, false, false, leBytes 16 (1 * 2 ^ 16 + 16 * 2 ^ 40) ++ leBytes 16 11, 0, 0, false, []⟩

/-- ShufflesOpenAndClose: a plan in LS of another owner; a shuffle table with room and a full one; one that runs. -/
theorem witness_shuffles :
    let c := yard.cur.reg 1
    let x := lsBase 0 + 0x400
    let u := yard.drain yard.core yard.slot
    let full := yard.modPart 0 (fun p => { p with shuffles := (List.range 16).map (fun i => (i, opened)) })
    let busy := yard.modPart 0 (fun p => { p with shuffles := [(3, opened)], active := [⟨3, 0, 0, [], [], [], [], false⟩] })
    (yard.calm ∧ yard.alone ∧ yard.unbound [3, 1, 2] ∧ yard.usable c [0, 1] ∧ (yard.objAt 5).level = 0 ∧
      cursorOf c ≤ (yard.objAt 5).length ∧ yard.spanned 5 0 16 [(0, x, 16)] ∧ u.ordered (u.party yard.core yard.slot) 5 ∧
      u.spanned 5 0 (min 16 256) [(0, x, 16)] ∧ leNat (u.spanBytes 5 [(0, x, 16)]) = 0 ∧ (u.partAt 0).shuffles.length < 16 ∧ lookT (u.partAt 0).shuffles 3 = none) ∧
    (full.partAt 0).shuffles.length = 16 ∧ (lookT (busy.partAt 0).shuffles 3).isSome = true ∧ yard.shuffling 0 3 = false ∧
    yard.holds.any (fun h => h.part == 0 && h.shuf == 3) = false := by
  simp only [State.calm, State.alone, State.unbound, State.usable, State.spanned, State.liesAt]
  and_intros <;> first | exact ordered_of_unchecked (by decide +kernel) | decide +kernel

/-- The yard with a stationary tile, tensor objects of 64 rows, and a command at the head of a port. -/
def stand (port : Nat) (k : Cmd) : State :=
  let s := { yard with objs := yard.objs ++ [(27, { live 1 8192 0x2000 13 with ownCtx := 3 }), (28, { live 0 300 0x4000 9 with ownCtx := 3 })] }
  s.modCore 0 (fun c => { c with ports := [(port, [k])] })

/-- The statements of commands that end: no strand waits at a barrier. -/
theorem witness_settled (c i n m : Nat) :
    ((board.slotAt c i).state = .wait (.barrier n m) → (board.slotAt c i).pend = .none) ∧
    (((stand 1 (order 0x10 CReg.zero CReg.zero CReg.zero)).slotAt c i).state = .wait (.barrier n m) →
      ((stand 1 (order 0x10 CReg.zero CReg.zero CReg.zero)).slotAt c i).pend = .none) :=
  ⟨settled_of_listed (by decide +kernel) c i n m, settled_of_listed (by decide +kernel) c i n m⟩

/-- MatrixCommandsRun: each command at the head of e0, and none; rows up to the last of a bank; a ring tile of the own context and of
another. -/
theorem witness_matrix :
    let own := mkCap 0 0 0 7 12 0
    let zero := CReg.zero
    let mark := order 6 zero zero zero
    let clear := order (5 + (2 ^ 8 * 3 + 253) * 2 ^ 64) zero zero zero
    let load := order 2 (mkCap 1 0 20 7 27 0) zero zero
    let old := order 2 (mkCap 1 0 20 6 27 0) zero zero
    let claim := order (2 + 2 ^ 27 * 2 ^ 64) (mkCap 0 0 0 7 27 0) zero zero
    let pass_ := order 3 zero zero zero
    let drain := order (4 + (2 ^ 8 * 1 + 4 * 2 ^ 25) * 2 ^ 64) own zero zero
    let into := order (4 + (2 ^ 8 * 1 + 4 * 2 ^ 25 + 2 ^ 22 + 2 * 2 ^ 19) * 2 ^ 64) zero zero zero
    let mma := order (1 + (2 ^ 8 + 2 * 2 ^ 25) * 2 ^ 64) zero zero zero
    let l : Latch := ⟨0, [], [], 27, 7, true, 0⟩
    let q : Queue := ⟨own, 4, 3, 2, 1, []⟩
    let fed (k : Cmd) (a : Nat) : State := (stand 0 k).modCore 0 (fun c =>
      { c with ring := if a = 9 then none else some ⟨l, a⟩, mx := { c.mx with latch := some l, queues := [(2, q)] } })
    let u (k : Cmd) (a : Nat) : State := (fed k a).engineStart 0 0 k
    let o := { live 1 8192 0x2000 13 with ownCtx := 0 }
    let w := { fed pass_ 9 with objs := putT (fed pass_ 9).objs 27 o }.engineStart 0 0 pass_
    ([(mark, 6), (clear, 5), (load, 2), (claim, 2), (pass_, 3), (drain, 4), (into, 4), (mma, 1)].all (fun k =>
      (fed k.1 9).runnable 0 0 k.2 == some k.1 && !(fed k.1 9).stale k.1 && k.1.wrote == 0)) = true ∧
    yard.runnable 0 0 1 = none ∧ yard.runnable 0 0 2 = none ∧ Memory.wf (fed drain 9).mem = true ∧
    ((stand 0 old).runnable 0 0 2 = some old ∧ (stand 0 old).stale old = true) ∧
    ((u load 0).spoiled load.x = false ∧ (u load 0).quietFor 0 0 load load.x) ∧
    ((u claim 0).spoiled claim.x = false ∧ (u claim 0).quietFor 0 0 claim claim.x ∧ ((u claim 0).coreAt 0).ring = some ⟨l, 0⟩ ∧
      ((u claim 3).coreAt 0).ring = some ⟨l, 3⟩ ∧ ((u claim 9).coreAt 0).ring = none) ∧
    (((u pass_ 0).coreAt 0).mx.latch = some l ∧ (w.objAt 27).ownCore = 0 ∧ genCurrent (w.objAt 27) 7 = true ∧ w.loading 27 = false ∧
      (w.coreAt (ringNext 0)).ring = none ∧ (((w.drainObj 27).writeBackObj 0 27).objAt 27).gen < 65535 ∧
      (((stand 0 pass_).engineStart 0 0 pass_).coreAt 0).mx.latch = none) ∧
    ((u drain 0).spoiled drain.x = false ∧ (u drain 0).quietFor 0 0 drain drain.x ∧ isOwn drain.x = true ∧
      ((u drain 0).objAt 12).level < 3 ∧ ((u drain 0).objAt 12).ptab = false ∧ tsBase 0 + 0x400 + 128 ≤ hostBase) ∧
    ((u into 0).liveQueue 0 2 = some q ∧ (u into 0).spoiled q.cap = false ∧ 1 ≤ q.room ∧
      (u into 0).ordered ((u into 0).cmdParty 0 0 into) 12) ∧
    ((u mma 0).liveQueue 0 2 = some q ∧ pairClass l.fmt = pairClass 0 ∧ 1 ≤ q.filled ∧
      (let v := (q.nextClks 1).foldl (fun v z => v.engineAcquire 0 0 16 z) (u mma 0)
       v.ordered (v.cmdParty 0 0 mma) 12)) := by
  simp only [State.quietFor]
  and_intros <;> first
    | exact Or.inr (ordered_of_unchecked (by decide +kernel)) | exact ordered_of_unchecked (by decide +kernel) | decide +kernel

/-- TransferCommandsRun: each command of e1, and RGET and RPUT, with sound operands; a cut after 20 bytes; a stream in RUN, and a
link. -/
theorem witness_transfers :
    let zero := CReg.zero
    let ls := mkCap 1 0 20 7 5 0
    let own := mkCap 0 0 0 7 7 128
    let far := mkCap 0 0 0 7 22 16
    let copy := order (64 * 2 ^ 64 + 0x10) ls own zero
    let fill := order (128 * 2 ^ 64 + 0x12) zero own (num 5)
    let move := order 0x11 (mkCap 0 0 0 7 5 3) (mkCap 4 0 0 3 11 0) zero
    let dec := order (64 * 2 ^ 64 + 0x13) (mkCap 5 0 0 7 5 0) (mkCap 0 0 0 7 7 0) (num 2)
    let ckpt := order (256 * 2 ^ 64 + 0x14) ls far zero
    let rput := order (64 * 2 ^ 64 + 0x25) ls far zero
    let rget := order (64 * 2 ^ 64 + 0x24) far own zero
    let old (code : Nat) := order (64 * 2 ^ 64 + code) (mkCap 1 0 20 6 5 0) (if code = 0x10 then own else far) zero
    let none_ := order 0x10 ls own zero
    let cut : Mishap := ⟨20, 7⟩
    let there : Obj := { live 0 256 0x400 9 with level := 2, base := 0, poolId := 11 }
    let s (port : Nat) (k : Cmd) : State := (stand port k).modPart 0 (fun p => { p with remap := [(4, ⟨true, 0, 17⟩)] })
    let u (port : Nat) (k : Cmd) : State := (s port k).engineStart 0 port k
    let body (k : Cmd) : Body := .ewrite 0 1 9 99 3 16 ((u 1 k).engineBytes ((u 1 k).spansAt 0 5 0 256))
    let read (w : State) (k : Cmd) : State := w.modCmd 0 1 k (fun x => { x with got := (u 1 k).engineBytes ((u 1 k).spansAt 0 5 0 256) })
    let stale := order (64 * 2 ^ 64 + 0x13) (mkCap 5 0 0 6 5 0) (mkCap 0 0 0 7 7 0) (num 2)
    let trusted (k : Cmd) : State := ((stand 1 k).modDom 0 0 (fun d => { d with part := 1 })).modPart 1
      (fun p => { p with tdi := 2, streams := [(2, ⟨5, 6, 2 ^ 64 - 2⟩)] })
    let safe := trusted dec
    let bad := safe.modObj 5 (fun e => { e with poisoned := true })
    let v := ((u 1 move).drainObj 5).writeBackObj 0 5 |>.dropAllLines 5
    ([(1, copy, 0x10), (1, fill, 0x12), (1, move, 0x11), (1, dec, 0x13), (1, ckpt, 0x14), (2, rput, 0x25), (2, rget, 0x24)].all (fun k =>
      (s k.1 k.2.1).runnable 0 k.1 k.2.2 == some k.2.1 && !(s k.1 k.2.1).stale k.2.1 && k.2.1.wrote == 0 && k.2.1.got == [])) = true ∧
    ([(1, old 0x10, 0x10), (1, old 0x14, 0x14), (2, old 0x25, 0x25)].all (fun k =>
      (s k.1 k.2.1).runnable 0 k.1 k.2.2 == some k.2.1 && (s k.1 k.2.1).stale k.2.1)) = true ∧
    ((trusted stale).runnable 0 1 0x13 = some stale ∧ (trusted stale).stale stale = true ∧
      ((stand 1 stale).partAt 0).tdi ≠ 2 ∧ (stand 1 stale).runnable 0 1 0x13 = some stale ∧ (stand 1 stale).stale stale = true) ∧
    ((s 1 none_).runnable 0 1 0x10 = some none_ ∧ (u 1 none_).spoiled own = false ∧ (u 1 none_).spoiled ls = false ∧ (u 1 none_).zeroOk 0 5 0 = true ∧
      (match (u 1 none_).flatNow 0 7 128 with
        | .ok a => a == csBase 0 + 0x480
        | .error _ => false) = true) ∧
    Memory.wf (s 1 copy).mem = true ∧
    ((cut.status == 7 || cut.status == 8) && decide (cut.after < 64)) = true ∧
    ((u 1 copy).spoiled ls = false ∧ (u 1 copy).quietFor 0 1 copy ls ∧ (u 1 copy).spoiled own = false ∧
      (u 1 copy).ordered ((u 1 copy).cmdParty 0 1 copy) 7 ∧
      spanTotal ((u 1 copy).spansAt 0 5 0 64) = 64 ∧ spanTotal ((u 1 copy).spansAt 0 5 0 20) = 20 ∧ spanTotal ((u 1 copy).spansAt 0 7 128 64) = 64 ∧ ((u 1 copy).objAt 7).level < 3 ∧
      ((u 1 copy).objAt 7).ptab = false ∧ csBase 0 + 0x400 + 128 + 64 ≤ hostBase) ∧
    (spanTotal ((u 1 fill).spansAt 0 7 128 128) = 128 ∧ (u 1 fill).spoiled own = false ∧
      (u 1 fill).ordered ((u 1 fill).cmdParty 0 1 fill) 7) ∧
    (isOwn move.x = true ∧ (u 1 move).spoiled move.x = false ∧ (u 1 move).quietFor 0 1 move move.x ∧ (u 1 move).loading 5 = false ∧
      ((u 1 move).room 11 256 true).isSome = true ∧ spanTotal ((u 1 move).spansAt 0 5 0 256) = 256 ∧
      spanTotal ((u 1 move).spansIn 0 there 0 256) = 256 ∧ (v.objAt 5).gen < 65535) ∧
    (((u 1 dec).partAt 0).tdi ≠ 2 ∧ lookT ((u 1 dec).partAt 0).streams 2 = none ∧ safe.runnable 0 1 0x13 = some dec ∧ safe.stale dec = false ∧
      (bad.engineStart 0 1 dec).spoiled dec.x = true ∧ bad.runnable 0 1 0x13 = some dec ∧ bad.stale dec = false ∧
      (let w := safe.engineStart 0 1 dec
       lookT (w.partAt 1).streams 2 = some ⟨5, 6, 2 ^ 64 - 2⟩ ∧ (w.partAt 1).tdi = 2 ∧ w.spoiled dec.y = false ∧ w.spoiled dec.x = false ∧
       w.ordered (w.cmdParty 0 1 dec) 7 ∧ w.loading 7 = false ∧ ((w.drainObj 7).objAt 7).gen < 65535 ∧ spanTotal (w.spansAt 0 5 0 80) = 80 ∧ spanTotal (w.spansAt 0 7 0 64) = 64)) ∧
    ((u 1 ckpt).spoiled ls = false ∧ (u 1 ckpt).spoiled far = false ∧ spanTotal ((u 1 ckpt).spansAt 0 5 0 256) = 256 ∧
      ((read (u 1 ckpt) ckpt).inject 0 4 true 0 0 0 (body ckpt)).isSome = true ∧
      ((read ((stand 1 ckpt).engineStart 0 1 ckpt) ckpt).inject 0 4 true 0 0 0 (body ckpt)) = none) ∧
    ((u 2 rput).quietFor 0 2 rput ls ∧ (u 2 rput).spoiled far = false ∧ spanTotal ((u 2 rput).spansAt 0 5 0 64) = 64) ∧
    ((u 2 rget).spoiled own = false ∧ (u 2 rget).spoiled far = false ∧
      spanTotal ((u 2 rget).spansAt 0 7 128 64) = 64) := by
  simp only [State.quietFor]
  and_intros <;> first
    | exact ordered_of_unchecked (by decide +kernel) | exact Or.inl (by decide +kernel) | exact Or.inr (ordered_of_unchecked (by decide +kernel)) | decide +kernel

/-- CollectivesAndShuffleRun: a group of one local member; a member that differs; a shuffle of one block, one that has run, and an
unknown one. -/
theorem witness_collectives :
    let ls := mkCap 1 0 20 7 5 0
    let own := mkCap 0 0 0 7 7 0
    let k (code : Nat) : Cmd := order ((2 + 3 * 2 ^ 56) * 2 ^ 64 + code) ls own CReg.zero
    let s (code : Nat) : State :=
      let g := { grouped [(0, 0)] with objs := yard.objs }
      (g.modCore 0 (fun c => { c with ports := [(2, [k code])] }))
    let u (code : Nat) : State := (s code).engineStart 0 2 (k code)
    let codes := [0x20, 0x21, 0x22]
    let sh := order 0x23 ls own (num 3)
    let gone := order 0x23 (mkCap 1 0 20 6 5 0) own (num 3)
    let unmapped := order 0x23 (mkCap 1 0 20 7 8 0x9000) own (num 3)
    let two (code : Nat) : State := { grouped [(0, 0), (0, 5)] with objs := yard.objs }.modCore 0 (fun c => { c with ports := [(2, [k code])] })
    let fresh (x : Shuffle) : State := (stand 2 sh).modPart 0 (fun p => { p with shuffles := [(3, x)], remap := [(0, ⟨true, 0, 0⟩)] })
    let w := (fresh opened).engineStart 0 2 sh
    codes.all (fun x => (s x).runnable 0 2 x == some (k x) && (k x).got == [] && !(u x).stale (k x) && ((s x).localMembers 0 x 3 ((s x).membersOf 0 3)).isSome &&
      ((farMembers 0 ((s x).membersOf 0 3) []).map List.length == some 0)) = true ∧
    (farMembers 0 [(0, 0), (4, 7)] []).isNone = true ∧
    codes.all (fun x => (two x).runnable 0 2 x == some (k x) && (two x).runnables 0 2 x == [k x] &&
      ((two x).localMembers 0 x 3 ((two x).membersOf 0 3)).isNone && ((s x).membersOf 0 3).contains (0, 0)) = true ∧
    ((stand 2 gone).runnable 0 2 0x23 = some gone ∧ (stand 2 gone).stale gone = true) ∧
    (let v := ((stand 2 unmapped).modPart 0 (fun p => { p with shuffles := [(3, opened)] })).engineStart 0 2 unmapped
     (stand 2 unmapped).runnable 0 2 0x23 = some unmapped ∧ v.spoiled unmapped.x = false ∧
     ((planOf opened.plan).sends (v.jobDev 0)).any (fun x =>
       decide (spanTotal (v.spansAt 0 8 (0x9000 + x.srcOff) (planOf opened.plan).len) < (planOf opened.plan).len)) = true) ∧
    opened.bad = false ∧ { opened with bad := true }.bad = true ∧
    codes.all (fun x => match (s x).localMembers 0 x 3 ((s x).membersOf 0 3) with
      | some ls => ls.length == 1 && ls.all (fun l => (l.cmd.param == (k x).param) && !(u x).stale l.cmd && l.cmd.wrote == 0 && !(u x).spoiled l.cmd.x && !(u x).spoiled l.cmd.y &&
          decide (sourceLen x (k x).param ≤ spanTotal ((u x).readsOf x l)) && decide ((u x).bytesOf l.core 2 l.cmd ≤ spanTotal ((u x).writesOf l)))
      | none => false) = true ∧
    ((u 0x20).quietFor 0 2 (k 0x20) ls ∧ (u 0x20).ordered ((u 0x20).cmdParty 0 2 (k 0x20)) 7 ∧ (u 0x21).quietFor 0 2 (k 0x21) ls ∧
      (u 0x21).ordered ((u 0x21).cmdParty 0 2 (k 0x21)) 7 ∧ (u 0x22).quietFor 0 2 (k 0x22) ls ∧
      (u 0x22).ordered ((u 0x22).cmdParty 0 2 (k 0x22)) 7) ∧
    (fresh opened).runnable 0 2 0x23 = some sh ∧ (fresh opened).stale sh = false ∧
    (heads [] (((fresh opened).coreAt 0).port 2)).find? (fun k => k.code_ == 0x23 && k.sent && k.done.isNone && !k.stopped) = none ∧ lookT (w.partAt 0).shuffles 3 = some opened ∧ opened.invalid = false ∧ opened.ran = false ∧
    { opened with ran := true }.ran = true ∧ lookT (((stand 2 sh).engineStart 0 2 sh).partAt 0).shuffles 3 = none ∧
    (w.spoiled ls = false ∧ w.spoiled own = false ∧ w.quietFor 0 2 sh ls ∧ (fresh opened).lakes = []) ∧
    (w.roomy ls ((planOf opened.plan).outExtent 0) = true ∧ w.roomy own ((planOf opened.plan).inExtent 0) = true ∧
      w.roomy { own with val := own.val } 5000000 = false) ∧
    ((planOf opened.plan).sends ((fresh opened).jobDev 0)).all (fun x =>
      decide ((planOf opened.plan).len ≤ spanTotal (w.spansAt 0 5 (0 + x.srcOff) (planOf opened.plan).len)) && (w.remapOf 0 x.dst).isSome) = true := by
  and_intros <;> first
    | exact Or.inl (by decide +kernel) | exact ordered_of_unchecked (by decide +kernel) | decide +kernel

/-- CommandsEndAndAreGranted: a command that has ended, with room for its element; one that waits for leave; one whose remote answer is
late by the last nanosecond, and one that may still wait. -/
theorem witness_commands :
    let k : Cmd := { order (0x10 + 2 ^ 56 + 2 ^ 57 + 3 * 2 ^ 58) CReg.zero CReg.zero CReg.zero with done := some (0, 64, 0, none) }
    let s := stand 1 k
    let big := { order ((2 ^ 17) * 2 ^ 64 + 0x10) (mkCap 1 0 20 7 5 0) (mkCap 0 0 0 7 7 0) CReg.zero with leave := 0, since := 100 }
    let far := { order (64 * 2 ^ 64 + 0x25) (mkCap 1 0 20 7 5 0) (mkCap 0 0 0 7 22 16) CReg.zero with sent := true, since := 0 }
    let late (t : Nat) : State := { stand 2 far with time := t }
    (s.coreAt 0).port 1 = [k] ∧ s.hasDom 0 k.asid = true ∧ (yard.coreAt 0).port 1 = [] ∧ ((s.domAt 0 0).results 1).length < 16 ∧
    clkAt ((s.domAt 0 0).engineClk 17) 17 < clkMax ∧
    (heads [] (((stand 1 big).coreAt 0).port 1)).find? (fun x => x.done.isNone && !(stand 1 big).hasLeave 0 1 x && (stand 1 big).leaveFirst 0 x) = some big ∧
    big.since = (stand 1 big).time ∧
    (heads [] ((late 100000).coreAt 0 |>.port 2)).find? (fun x => x.done.isNone && !x.stopped && (late 100000).waitsRemote 0 x &&
      decide (x.since + 100000 ≤ (late 100000).time)) = some far ∧
    (heads [] ((late 99999).coreAt 0 |>.port 2)).find? (fun x => x.done.isNone && !x.stopped && (late 99999).waitsRemote 0 x &&
      decide (x.since + 100000 ≤ (late 99999).time)) = none := by
  and_intros <;> decide +kernel

/-- CommandsEndAndAreGranted, MemoryStepsEndWaits: a die that has granted nothing, and one that has granted in this cycle, whatever its
budget is. -/
theorem witness_grants (again : Bool) :
    board.grantOpen 0 again = true ∧ (board.modDie 0 (fun d => { d with grantAt := some 100 })).grantOpen 0 again = false := by
  have h : 1 ≤ board.budget 0 := Nat.le_max_left _ _
  have hg : (board.dieAt 0).granted = 0 := by decide +kernel
  have ht : ((board.dieAt 0).grantAt != some board.time) = true := by decide +kernel
  have hn : (((board.modDie 0 (fun d => { d with grantAt := some 100 })).dieAt 0).grantAt !=
    some (board.modDie 0 (fun d => { d with grantAt := some 100 })).time) = false := by decide +kernel
  constructor
  · simp only [State.grantOpen, ht, hg, Bool.and_true, decide_eq_true_eq]
    omega
  · simp only [State.grantOpen, hn, Bool.and_false]

/-- Page tables at 0x100000 of HBM that map 0x10000 to 0x500000, for context 0. -/
def mapped : State :=
  let w (m : List Host.Cell) (a v : Nat) : List Host.Cell := Memory.write m (hbmBase + a) (leBytes 8 v)
  let m := w (w (w board.mem 0x100000 (2 ^ 63 + 0x101000)) 0x101000 (2 ^ 63 + 0x102000)) 0x102000 (2 ^ 63 + 0x103000)
  { board with mem := w m 0x103008 (2 ^ 63 + 2 ^ 62 + 0x500000), ctxs := putT board.ctxs 0 ⟨0, 0x100000, false, 8, 0⟩ }

/-- MemoryStepsEndWaits: one state for each wait that a step ends. -/
theorem witness_memory_steps :
    let waiting (w : Wait) : State := mapped.modCur (fun t => { t with state := .wait w })
    let a (o : Nat) : Access := pending false true 1 8 3 o 16 0
    let asked (va : Nat) : State := (waiting (.walk 0 va 3)).modDie 0 (fun d => { d with walks := [(0, va / 65536)] })
    let walks (va : Nat) : Bool := (asked va).walkers 0 0 (va / 65536) == [(0, 0, va, 3)] &&
      ((asked va).dies.filter (fun d => d.2.active.contains (0, va / 65536))).map (fun d => d.1) == [0]
    let kept (va : Nat) : State := ((asked va).modDie 0 (fun d => { d with walks := d.walks.erase (0, va / 65536) })).keepTrail 0 0 va
    let r (c : Option Commit) : Region := ⟨[], [], mkCap 3 0 0 1 0 0, 0, 0, 0, 0, 64, 3, [], none, c⟩
    let sent : Commit := ⟨100, 9, [4], [], none⟩
    let inside (w : Wait) (c : Option Commit) : State := (waiting w).modCur (fun t => { t with region := some (r c) })
    let m : Msg := ⟨0, 0, 0, 0, 1, 0, 0, [mkCap 0 0 0 7 5 0, num 0], none, 2, none⟩
    let long := (mapped.modObj 5 (fun o => { o with length := 65537 }))
    let moving (l : Option Nat) (t : Option (Nat × Msg)) : State :=
      { mapped.modDom 1 0 (fun d => { d with rxls := none, rxcl := some 11 }) with
        transfers := [⟨5, l, t, 0⟩], net := [m], domains := putT mapped.domains (domKey 1 0) { Domain.fresh with rxcl := some 11 } }
    walks 0x10020 = true ∧ walks 0x90000 = true ∧ ((kept 0x10020).walkBy 0 0 3 0x10020).isOk = true ∧
    ((kept 0x90000).walkBy 0 0 3 0x90000).isOk = false ∧ (asked 0x10020).cur.pair = 0 ∧ (asked 0x10020).cur.pend = .none ∧
    mapped.loading 5 = false ∧ (waiting (.reply (a 5) 4)).loading 5 = true ∧
    ((waiting (.translation 4)).slotAt 0 0).state = .wait (.translation 4) ∧ ((waiting (.translation 4)).slotAt 0 0).sbuf = [] ∧
    (mapped.objAt 24).level = 4 ∧ (mapped.objAt 22).level = 5 ∧ (a 24).pops = [] ∧
    ((inside (.reply (a 22) 4) none).slotAt 0 0).region = some (r none) ∧ (r none).e ≠ 0 ∧ 0 ≤ (r none).target ∧
    (r none).target + 2 ≤ (mapped.objAt (objOf (r none).code)).length ∧ (r none).target < 2 ^ 48 ∧
    (let late := { (inside (.reply (a 22) 4) none).modCur (fun t => { t with lastIssue := some 0 }) with time := 100000 }
     (late.slotAt 0 0).waited late.time = true ∧ ({ late with time := 99999 }.slotAt 0 0).waited 99999 = false) ∧
    ((inside .commit (some sent)).slotAt 0 0).state = .wait .commit ∧ ((inside .commit (some sent)).slotAt 0 0).streams = [] ∧
    ((inside .commit (some sent)).slotAt 0 0).region = some (r (some sent)) ∧ 0 < sent.dests.length ∧ sent.answers = [] ∧
    mapped.time < sent.sent + 100000 ∧
    (mapped.objAt 9).entKind = 2 ∧ { mapped with cleaning := [⟨9, 64, 128, 0⟩] }.cleaning = [⟨9, 64, 128, 0⟩] ∧
    (moving (some 0) none).transfers.find? (fun x => x.obj == 5 && x.sent.isNone) = some ⟨5, some 0, none, 0⟩ ∧ mapped.copyLeave ⟨5, some 0, none, 0⟩ = 0 ∧
    long.copyLeave ⟨5, some 0, none, 1⟩ = 2 ∧ (mapped.clusterAt ((mapped.objAt 5).ownCore / 32)).halted = false ∧
    ((mapped.modCluster 0 (fun k => { k with halted := true })).clusterAt ((mapped.objAt 5).ownCore / 32)).halted = true ∧
    (moving (some 0) none).net.find? (fun m => m.pay.any (fun y => isOwn y && objOf y == 5)) = some m ∧ m.dstDev = mapped.devOf m.srcCtx ∧
    ((moving (some 0) none).domAt 1 0).rx 0 = none ∧ ((moving (some 2) none).domAt 1 0).rx 2 = some 11 ∧
    ((moving (some 2) none).room 11 256 true).isSome = true ∧
    (moving none (some (100, m))).transfers.find? (fun x => x.obj == 5) = some ⟨5, none, some (100, m), 0⟩ ∧ mapped.time = 100 ∧
    (moving none (some (101, m))).time < 101 ∧ m.form < 4 ∧ m.srcDev = mapped.devOf m.srcCtx ∧ mapped.hasDom m.srcCore m.srcCtx = true ∧
    (moving none (some (100, m))).landingOf m = none ∧ (moving none (some (100, m))).held_ m.srcDev m.srcCore m.srcCtx = false := by
  and_intros <;> decide +kernel

/-- The domain of core 0 with a handler for class 5, and a message of that class. -/
def mailed : State := board.modCurDom (fun d => { d with bindings := [(5, mkCap 3 0 0 1 0 0x20)], heapSize := 8 })

/-- A message of class 5 for core 0. -/
def letter : Msg := ⟨0, 2, 0, 0, 0, 0, 5, [num 9], none, 0, none⟩

/-- StrandsArriveMoveAndSpill: one state for each movement; an inbox with one place left, and a full one. -/
theorem witness_arrivals :
    let t := ({ board.cur with state := .wait .helper, insn := ((encodePattern (.hstart 14 11 16)).getD (0, 0)).2 } : Slot)
    let start := (board.modSlot 0 3 (fun _ => t)).modCore 0 (fun k => { k with starts := [3] })
    let box (n : Nat) (b : Bool) : State := { mailed.modCore 0 (fun k => { k with inbox := List.replicate n ⟨letter, false, 0⟩, episode := b }) with
      net := [letter] }
    let ctl : Saved := ⟨70000, true, true, [board.cur]⟩
    let empty := (board.modSlot 0 0 (fun t => { t with state := .vacant })).modCore 0 (fun k => { k with tcc := [ctl], holder := none })
    let w : WorkEntry := ⟨0, 9, num 3, ⟨0, []⟩⟩
    let heap (x : HeapRec) : State := (mailed.modCurDom (fun d => { d with heap := [x] })).modCore 0 (fun k => { k with last := 14 })
    let spills (s : State) : State := s.modSlot 0 15 (fun _ => { s.spillStrand 0 0 with opening := 0x010 })
    let level : State :=
      { board.modCore 0 (fun k => { k with work := List.replicate 9 w }) with time := 8192, domains := [(domKey 0 0, board.dom), (domKey 1 0, board.dom)] }
    let shipped := board.modCore 0 (fun k => { k with shipped := [(1, w)] })
    let code := start.slotAt 0 3 |>.reg 11
    ((start.coreAt 0).starts = [3] ∧ start.insnAt 0 3 = some (.hstart 14 11 16) ∧ (start.slotAt 0 3).pend = .none ∧
      (start.slotAt 0 3).pair = 0 ∧ (start.slotAt 0 3).streams = [] ∧ (start.coreAt 0).helpers < 10 ∧ code.tag = true ∧
      wellFormed code = true ∧ kindOf code = 3 ∧ engOnly code = false ∧ (start.coreAt 0).checkCache.contains (objOf code) = true ∧
      genCurrent (start.objAt (objOf code)) (genOf code) = true ∧
      (∀ r ∈ argRegs 16, isShade ((start.slotAt 0 3).reg r.val) = false) ∧ (start.releaseAll 0 3 .domain).mustRebase 0 3 = false ∧
      (start.coreAt 0).open_.head? = some 1) ∧
    (((box 63 false).arrivals 0).filter (fun m => (box 63 false).placed m) = [letter] ∧ ((box 63 false).clusterAt 0).halted = false ∧
      ((box 63 false).clusterAt 0).power = 0 ∧ (box 63 false).hasDom 0 letter.dstCtx = true ∧ (box 63 false).carriesPoison letter = false ∧
      ((box 63 false).coreAt 0).outOfService = false ∧ letter.form ≠ 3 ∧ ((box 63 false).domAt 0 0).msgRecs = false ∧ ((box 63 false).coreAt 0).inbox.length = 63 ∧
      (lookT ((box 63 false).domAt 0 0).bindings letter.cls).isSome = true ∧ ((box 64 false).coreAt 0).inbox.length = 64) ∧
    (((box 1 false).coreAt 0).inbox.find? (fun e => !e.held && !((box 1 false).domAt 0 e.msg.dstCtx).stopped) = some ⟨letter, false, 0⟩ ∧ (box 1 false).carriesPoison letter = false ∧
      lookT ((box 1 false).domAt 0 0).bindings letter.cls = some (mkCap 3 0 0 1 0 0x20) ∧
      (((box 1 false).coreAt 0).open_.drop ((box 1 false).reserved 0)).head? = some 1 ∧ (box 63 false).landingOf letter = none ∧
      ((box 1 false).domAt 0 0).stopped = false) ∧
    ((empty.coreAt 0).tcc.find? Saved.starting = some ctl ∧ ctl.images = [board.cur] ∧
      (empty.slotAt 0 0).state = .vacant ∧ empty.e0Busy 0 0 = false) ∧ (board.coreAt 0).tcc = [] ∧
    ((spills (box 50 true)).maySpill 0 (.spillOut 0) = true ∧ ((spills (box 50 true)).domAt 0 0).heap = [] ∧
      ((spills (box 50 true)).coreAt 0).inbox.length = 50 ∧ (box 50 true).hasDom 0 0 = true ∧ ((box 50 true).coreAt 0).episode = true ∧
      ((box 50 true).coreAt 0).heldCount < 16 ∧ ((box 50 true).domAt 0 0).heap.length + 4 ≤ ((box 50 true).domAt 0 0).heapSize ∧
      (∀ e ∈ ((box 50 true).coreAt 0).inbox, e.msg.dstCore = 0 ∧ e.msg.dstCtx = 0) ∧
      ((box 50 true).coreAt 0).inbox.Pairwise (fun x y => x.order ≤ y.order)) ∧
    (let h := spills (heap (.message letter false 0))
     h.maySpill 0 (.spillReplay 0 0) = true ∧ h.hasDom 0 0 = true ∧ h.dom.heap = [HeapRec.message letter false 0] ∧ letter.dstCtx = 0 ∧
      letter.form ≠ 3 ∧ h.carriesPoison letter = false ∧ h.dom.bound letter.cls = true) ∧
    (let h := spills (heap (.work w))
     h.maySpill 0 (.workReplay 0 0) = true ∧ h.dom.heap = [HeapRec.work w] ∧ (h.coreAt 0).work.length < 32) ∧
    (board.time % 8192 ≠ 0 ∧ level.time % 8192 = 0 ∧ level.domains = [(domKey 0 0, level.domAt 0 0), (domKey 1 0, level.domAt 1 0)] ∧
      (level.domAt 0 0).stopped = false ∧ (level.domAt 1 0).stopped = false ∧ (level.shipping 0 0).isSome = true ∧ level.shipping 1 0 = none ∧
      (∀ w ∈ (level.coreAt 0).work, w.asid = 0 ∧ w.reg.tag = false)) ∧
    ((shipped.clusterAt (0 / 32)).power = 0 ∧ (shipped.coreAt 0).shipped = [(1, w)] ∧ w.reg.tag = false ∧ shipped.hasDom 0 w.asid = true ∧ (shipped.coreAt 0).work.length < 32 ∧
      (shipped.domAt 0 0).workRecs = false) := by
  and_intros <;> decide +kernel

/-- A launch record of context 3 at 0x40 of HBM, to be retired or not, and its queue entry. -/
def launching (retire : Bool) : State :=
  let b8 (n : Nat) : List Byte := leBytes 8 n
  let r := b8 (3 + if retire then 2 ^ 14 else 0) ++ b8 (2 ^ 16) ++ b8 0x20000 ++ b8 (0x100 + 2 ^ 32 * 0x10) ++ b8 0x100000 ++ b8 4096 ++ b8 0 ++
    b8 77 ++ b8 1 ++ b8 (1 + 2 * 2 ^ 16) ++ b8 (2 ^ 8 * 4) ++ b8 0
  { board.modPart 0 (fun p => { p with queue := [(7, 0x40)] }) with
    mem := Memory.write (Memory.write board.mem (hbmBase + 0x40) r) (hbmBase + 0x40 + 0x2FC) [255, 255, 255, 255] }

/-- LaunchesQueueRunAndRetire: a queue with its last place and a full one; a record to run, one to retire with and without its
context; a launch whose domains are quiescent. -/
theorem witness_launches :
    let full (n : Nat) : State := board.modPart 0 (fun p => { p with queue := List.replicate n (7, 0x40), status := [(1, 0)] })
    let l : Launched := ⟨4, 3, [5], [2]⟩
    let idle := { board.modPart 0 (fun p => { p with running := [l] }) with time := 8192 }
    let idle := { idle with parts := [(0, idle.partAt 0)] }
    let ctx := { launching true with ctxs := [(3, ⟨0, 0x100000, false, 8, 0⟩)], domains := [] }
    board.fnTakes 0 = true ∧ board.fnTakes 63 = false ∧ board.fnOpen 0 = true ∧ { board with booted := false }.fnOpen 0 = false ∧
    (full 15).fnOpen 0 = true ∧ (board.partAt 0).flr = false ∧ (full 15).fnTakes 0 = true ∧ ((full 15).partAt 0).queue.length < 16 ∧
    16 ≤ ((full 16).partAt 0).queue.length ∧ board.fnExists 0 = true ∧ (board.partAt 0).status = [] ∧ ((full 1).partAt 0).status = [(1, 0)] ∧
    board.headRecord 0 = none ∧
    ((launching false).headRecord 0).map (fun h => (h.1, recRetire h.2.2, recAsid h.2.2)) = some (7, false, 3) ∧
    ((launching true).headRecord 0).map (fun h => (recRetire h.2.2, bitsAt (recDword h.2.2 0) 15 49)) = some (true, 0) ∧
    lookT (launching true).ctxs 3 = none ∧ (lookT ctx.ctxs 3).map (fun x => x.part) = some 0 ∧
    ctx.domains.any (fun d => d.1 % 4096 == 3) = false ∧ (ctx.headRecord 0).map (fun h => recRetire h.2.2) = some true ∧
    board.time % 8192 ≠ 0 ∧ idle.time % 8192 = 0 ∧ (idle.partAt 0).running = [l] ∧ idle.parts = [(0, idle.partAt 0)] ∧
    (∀ c ∈ l.cores, idle.quiescent c l.asid = true) := by
  and_intros <;> decide +kernel

/-- LaunchesQueueRunAndRetire: a record that is well formed where it and its tables lie in a region of the partition. -/
theorem witness_well_formed_record (h : Config.outsideRegion 0 0x40 = false) (h' : Config.outsideRegion 0 0x100000 = false) :
    let x := ((launching false).headRecord 0).getD (0, 0, [])
    (launching false).headRecord 0 = some x ∧ recRetire x.2.2 = false ∧ (launching false).recordFault 0 x.2.1 x.2.2 = none := by
  refine ⟨by decide +kernel, by decide +kernel, ?_⟩
  unfold State.recordFault State.recordOk
  rw [show (((launching false).headRecord 0).getD (0, 0, [])).2.1 = 0x40 from by decide +kernel,
    show recRoot (((launching false).headRecord 0).getD (0, 0, [])).2.2 = 0x100000 from by decide +kernel, h, h']
  decide +kernel

/-- StrandsAreSavedRestoredAndStopped: a strand that may leave, s15, a vacant slot; a saved strand that fits; the two boundaries. -/
theorem witness_saved_strands :
    let v : Saved := ⟨77, true, false, [{ board.cur with c := [(4, num 9)] }]⟩
    let s := (board.modSlot 0 3 (fun _ => { board.cur with kind := 1 })).modCore 0 (fun k => { k with tcc := [v] })
    let out := s.modSlot 0 3 (fun t => { t with pend := { Pending.none with out := some (false, none) } })
    let swap := out.modSlot 0 3 (fun t => { t with state := .swap })
    let crammed := s.modCore 0 (fun k => { k with tcc := List.replicate 32 v ++ List.replicate 16 { v with inCache := false } })
    let busy := s.modCore 0 (fun k => { k with schedBusy := true })
    (busy.coreAt 0).schedBusy = true ∧ (s.coreAt 0).schedBusy = false ∧ (s.slotAt 0 4).state = .vacant ∧ (s.slotAt 0 3).state = .ready ∧
    (s.slotAt 0 3).pair = 0 ∧ ((s.coreAt 0).makeRoom 1 64).isSome = true ∧ ((crammed.coreAt 0).makeRoom 1 64) = none ∧
    (crammed.coreAt 0).schedBusy = false ∧ (crammed.slotAt 0 3).state = .ready ∧
    (s.refuseIn none 0 3 78 false [3]).isSome = true ∧ s.refuseIn none 0 3 77 false [3] = none ∧
    s.refuseIn none 0 4 77 false [] = none ∧ (s.refuseIn none 0 3 77 false []).isSome = true ∧ v.control = false ∧ (s.coreAt 0).saved 77 = some v ∧
    (out.slotAt 0 3).pend.out = some (false, none) ∧ (out.slotAt 0 3).sbuf = [] ∧ (out.slotAt 0 3).state = .ready ∧
    (out.coreAt 0).tcc.length < 65535 ∧ (swap.slotAt 0 3).state = .swap ∧ (swap.slotAt 0 3).pend.out = some (false, none) ∧
    (swap.coreAt 0).thenIn = none ∧ (out.coreAt 0).thenIn = none ∧ s.hasDom 0 0 = true ∧
    (∀ m ∈ s.net ++ s.outbox, m.dstDev = s.devOf m.dstCtx) := by
  and_intros <;> decide +kernel

/-- ControlResumesHaltsKillsAndSteps: a READY, a frozen and a vacant strand; a pair whose effects match and one whose effects differ; a
command that names an object. -/
theorem witness_control :
    let e : StoreEntry := ⟨5, 0, lsBase 0 + 0x400, [some 1], none, 0, true⟩
    let held (w : Nat) (x : Option StoreEntry) : Held := ⟨.ofNat 32 w, [], 0, x, false, []⟩
    let pair (x y : Held) : State :=
      (board.modSlot 0 3 (fun _ => { board.cur with state := .wait .pairing, pair := 1, partner := 4, held := [x] })).modSlot 0 4
        (fun _ => { board.cur with state := .wait .pairing, pair := 2, partner := 3, held := [y] })
    let ice := board.modSlot 0 3 (fun _ => { board.cur with state := .frozen, trig := true })
    let armed := board.modCluster 0 (fun k => { k with arm := true })
    let k := order (64 * 2 ^ 64 + 0x10) (mkCap 0 0 0 7 5 0) (mkCap 0 0 0 7 12 0) CReg.zero
    let s := stand 1 k
    (board.slotAt 0 0).image = 0 ∧ (board.slotAt 0 0).pair = 0 ∧ (board.slotAt 0 0).state = .ready ∧ (board.slotAt 0 0).sbuf = [] ∧
    (ice.slotAt 0 3).state = .frozen ∧ (ice.slotAt 0 3).trig = true ∧ (ice.slotAt 0 3).pend = .none ∧ (board.slotAt 0 3).state = .vacant ∧
    (armed.clusterAt 0).arm = true ∧ (board.clusterAt 0).arm = false ∧ (board.clusterAt 0).traces = [] ∧
    ((pair (held 5 none) (held 6 none)).slotAt 0 4).pair = 2 ∧ ((pair (held 5 none) (held 6 none)).slotAt 0 4).partner = 3 ∧
    ((pair (held 5 none) (held 5 none)).slotAt 0 3).state = .wait .pairing ∧ (held 5 none).matched = false ∧ (4 : Nat) ≠ 3 ∧
    ((pair (held 5 (some e)) (held 5 (some e))).slotAt 0 3).held = [held 5 (some e)] ∧
    ((pair (held 5 none) (held 6 none)).slotAt 0 ((pair (held 5 none) (held 6 none)).slotAt 0 3).partner).held = [held 6 none] ∧
    ((pair (held 5 none) (held 6 none)).slotAt 0 3).pair = 1 ∧ (held 5 none).word ≠ (held 6 none).word ∧
    (heads [] ((s.coreAt 0).port 1)).find? (fun k => k.done.isNone && s.cmdReads 0 k 5) = some k ∧ k.dest = some k.y ∧
    k.y.tag = true := by
  and_intros <;> decide +kernel

/-- A policy whose classes report under the codes of a test. -/
def policyOf (cls trace : Nat) : List Byte := leBytes 0x30 0 ++ leBytes 4 cls ++ leBytes 60 0 ++ leBytes 4 trace ++ leBytes 0x8C 0

/-- RaceReportsCountersAndTrace: an open record that is closed in this nanosecond and one that is not; the last line of a sweep; a
domain that waits for its rebase; samples that are due. -/
theorem witness_reports :
    let r (t : Nat) : State := board.modCore 0 (fun k => { k with openRec := some ⟨List.replicate 8 0, t, 0⟩ })
    let at_ (n : Nat) : State := { r 0 with time := n }
    let last := board.modCluster 0 (fun k => { k with sweep := 98303 })
    let stale := { board.modCluster 0 (fun k => { k with sweep := 16 }) with mordant := [(lineOf (lsBase 0 + 0x400), ⟨3, 7, 2, 1⟩)] }
    let tired (n : Nat) : State := (board.modSlot 0 0 (fun t => { t with state := .wait .rebase })).modCurDom (fun d => { d with swept := n })
    let snap := { board.modPart 1 (fun p => { p with policy := some (policyOf (3 * 2 ^ 24 + 1) (3 * 2 ^ 24 + 1)) }) with time := 1000000 }
    let trace := { (board.modPart 0 (fun p => { p with policy := some (policyOf 0 (2 ^ 24)) })).modCluster 0
      (fun k => { k with optrace := 1 + 10 * 256 }) with time := 2 ^ 20 }
    let low := board.modPart 0 (fun p => { p with latch := ⟨true, p.sel, 0x8000 + 8 * 3, 77⟩ })
    (board.coreAt 0).openRec = none ∧ (at_ 1024).time = 0 + 1024 ∧ ((at_ 1023).coreAt 0).openRec = some ⟨List.replicate 8 0, 0, 0⟩ ∧ (board.partAt 0).raceRep.tag = false ∧
    (last.clusterAt 0).sweep < 98304 ∧ stale.objectOver (lsBase (0 * 32 + 16 / 4096) + 64 * (16 % 4096)) = some 5 ∧
    (stale.fieldAt (lineOf (lsBase 0 + 64 * 16))).rb ≠ stale.epochOf 5 ∧ (board.fieldAt (lineOf (lsBase 0 + 64 * 16))).rb = board.epochOf 5 ∧
    (tired 2).wantsRebase 0 0 = true ∧ ((tired 2).domAt 0 0).swept = 2 ∧ ((tired 1).domAt 0 0).swept ≠ 2 ∧ (tired 2).hasDom 0 0 = true ∧
    (lookT ((tired 2).coreAt 0).slots 0).isSome = true ∧
    board.fnReads 0 false = true ∧ board.fnOpen 0 = true ∧ board.booted = true ∧ (low.partAt 0).latch.valid = true ∧ (low.partAt 0).latch.sel = (low.partAt 0).sel ∧
    (board.partAt 0).latch.valid = false ∧
    trCode (snap.policyWord 1 0x30) = 3 ∧ snap.time % (trParam (snap.policyWord 1 0x30) * 10 ^ 6) = 0 ∧ counterClass 0 = 0 ∧
    domainCounter 0 = true ∧ trCode (snap.policyWord 1 0x70) = 3 ∧ trParam (snap.policyWord 1 0x70) * 10 ^ 6 ≤ snap.time ∧
    trCode (trace.policyWord 0 0x70) = 1 ∧ sampleDue trace.time (bitsAt (trace.clusterAt 0).optrace 8 5) ((trace.clusterAt 0).optrace % 16) = true ∧
    sampleDue board.time (bitsAt (board.clusterAt 0).optrace 8 5) ((board.clusterAt 0).optrace % 16) = false ∧
    sampleDue trace.time ((trace.clusterAt 0).traceOf 0).period ((trace.clusterAt 0).traceOf 0).en = false ∧
    (∀ m < 24, ∀ n < 16, (m, n) ≠ (0, 0) → (trace.slotAt (0 * 32 + m) n).state = .vacant) ∧ (trace.slotAt 0 0).state ≠ .vacant := by
  and_intros <;> decide +kernel

/-- A packet from device 9 for this one, of context 0. -/
def sentBy (b : Body) : Packet :=
  { tc := 1, dl := 0, det := false, nocode := false, viac := false, pkey := 1, dst := 0, src := 9, dstJob := 0, srcJob := 0, remapEp := 0,
    seq := 0, dstCore := 0, srcCore := 0, ctx := 0, body := b }

/-- A CRC-32C has 32 bits. -/
theorem crc32c_lt (bs : List Byte) : crc32c bs < 2 ^ 32 := by
  have step : ∀ (l : List Nat) (c : Nat), c < 2 ^ 32 →
      l.foldl (fun c _ => if c % 2 = 1 then c / 2 ^^^ 0x82F63B78 else c / 2) c < 2 ^ 32 := by
    intro l
    induction l with
    | nil => exact fun c h => h
    | cons x l ih =>
      intro c h
      refine ih _ ?_
      show (if c % 2 = 1 then c / 2 ^^^ 0x82F63B78 else c / 2) < 2 ^ 32
      split
      · exact Nat.xor_lt_two_pow (by omega) (by decide)
      · omega
  have all : ∀ (bs : List Byte) (c : Nat), c < 2 ^ 32 → bs.foldl (fun c b => crc32cByte c b.toNat) c < 2 ^ 32 := by
    intro bs
    induction bs with
    | nil => exact fun c h => h
    | cons b bs ih =>
      intro c h
      exact ih _ (step _ _ (Nat.xor_lt_two_pow h (by have := b.isLt; omega)))
  exact Nat.xor_lt_two_pow (all bs _ (by decide)) (by decide)

/-- HomeServesAndLinksCarry: an intact group of number 7. -/
theorem witness_group : ∃ ctl : Quad, groupOk (List.replicate 512 0) ctl = true ∧ bitsAt ctl.toNat 116 12 = 7 ∧ bit ctl.toNat 103 = false := by
  let hi : Nat := 7 * 2 ^ 116
  obtain ⟨r, he⟩ : ∃ r, r = crc32c (List.replicate 512 0 ++ (leBytes 16 hi).drop 4) := ⟨_, rfl⟩
  have hr : r < 2 ^ 32 := he ▸ crc32c_lt _
  have hn : (BitVec.ofNat 128 (hi + r)).toNat = hi + r := by
    rw [BitVec.toNat_ofNat, Nat.mod_eq_of_lt]; simp only [hi]; omega
  have hd : (leBytes 16 (hi + r)).drop 4 = (leBytes 16 hi).drop 4 := by
    have h4 : (hi + r) / 256 / 256 / 256 / 256 = hi / 256 / 256 / 256 / 256 := by simp only [hi]; omega
    simp only [leBytes, List.drop, h4]
  refine ⟨.ofNat 128 (hi + r), ?_, ?_, ?_⟩
  · have h1 : channelsOk (hi + r) = true := by
      have h0 : bitsAt (hi + r) 99 4 < 12 := by simp only [bitsAt, hi]; omega
      have h8 : (List.range 8).all (fun i => decide (bitsAt (hi + r) (60 + 4 * i) 4 < 12)) = true := by
        refine List.all_eq_true.mpr (fun i hm => decide_eq_true ?_)
        have := List.mem_range.mp hm
        interval_cases i <;> simp only [bitsAt, hi] <;> omega
      simp only [channelsOk, h0, h8, decide_true, Bool.and_self]
    have h2 : bitsAt (hi + r) 0 32 = r := by simp only [bitsAt, hi]; omega
    simp only [groupOk, hn, hd, h1, h2, List.length_replicate, ← he, beq_self_eq_true, Bool.and_self]
  · rw [hn]; simp only [bitsAt, hi]; omega
  · rw [hn]; have h : (hi + r) / 2 ^ 103 % 2 = 0 := by simp only [hi]; omega
    show ((hi + r) / 2 ^ 103 % 2 == 1) = false
    rw [h]
    rfl

/-- HomeServesAndLinksCarry: each request accepted, and one refused; a group that is not intact; a link with packets to
resend; a packet to forward, one whose key is revoked, one for a fenced neighbour. -/
theorem witness_home_and_links :
    let bs : List Byte := [1, 2, 3, 4]
    let load (g : Nat) := sentBy (.rload 0 2 5 g 16 8)
    let read := sentBy (.eread 0 2 5 5 7 16 8)
    let batch := sentBy (.rbatch 0 2 [⟨1, 0, 5, 7, 16, bs⟩])
    let write := sentBy (.ewrite 0 2 5 5 7 16 bs)
    let answer := { sentBy (.rdata 0 2 .poisoned) with dst := 5 }
    let due (p : Packet) : Bool := p.dstJob == board.jobDev (board.partOf p.ctx) && board.keyIn (board.partOf p.ctx) p.pkey &&
      !board.seen_ p && (p.tc != 0 || p.seq == board.nextOf p && board.reorder.isEmpty)
    let ctl (g : Nat) : BitVec 128 := .ofNat 128 (g * 2 ^ 116 + 6 * 2 ^ 104)
    let flits : List Byte := List.replicate 512 0
    let linked := { board.modLink 1 (fun l => { l with width := 24, rxSeq := 7, replay := [(5, read, 0), (6, read, 0)], tries := 7 }) with
      extents := (4, 4, 2, 2) }
    let dead := board.modLink 1 (fun l => { l with width := 0, replay := [] })
    let fence := board.modLink 1 (fun l => { l with nextFenced := true })
    let q := nextPort linked.extents linked.phys 5
    (due (load 7) && due read && due batch && due write && due { load 7 with tc := 0 }) = true ∧ (linked.linkAt 1).queue = [] ∧
    board.mapped (board.objAt 5).ownCtx 5 16 4 = true ∧ (linked.linkAt q).queue = [] ∧
    answer.body.flits ≤ (linked.linkAt q).credits.getD (vcOf q answer) 0 ∧ (linked.linkAt q).replay.length + answer.body.groups ≤ 64 ∧
    linked.remapped answer = false ∧ (creditDue (owedBy (ctl 7).toNat (linked.linkAt 1).owed)).2 ≤ 15 ∧
    board.homeCheck (load 7) 5 7 16 8 8 false = none ∧ (board.homeCheck (load 6) 5 6 16 8 8 false).isSome = true ∧
    spanTotal (board.homeSpans 5 16 8) = 8 ∧ board.homeCheck read 5 7 16 8 1 false = none ∧
    (board.homeCheck read 5 6 16 8 1 false).isSome = true ∧
    board.homeCheck batch 5 7 16 4 4 true = none ∧ (board.homeCheck batch 5 7 18 4 4 true).isSome = true ∧
    board.homeSpans 5 16 4 = [(16, lsBase 0 + 0x410, 4)] ∧ (board.objAt 5).ptab = false ∧
    board.homeCheck write 5 7 16 4 1 true = none ∧ (board.homeCheck write 5 7 254 4 1 true).isSome = true ∧
    (linked.linkAt 1).rxSeq = 7 ∧ groupOk flits.tail (ctl 7) = false ∧ 6 ≤ (linked.linkAt 1).width ∧ (dead.linkAt 1).width < 6 ∧ (linked.linkAt 1).tries < 8 ∧
    (∀ x ∈ (linked.linkAt 1).replay, acked 4 x.1 = false) ∧ (linked.linkAt 1).replay ≠ [] ∧ (dead.linkAt 1).replay = [] ∧
    { board with revoked := [1] }.keyDrops answer = true ∧ linked.keyDrops answer = false ∧ answer.dst ≠ linked.phys ∧ q ≠ 8 ∧
    linked.linkOk q = true ∧ (linked.linkAt 1).nextFenced = false ∧ (fence.linkAt 1).nextFenced = true ∧ { load 7 with tc := 3 }.privRead = true ∧
    (poisonedAnswer (load 7).body).isSome = true ∧ { write with tc := 3 }.privRead = false ∧ { write with tc := 3 }.privWrite = true ∧ fence.writeLog.length < 4096 := by
  and_intros <;> decide +kernel

/-- Accesses to bytes of LS, TS or CS whose lines record nothing make no race. -/
theorem ordered_of_blank {s : State} {p : Party} {o : Nat} (hm : s.mordant = []) (hl : (s.objAt o).level < 3) : s.ordered p o := by
  intro loc a w
  unfold State.raceAt State.mordantAt
  by_cases h : s.checks p o = true
  · simp [h, hl, State.fieldAt, hm, lookT, covered, Mordant.inherited]
  · simp [h]

/-- A plan of job 0 with a pair, a block that this device sends, and one that it receives. -/
def planned : State :=
  let xf (a b blk so dO : Nat) : List Byte := leBytes 16 (a * 2 ^ 112 + b * 2 ^ 96 + so * 2 ^ 64 + dO * 2 ^ 32 + blk)
  let plan := leBytes 16 (5 * 2 ^ 16 + 1 * 2 ^ 32 + 64 * 2 ^ 40) ++ xf 4 5 11 0 0 ++ xf 6 7 12 0 0 ++ xf 0 4 13 64 0 ++ xf 4 0 14 0 0 ++
    xf 5 0 15 0 64 ++ leBytes 16 (0 * 2 ^ 80 + 1 * 2 ^ 64)
  let k : Cmd := { order 0x23 (mkCap 1 0 20 7 5 0) (mkCap 0 0 0 7 7 64) (num 6) with sent := true }
  let s := { yard with objs := yard.objs ++ [(23, live 0 300 0x4000 9)], extents := (2, 4, 4, 1), time := 200000 }
  let s := s.modPart 0 (fun q => { q with
    shuffles := [(6, ⟨3, false, false, plan, 0, 0, true, [0]⟩)], active := [⟨6, 0, 0, [], [(13, 100000, false, false)], [(13, List.replicate 64 5)], [], false⟩]
    remap := [(4, ⟨true, 0, 0x1000⟩), (5, ⟨true, 0, 0x40⟩), (6, ⟨true, 0, 0x2000⟩), (7, ⟨true, 0, 0x80⟩)], sides := [⟨6 * 65536 + 15, 23, 0, 7⟩] })
  s.modCore 0 (fun c => { c with ports := [(2, [k])] })

/-- A block of that plan, in one packet. -/
def blockOn (n : Nat) : Block := ⟨6, n, 15, 0, 1, 3, 0, 0, 0, 0, 0, List.replicate 64 9⟩

/-- A packet of the shuffle. -/
def carried (dst : Nat) (b : Body) : Packet := { sentBy b with dst := dst, src := 0x1000, dstJob := 5, srcJob := 4 }

/-- CodingRoutersAndShuffleBlocks, a coding router: a pair whose first and second packets arrive, whole blocks and parts of them; timers
that expire in this nanosecond, and one nanosecond early; answers to the coded packets. -/
theorem witness_coding_router :
    let s := planned
    let a := carried 0x40 (.block (blockOn 11))
    let b := carried 0x80 (.block (blockOn 12))
    let half := carried 0x80 (.block { blockOn 12 with npkt := 2, ix := 1 })
    let h (st : Nat) (t : Nat) : HoldEntry := ⟨0, 6, 0, 1, [a], [], 64, [0], [], st, t, t, 0, false, false⟩
    let one (h : HoldEntry) : State := { s with holds := [h] }
    let open_ (q : Packet) : Bool := nextPort s.extents s.phys q.dst != 8 && s.linkOk (nextPort s.extents s.phys q.dst)
    s.pointFor (carried 0 (.sack (blockOn 11))) = none ∧ (s.pointFor a).map (fun x => (x.1, x.2.2.2)) = some (0, true) ∧
    (s.pointFor b).map (fun x => (x.2.1.len, x.2.2.1.xa, x.2.2.1.xb, x.2.2.2)) = some (64, 0, 1, false) ∧
    (s.pointFor half).map (fun x => x.2.2.2) = some false ∧ s.holdAt 0 6 0 = none ∧ s.holdUsed + 2 * 64 ≤ 2 ^ 21 ∧
    open_ a = true ∧ open_ b = true ∧ (one (h 0 0)).holdAt 0 6 0 = some (h 0 0) ∧ (one (h 2 0)).holdAt 0 6 0 = some (h 2 0) ∧
    (one (h 1 0)).holdAt 0 6 0 = some (h 1 0) ∧ a.dst ≠ s.phys ∧ b.dst ≠ s.phys ∧
    -- the packet of the partner makes both blocks whole, or not
    ((h 0 0).seenA.length = (blockOn 12).npkt ∧ (putN (h 0 0).seenB (blockOn 12).ix).length = (blockOn 12).npkt) ∧
    (h 0 0).seenA.length ≠ 2 ∧ (h 0 0).seenA.contains (blockOn 11).ix = true ∧ (h 0 0).seenB.contains (blockOn 12).ix = false ∧
    (h 0 0).origA.find? (fun z => z.ix == 0) = some a ∧
    ([s.asHeld 8 b]).find? (fun z => z.ix == 0) = some (s.asHeld 8 b) ∧ (s.asHeld 8 b).body = .block (blockOn 12) ∧
    (h 0 192000).since + 8000 ≤ s.time ∧ s.time < (h 0 192001).since + 8000 ∧ (h 1 160000).timer + 40000 ≤ s.time ∧
    s.time < (h 1 160001).timer + 40000 ∧ (h 1 0).expiries = 0 ∧ { h 1 0 with expiries := 1 }.expiries ≠ 0 ∧
    (one (h 1 0)).holdFor (carried 0 (.sack (blockOn 11))) (blockOn 11) = some (h 1 0, true) ∧
    (one { h 1 0 with sackB := true }).holdFor (carried 0 (.sack (blockOn 11))) (blockOn 11) = some ({ h 1 0 with sackB := true }, true) := by
  and_intros <;> decide +kernel

/-- CodingRoutersAndShuffleBlocks, a member: its running SHUFFLE with nothing placed and nothing answered, and with all but one answer; timers
at their ends; a block to place, half of one, and a coded one to decode. -/
theorem witness_coding_member :
    let s := planned
    let plan := (s.planAt 0 6).getD (planOf [])
    let r : Running := ⟨6, 0, 0, [], [(13, 100000, false, false)], [(13, List.replicate 64 5)], [], false⟩
    let all_ : Running := { r with placed := [14, 15], sent := [(13, 100000, true, false)] }
    let ended := s.modPart 0 (fun q => { q with active := [all_] })
    let xs := s.spansAt 0 23 0 64
    let coded := { blockOn 14 with crcA := crc64 (xorBytes (s.engineBytes xs) (blockOn 14).payload) }
    ((ended.runningOf 0 6).map (fun x => x.1) = some all_ ∧ (ended.partAt 0).active = [all_] ∧
      (plan.receives (s.jobDev 0)).all (fun z => all_.placed.contains z.block) = true ∧
      (plan.sends (s.jobDev 0)).all (fun z => all_.sent.any (fun v => v.1 == z.block && (v.2.2.2 || v.1 == 13))) = true ∧
      all_.sent.find? (fun z => z.1 == 13) = some (13, 100000, true, false)) ∧
    s.holdFor (carried 0 (.sack (blockOn 13))) (blockOn 13) = none ∧ (s.runningOf 0 6).map (fun x => x.1) = some r ∧
    (s.planAt 0 6).isSome = true ∧ (s.partAt 0).active = [r] ∧ (plan.receives (s.jobDev 0)).map (fun x => x.block) = [14, 15] ∧
    (plan.receives (s.jobDev 0)).all (fun z => r.placed.contains z.block) = false ∧
    (plan.sends (s.jobDev 0)).map (fun x => x.block) = [13] ∧ s.sendsBlock 0 (blockOn 13) = true ∧ s.sendsBlock 0 (blockOn 14) = false ∧
    r.start + 200000 ≤ s.time ∧ { s with time := 199999 }.time < r.start + 200000 ∧
    r.sent.find? (fun z => z.1 == 13) = some (13, 100000, false, false) ∧ 100000 + 100000 ≤ s.time ∧ { s with time := 199999 }.time < 100000 + 100000 ∧
    (s.remapOf 0 4).isSome = true ∧ (lookT (s.partAt 0).shuffles 6).map (fun x => x.digest) = some (blockOn 14).digest ∧
    (s.spansAt 0 7 64 64).map (fun z => (z.2.1, z.2.2)) = [(csBase 0 + 0x440, 64)] ∧ csBase 0 + 0x440 < hostBase ∧
    (s.objAt 7).ptab = false ∧ (blockOn 14).payload.length = plan.len ∧ plan.len = 64 ∧ lookT r.partly 14 = none ∧
    s.wholeBlock (carried 0 (.block (blockOn 14))) (blockOn 14) = some (blockOn 14) ∧
    s.wholeBlock (carried 0 (.block { blockOn 14 with npkt := 2 })) { blockOn 14 with npkt := 2 } = none ∧ s.buffered + 64 ≤ 2 ^ 20 ∧
    (s.runningOf 0 6).map (fun x => x.2.stopped) = some false ∧
    (s.runningOf 0 6).map (fun x => (s.sideOf 0 x.1 x.2 15).map (fun y => (y.obj, y.loc))) = some (some (23, 0)) ∧
    spanTotal xs = 64 ∧ s.keyIn 0 (carried 0 (.lake (blockOn 14))).pkey = true ∧ coded.rcvA = s.phys ∧ coded.rcvB = s.phys ∧
    s.wholeBlock (carried 0 (.lake coded)) coded = some coded ∧ (xorBytes (s.engineBytes xs) coded.payload).length = 64 ∧
    crc64 (xorBytes (s.engineBytes xs) coded.payload) = coded.crcA := by
  and_intros <;> decide +kernel

/-- CodingRoutersAndShuffleBlocks: no strand waits at a barrier. -/
theorem witness_coding_settled (c i n m : Nat) (h : (planned.slotAt c i).state = .wait (.barrier n m)) :
    (planned.slotAt c i).pend = .none := settled_of_listed (by decide +kernel) c i n m h

/-- CodingRoutersAndShuffleBlocks: held payloads of 2^20 bytes leave no room for a pair of 64 bytes more. -/
theorem witness_no_room (h : HoldEntry) (n : Nat) (hn : n = 2 ^ 20) :
    2 ^ 21 < ({ planned with holds := [{ h with state := 0, len := n }] }).holdUsed + 2 * 64 := by
  simp [State.holdUsed]
  omega

/-- CodingRoutersAndShuffleBlocks: the command's reads and writes make no race. -/
theorem witness_coding_ordered (k : Cmd) :
    planned.ordered (planned.cmdParty 0 2 k) 7 ∧ planned.ordered (planned.cmdParty 0 2 k) 23 :=
  ⟨ordered_of_blank (by decide +kernel) (by decide +kernel), ordered_of_blank (by decide +kernel) (by decide +kernel)⟩

/-- A device with an aperture that exports an object, tables that map HBM, and a doorbell port. -/
def exported (c : CReg) : State :=
  mapped.modPart 0 (fun p => { p with exports := [(0, c)], dbports := [(0, portTo 0 3 9)], winVa := 0x10000 })

/-- HostRequestsReachTheDevice: an export of data, of a full and of an empty word, and none; both doorbells; windows; each state of a
partition. -/
theorem witness_host_requests :
    let bytes : List (Option Byte) := [some 1, none, some 3, some 4]
    let data := { exported (mkCap 0 0 0 7 7 16) with objs := yard.objs }
    let sync := exported (mkCap 2 0 0 7 15 0)
    let full := { sync with full := [lsBase 0 + 0x800] }
    let word (hi asid : Nat) : Word := .ofNat 64 (hi * 2 ^ 61 + 4 * 2 ^ 48 + 1 * 2 ^ 20 + asid)
    let x := (word 4 0).toNat
    let none_ : List (Option Byte) := [none, none]
    let size (b : List (Option Byte)) : Nat := if b.all (fun x => x.isNone) then 0 else b.length
    let crowd := { full with waiters := List.replicate 32 ⟨lsBase 0 + 0x800, 0, 0, 3, 0, 0, CReg.zero, ⟨0, []⟩, 4⟩ }
    let busy := board.modPart 0 (fun p => { p with winBusy := some 4 })
    let held := { board with waiters := [⟨lsBase 0 + 0x800, 0, 0, 16, 2, 0, CReg.zero, ⟨0, []⟩, 4⟩] }
    let st (n : Nat) : State := board.modPart 0 (fun p => { p with pstate := n })
    let aims (s : State) (a v : Nat) : State := { s with mem := Memory.write s.mem (hbmBase + a) (leBytes 8 (2 ^ 63 + 2 ^ 60 + v)) }
    let host := aims (aims (aims (aims sync 0x100000 0x101000) 0x101000 0x102000) 0x102000 0x103000) 0x103008 (2 ^ 62 + 0x500000)
    let win := host.modPart 0 (fun p => { p with windows := [(4, ⟨24, true⟩)] })
    (board.fnExists 0 && !(board.partAt 0).flr && board.fnOpen 0) = true ∧ held.fnHeld 0 = true ∧ held.fnOpen 0 = false ∧
    (board.modPart 0 (fun p => { p with late := some (0, 0) })).fnOpen 0 = false ∧ size none_ = 0 ∧ size bytes = 4 ∧
    (data.exportAt 0 239 0).isSome = true ∧ (data.inCells 7 16 none_) = some [] ∧ crowd.listRoom (lsBase 0 + 0x800) = false ∧
    crowd.isFull (lsBase 0 + 0x800) = true ∧ (busy.partAt 0).winBusy.isSome = true ∧ busy.fnTakes 0 = true ∧ busy.fnOpen 0 = true ∧
    (sync.partAt 0).winBusy = none ∧ (∀ m ∈ sync.net, m.dstDev = sync.devOf m.dstCtx) ∧
    (data.exportAt 0 0 4).isSome = true ∧ (data.exportAt 0 238 2).isSome = true ∧ data.exportAt 0 239 2 = none ∧ data.exportAt 0 (2 ^ 32) 4 = none ∧
    data.atEdge 7 = none ∧ ((data.exportAt 0 0 4).bind (fun x => data.atEdge (objOf x.1))) = none ∧ (data.objAt 7).level = 2 ∧ (data.objAt 7).ptab = false ∧ data.ordered (data.inParty 7) 7 ∧
    (data.inCells 7 16 bytes).map (fun cs => cs.all (fun y => decide (y.2.1 < hostBase))) = some true ∧
    (data.inValue 0 0 4).isSome = true ∧ data.inValue 0 (2 ^ 32) 4 = none ∧
    (sync.exportAt 0 0 16).map (fun y => (kindOf y.1, y.2)) = some (2, 0) ∧
    (match sync.flatNow (sync.objAt 15).ownCtx 15 0 with
      | .ok w => w == lsBase 0 + 0x800
      | .error _ => false) = true ∧
    sync.isFull (lsBase 0 + 0x800) = false ∧ full.isFull (lsBase 0 + 0x800) = true ∧ full.listRoom (lsBase 0 + 0x800) = true ∧
    sync.waiters = [] ∧ sync.engineWaits (sync.objAt 15).ownCore (sync.objAt 15).ownCtx 19 = false ∧ sync.atEdge 15 = none ∧
    sync.engineWaits 0 0 19 = false ∧ sync.partOf 0 = 0 ∧ sync.fnTakes 0 = true ∧ sync.fnHeld 0 = false ∧ lookT (sync.partAt 0).dbports 0 = some (portTo 0 3 9) ∧ portGrp (portTo 0 3 9) = false ∧
    wellFormed (portTo 0 3 9) = true ∧ portDev (portTo 0 3 9) = sync.jobDev 0 ∧ sync.hasDom (portTarget (portTo 0 3 9)) (portCtx (portTo 0 3 9)) = true ∧
    sync.held_ 0 0 0 = false ∧ (sync.clusterAt (clusterOf 0)).power = 0 ∧ (lookT (sync.partAt 0).dbports 1).isNone = true ∧
    (word 4 0).getLsbD 63 = true ∧ (word 4 0).getLsbD 62 = false ∧ (word 6 0).getLsbD 62 = true ∧ bitsAt x 56 5 = 0 ∧ bitsAt x 44 4 = 0 ∧
    bitsAt x 12 8 = 0 ∧ bitsAt x 20 24 = 1 ∧ bitsAt x 48 8 = 4 ∧ bitsAt (sync.partAt 0).winVa 0 16 = 0 ∧
    (lookT sync.ctxs 0).any (fun y => y.part == 0) = true ∧ (lookT sync.ctxs 5).any (fun y => y.part == 0) = false ∧
    lookT (sync.partAt 0).windows 4 = none ∧ sync.hostMapped 0 0x20000 1 = false ∧ host.hostMapped 0 0x10000 1 = true ∧
    host.fnTakes 0 = true ∧ lookT (win.partAt 0).windows 4 = some ⟨24, true⟩ ∧ win.loading 24 = false ∧ win.named 24 = false ∧ win.fnTakes 0 = true ∧
    (win.modSlot 0 0 (fun t => { t with state := .wait (.reply (pending false true 1 8 3 24 16 0) 4) })).loading 24 = true ∧
    bitsAt (sync.partAt 0).winVa 48 16 = 0 ∧
    ((st 0).partAt 0).tdi = 0 ∧ ((st 1).partAt 0).pstate = 1 ∧ ((st 1).partAt 0).resetPending = false ∧ ((st 2).partAt 0).pstate = 2 ∧
    ((st 3).partAt 0).pstate = 3 ∧ (∀ k ∈ (st 3).cleaning, k.part ≠ 0) := by
  and_intros <;> first | exact ordered_of_blank (by decide +kernel) (by decide +kernel) | decide +kernel

/-- HostRequestsReachTheDevice: a free entry for a window. -/
theorem witness_window_entry : ∃ o, bare.pickEntry 0 65535 = some o := witness_free_entry.2.2.2

/-- PowerBootAndManagementAct: the ends of the ranges of temperatures; clusters that may enter each state, and that may not; a function
that may install streams; TDI states; an image that is accepted, and one that is not. -/
theorem witness_power_and_management :
    let quiet := { board with cores := [], objs := [], time := 2 ^ 20 }
    let slow (n : Nat) : State := quiet.modPart 0 (fun p => { p with latTol := n })
    let low (n : Nat) : State := quiet.modCluster 0 (fun k => { k with power := n })
    let vf := board.modPart 1 (fun p => { p with tdi := 2 })
    let st := board.modPart 0 (fun p => { p with pstate := 2 })
    let i : Image := { board.imageOf 1 with
      part := 1, policy := none, objs := [(99, live 0 64 0 9)], bytes := [], ctxs := [], verified := true, domains := [], saved := [] }
    (95 ≤ 100 ∧ 100 < 101 ∧ 101 < 110 ∧ 94 < 95) ∧ quiet.idle 0 = true ∧ board.idle 0 = false ∧ quiet.stirred 0 = false ∧ (low 2).stirred 0 = false ∧
    ((low 2).modCluster 0 (fun k => { k with wake := true })).stirred 0 = true ∧
    ((low 3).modCluster 0 (fun k => { k with wake := true })).stirred 0 = true ∧ board.fnOpen 0 = true ∧ { board with booted := false }.booted = false ∧
    (slow 200000).offOk 0 = true ∧ (quiet.clusterAt 0).power = 0 ∧
    quiet.partsIn 0 = [0] ∧ (slow 19).lowState 0 = 0 ∧ (slow 20).lowState 0 = 1 ∧ (slow 1999).lowState 0 = 1 ∧ (slow 2000).lowState 0 = 2 ∧
    (slow 199999).lowState 0 = 2 ∧ (slow 200000).lowState 0 = 3 ∧ ((low 2).clusterAt 0).power = 2 ∧ ((low 3).clusterAt 0).power = 3 ∧
    board.booted = true ∧ board.fnExists 0 = true ∧ board.fnTakes 0 = true ∧ (board.partAt 0).flr = false ∧ (vf.partAt 1).tdi = 2 ∧
    (board.partAt 1).tdi = 0 ∧ tdiMay 0 1 = true ∧ tdiMay 1 2 = true ∧ tdiMay 2 0 = true ∧ tdiMay 0 2 = false ∧ (st.partAt 0).pstate = 2 ∧
    (board.partAt 0).pstate = 0 ∧ board.importOk i = true ∧ i.saved = [] ∧ i.objs = [(99, live 0 64 0 9)] ∧
    board.importOk { i with verified := false } = false := by
  and_intros <;> decide +kernel

/-- A strand of core 0 at a word that stands for no instruction (R50). -/
def stuckAt : State := State.reset.withFetchWord 32 0x96000000

/-- FaultsFreezeSendPacketsAndResume: a strand that a fault may freeze, with no supervisor and with one; a strand at a word that is no
instruction. -/
theorem witness_faults :
    let with_ := board.modPart 0 (fun p => { p with supvCores := [0], supvCtx := 0 })
    let a := stuckAt
    let b := a.choose 0 0
    let cross := board.modCluster 0 (fun k => { k with arm := true, onBreak := true })
    (board.slotAt 0 0).pair = 0 ∧ bit (board.clusterAt 0).optrace 3 = false ∧ (lookT (board.clusterAt 0).traces 0).isNone = true ∧
    board.supervisor (board.packetTarget 0 board.cur) = none ∧ with_.supervisor (with_.packetTarget 0 with_.cur) = some 0 ∧
    with_.packetTarget 0 with_.cur ≠ 64 ∧ with_.held_ 0 0 0 = false ∧ { with_ with notices := [(0, 0, 0)] }.held_ 0 0 0 = true ∧
    (board.slotAt 0 0).state = .ready ∧ (board.slotAt 0 0).image = 0 ∧ (board.slotAt 0 0).pend = .none ∧
    (cross.slotAt 0 0).pair = 0 ∧ (cross.clusterAt 0).arm = true ∧ (cross.clusterAt 0).onBreak = true ∧
    stuckAt.agenda = [] ∧ stuckAt.core = 0 ∧ coreOk 0 = true ∧ a.redoSlot 0 = none ∧ a.pickSlot 0 = some 0 ∧ a.mayIssue 0 = true ∧
    (a.slotAt 0 0).pair = 0 ∧ (a.slotAt 0 0).pend = .none ∧ (a.slotAt 0 0).region = none ∧ (a.slotAt 0 0).loop.isNone = true ∧
    (match fetch.run ⟨b, b, []⟩ with
      | .ok ((n, w), x) => n == 4 && w == 0x96000000 && x.st.missing 0 0 n == [] && !(decodePattern n w).isOk
      | .error _ => false) = true := by
  and_intros <;> decide +kernel

/-- MemoryStaysCanonical: memory in its form, and a step that goes on from it. -/
theorem witness_memory_form :
    Memory.wf State.reset.mem = true ∧ Memory.wf board.mem = true ∧ board.mem ≠ [] ∧ after board (fun t => Memory.wf t.mem) = some true := by
  and_intros <;> decide +kernel

/-- ResetLeavesTheDevice: events of the agenda that are steps, and two that are not. -/
theorem witness_agenda :
    let first (i : Instr) : State := { State.reset with agenda := [.event i] }
    (first (.thermalSample 0 110)).agenda = [.event (.thermalSample 0 110)] ∧
    { State.reset with agenda := [.read 0 8 false] }.agenda = [.read 0 8 false] ∧
    Instr.wf (.thermalSample 0 110) = true ∧ Instr.isStep (.thermalSample 0 110) = true ∧ Instr.isStep (.add 1 2 3) = false ∧
    Instr.wf (.st 1 2 .bz 0) = false := by
  and_intros <;> decide +kernel

end Sys2Proof.Tests
end

/-! PROOF. How a step comes to its turn (R5, R19, R20, R112, log 1), and the device after reset. -/

namespace Sys2Proof.Machine

/-- With no turn queued the core in focus has its cycle. -/
theorem step_of_agenda_nil {s : State} (h : s.agenda = []) :
    step s = State.perform ((s.inOrder s.core).proceed s.core) := by
  simp only [step, h]

theorem State.perform_run (i : Instr) (s : State) : State.perform (.run i s) = exec i s := rfl

/-! #### Whose turn it is -/

section turns
variable {s : State} {c i : Nat}

theorem State.running_of_mayIssue (h : s.mayIssue c = true) : s.running c = true := by
  unfold State.mayIssue at h
  exact (Bool.and_eq_true_iff.1 h).1

theorem State.proceed_of_redo (hr : s.running c = true) (hi : s.redoSlot c = some i) : s.proceed c = s.issueTurn c := by
  simp [State.proceed, hr, hi]

theorem State.proceed_of_pick (hm : s.mayIssue c = true) (hp : s.pickSlot c = some i) : s.proceed c = s.issueTurn c := by
  simp [State.proceed, hm, hp]

/-- With nothing to take up again and no slot that may issue, the next cycle begins. -/
theorem State.proceed_of_none (hr : s.redoSlot c = none) (h : s.pickSlot c = none ∨ s.mayIssue c = false) :
    s.proceed c = (s.cycles 1).cycleOf c := by
  rcases h with h | h <;> simp [State.proceed, hr, h]

theorem State.cycleOf_of_pick (hp : s.pickSlot c = some i) : s.cycleOf c = s.issueTurn c := by
  simp only [State.cycleOf, hp]

/-! #### What a core asks of the state does not depend on the core in focus -/

theorem State.isSome_continueAt_focus (s : State) (c : Nat) (m : Msg) :
    (({ s with core := c } : State).continueAt m).isSome = (s.continueAt m).isSome := by
  simp only [State.continueAt, apply_ite Option.isSome, Option.isSome_some, Option.isSome_none]
  rfl

theorem State.canReplay_focus (s : State) (c : Nat) : ({ s with core := c } : State).canReplay c = s.canReplay c := by
  funext r
  cases r with
  | message m held order => simp only [State.canReplay, State.isSome_continueAt_focus]; rfl
  | work w => rfl

theorem State.replays_focus (s : State) (c : Nat) : ({ s with core := c } : State).replays c = s.replays c := by
  funext asid
  unfold State.replays
  rw [State.canReplay_focus]
  rfl

theorem State.spillOp_focus (s : State) (c : Nat) : ({ s with core := c } : State).spillOp c = s.spillOp c := by
  unfold State.spillOp
  rw [State.replays_focus]
  rfl

theorem State.spillReady_focus (s : State) (c : Nat) : ({ s with core := c } : State).spillReady c = s.spillReady c := by
  unfold State.spillReady
  rw [State.spillOp_focus]
  rfl

theorem State.pickSlot_focus (s : State) (c : Nat) : ({ s with core := c } : State).pickSlot c = s.pickSlot c := by
  unfold State.pickSlot
  rw [State.spillReady_focus]
  rfl

/-! #### What an issue turn comes to -/

theorem State.issueTurn_of_coreOk (h : coreOk c = true) : s.issueTurn c = holdBack (s.issueCore c) := by
  simp only [State.issueTurn, h, if_true]

theorem State.issueCore_of_redo (hr : s.running c = true) (hi : s.redoSlot c = some i) : s.issueCore c = s.redo c i := by
  have hr' : ({ s with core := c } : State).running c = true := hr
  have hi' : ({ s with core := c } : State).redoSlot c = some i := hi
  simp only [State.issueCore, hr', hi', if_true]
  rfl

theorem State.issueCore_of_pick (hr : s.redoSlot c = none) (hm : s.mayIssue c = true) (hp : s.pickSlot c = some i)
    (hi : i ≠ 15) : s.issueCore c = s.issueSlot c i := by
  have hrun : ({ s with core := c } : State).running c = true := State.running_of_mayIssue hm
  have hr' : ({ s with core := c } : State).redoSlot c = none := hr
  have hm' : ({ s with core := c } : State).mayIssue c = true := hm
  have hp' : ({ s with core := c } : State).pickSlot c = some i := (s.pickSlot_focus c).trans hp
  simp only [State.issueCore, hrun, hr', hm', hp', hi, if_true, if_false]
  rfl

/-- A strand whose open region has not failed, with the bytes at hand, issues what it has fetched (R112, R129). -/
theorem State.issueSlot_of_fetch {n w : Nat} {x : Ctx} (hreg : (s.slotAt c i).region.bind (fun r => r.failed) = none)
    (hf : fetch.run ⟨s.choose c i, s.choose c i, []⟩ = .ok ((n, w), x)) (hm : x.st.missing c i n = []) :
    s.issueSlot c i = .run (insnOf n w) (x.st.fetched w) := by
  unfold State.choose at hf
  simp only [State.issueSlot, hreg, hf, hm]

end turns

theorem insnOf_of_decode {n w : Nat} {ins : Instr} (h : decodePattern n w = .ok ins) : insnOf n w = ins := by
  simp only [insnOf, h]

theorem holdBack_of_no_loop {i : Instr} {s : State} (h : s.cur.loop = none) : holdBack (.run i s) = .run i s := by
  simp only [holdBack, h]

/-- The mark of an issue leaves the strand's loop as it is. -/
theorem State.loop_cur_fetched (s : State) (w : Nat) : (s.fetched w).cur.loop = s.cur.loop := by
  rw [State.fetched, State.cur_modCur]
  simp [State.cur, State.slotAt, State.coreAt, State.modCore, State.setCore, Core.slotAt]

/-! #### A turn that runs what a pattern decodes to -/

section turns
variable {s : State} {c i n w : Nat} {ins : Instr}

/-- A slot that issues runs the instruction that it has fetched (R19, R46). -/
theorem State.issueTurn_of_fetch {x : Ctx} (hc : coreOk c = true) (hr : s.redoSlot c = none) (hp : s.pickSlot c = some i)
    (hi : i ≠ 15) (hm : s.mayIssue c = true) (hreg : (s.slotAt c i).region.bind (fun r => r.failed) = none)
    (hf : fetch.run ⟨s.choose c i, s.choose c i, []⟩ = .ok ((n, w), x)) (hmiss : x.st.missing c i n = [])
    (hd : decodePattern n w = .ok ins) (hl : x.st.cur.loop = none) : s.issueTurn c = .run ins (x.st.fetched w) := by
  have hslot : s.issueCore c = .run ins (x.st.fetched w) := by
    rw [State.issueCore_of_pick hr hm hp hi, State.issueSlot_of_fetch hreg hf hmiss, insnOf_of_decode hd]
  rw [State.issueTurn_of_coreOk hc, hslot, holdBack_of_no_loop ((State.loop_cur_fetched x.st w).trans hl)]

/-- An instruction whose wait has ended runs again (R20). -/
theorem State.issueTurn_of_redo (hc : coreOk c = true) (hi : s.redoSlot c = some i) (hr : s.running c = true)
    (hw : (s.slotAt c i).insn = w) (hl : (s.slotAt c i).loop = none)
    (hd : decodePattern (if w < 2 ^ 15 then 2 else 4) w = .ok ins) :
    s.issueTurn c = .run ins { s.choose c i with ir := w, busy := true } := by
  have hredo : s.redo c i = .run ins { s.choose c i with ir := w, busy := true } := by
    simp only [State.redo, hw, insnOf_of_decode hd, State.choose]
  rw [State.issueTurn_of_coreOk hc, State.issueCore_of_redo hr hi, hredo]
  exact holdBack_of_no_loop hl

end turns

/-- Settles O4: the three ways in which a core's turn comes to an instruction. -/
theorem stepRunsDecodedInstruction : Obligations.StepRunsDecodedInstruction := by
  unfold Obligations.StepRunsDecodedInstruction
  intro s i n w x ins ha hc issues resumes s'
  have hstep : step s = State.perform (s'.proceed s.core) := step_of_agenda_nil ha
  refine ⟨?issuesNow, ?resumesNow, ?issuesNext⟩
  case issuesNow =>
    intro hr hp hi hm hreg hf hmiss hd hl
    rw [hstep, State.proceed_of_pick hm hp, State.issueTurn_of_fetch hc hr hp hi hm hreg hf hmiss hd hl, State.perform_run]
  case resumesNow =>
    intro hi hr hw hl hd
    rw [hstep, State.proceed_of_redo hr hi, State.issueTurn_of_redo hc hi hr hw hl hd, State.perform_run]
  case issuesNext =>
    intro hno hidle hr hp hi hm hreg hf hmiss hd hl
    rw [hstep, State.proceed_of_none hno hidle, State.cycleOf_of_pick hp,
      State.issueTurn_of_fetch hc hr hp hi hm hreg hf hmiss hd hl, State.perform_run]

/-! ### The device after reset, and the turns of the agenda (R8, R219, R301, R343, R380) -/

section agenda
variable {s : State} {i : Instr} {rest : List Turn}

theorem step_of_event (h : s.agenda = .event i :: rest) : step s = State.event i { s with agenda := rest } := by
  simp only [step, h]

theorem step_of_read (s : State) (fn off : Nat) (trusted : Bool) (rest : List Turn) :
    step { s with agenda := .read fn off trusted :: rest } =
      ({ s with agenda := rest } : State).settled.readRegister fn off trusted := rfl

theorem State.event_of_step (hw : i.wf = true) (hs : i.isStep = true) : State.event i s = exec i s.settled := by
  simp only [State.event, hw, hs, Bool.and_self, if_true]

/-- An encoding, or a step that names what does not exist, does nothing (R8). -/
theorem State.event_of_no_step (h : i.wf = false ∨ i.isStep = false) : State.event i s = .next s := by
  rcases h with h | h <;> simp [State.event, h]

end agenda

/-- Settles O60: every table of the reset state is empty, so each of its entries reads as the entry's reset value. -/
theorem resetLeavesTheDevice : Obligations.ResetLeavesTheDevice := by
  unfold Obligations.ResetLeavesTheDevice
  have hobj (o : Nat) : State.reset.objAt o = Obj.free := rfl
  have hslot (c i : Nat) : State.reset.slotAt c i = Slot.vacant := rfl
  have hfield (l : Nat) : State.reset.fieldAt l = Mordant.inherited 0 := rfl
  have hcluster (k : Nat) : State.reset.clusterAt k = Cluster.reset := rfl
  have hpart (p : Nat) : State.reset.partAt p = Partition.reset := rfl
  have hlink (p : Nat) : State.reset.linkAt p = Link.reset := rfl
  refine ⟨?_, ?_, ?_, ?_, ?_, rfl, ?_, rfl, ?_⟩
  · intro o; rw [hobj]; exact ⟨rfl, rfl, rfl, rfl⟩
  · intro c i; rw [hslot]; rfl
  · intro l; rw [hfield]; exact ⟨rfl, rfl⟩
  · intro k; rw [hcluster]; exact ⟨rfl, rfl⟩
  · intro p; rw [hpart]; exact ⟨rfl, rfl, rfl, rfl, rfl⟩
  · intro p; rw [hlink]; rfl
  · intro s i rest ha
    refine ⟨fun hw hs => ?_, fun h => ?_, fun fn off trusted => step_of_read s fn off trusted rest⟩
    · rw [step_of_event ha, State.event_of_step hw hs]
    · rw [step_of_event ha, State.event_of_no_step h]

end Sys2Proof.Machine

/-! PROOF. Encodings (R45 to R71): the two directions between instructions and their patterns. -/

namespace Sys2Proof.Laws

open Sys2Proof Machine

/-! ### What a pattern that decodes says of its instruction -/

/-- What the decoder answers for a pattern of `len` bytes: an error, or a well-formed instruction whose own pattern that is. -/
def Encodes (len w : Nat) (r : Dec) : Prop := ∀ i, r = .ok i → i.wf = true ∧ encodePattern i = some (len, w)

section combinators
variable {len w v z : Nat} {i : Instr} {r r' : Dec} {p : Prop} [Decidable p]

theorem Encodes.error (len w : Nat) (e : DecodeError) : Encodes len w (.error e) := fun _ h => nomatch h

theorem Encodes.ok (hw : i.wf = true) (he : encodePattern i = some (len, v)) (h : v = w) : Encodes len w (.ok i) := by
  rintro _ ⟨⟩
  exact ⟨hw, h ▸ he⟩

theorem Encodes.cast (h : Encodes len v r) (hv : v = w) : Encodes len w r := hv ▸ h

theorem Encodes.ite (h : p → Encodes len w r) (h' : ¬p → Encodes len w r') : Encodes len w (if p then r else r') := by
  split
  · next hp => exact h hp
  · next hp => exact h' hp

theorem Encodes.guard {e : DecodeError} (h : ¬p → Encodes len w r) : Encodes len w (if p then .error e else r) :=
  .ite (fun _ => .error _ _ _) h

theorem Encodes.only {e : DecodeError} (h : p → Encodes len w r) : Encodes len w (if p then r else .error e) :=
  .ite h fun _ => .error _ _ _

theorem Encodes.zero (hw : z = 0 → i.wf = true) (he : encodePattern i = some (len, v)) (h : z = 0 → v = w) :
    Encodes len w (zero z i) := .only fun hz => .ok (hw hz) he (h hz)

theorem Encodes.need {α : Type} {o : Option α} {k : α → Instr} {v : α → Nat} (hw : ∀ x, o = some x → (k x).wf = true)
    (he : ∀ x, encodePattern (k x) = some (len, v x)) (hv : ∀ x, o = some x → v x = w) : Encodes len w (need o k) := by
  unfold Sys2Proof.need
  split
  · next x => exact .ok (hw x rfl) (he x) (hv x rfl)
  · exact .error _ _ _

/-- One arm of a minor map: an instruction whose fields are all free. -/
theorem Encodes.arm (hw : i.wf = true) (he : encodePattern i = some (len, v)) (hv : p → v = w) (h : ¬p → Encodes len w r) :
    Encodes len w (if p then .ok i else r) := .ite (fun hp => .ok hw he (hv hp)) h

/-- One arm of a minor map: an instruction with fields that must be zero. -/
theorem Encodes.armZero (hw : i.wf = true) (he : encodePattern i = some (len, v)) (hv : p → z = 0 → v = w)
    (h : ¬p → Encodes len w r) : Encodes len w (if p then Sys2Proof.zero z i else r) :=
  .ite (fun hp => .zero (fun _ => hw) he (hv hp)) h

end combinators

/-! ### Codes, registers and fields read back -/

section codes
variable {n : Nat}

theorem Cond.to_of {c : Cond} (h : Cond.ofCode n = some c) : c.toCode = n := by
  unfold Cond.ofCode at h; split at h <;> cases h <;> rfl

theorem CondZ.to_of {c : CondZ} (h : CondZ.ofCode n = some c) : c.toCode = n := by
  unfold CondZ.ofCode at h; split at h <;> cases h <;> rfl

theorem Size.to_of {z : Size} (h : Size.ofCode n = some z) : z.toCode = n := by
  unfold Size.ofCode at h; split at h <;> cases h <;> rfl

theorem ITy.to_of {t : ITy} (h : ITy.ofCode n = some t) : t.toCode = n := by
  unfold ITy.ofCode at h; split at h <;> cases h <;> rfl

theorem FTy.to_of {t : FTy} (h : FTy.ofCode n = some t) : t.toCode = n := by
  unfold FTy.ofCode at h; split at h <;> cases h <;> rfl

theorem Field.to_of {f : Field} (h : Field.ofCode n = some f) : f.toCode = n := by
  unfold Field.ofCode at h; split at h <;> cases h <;> rfl

theorem AFTy.to_of {t : AFTy} (h : AFTy.ofCode n = some t) : t.toCode = n := by
  unfold AFTy.ofCode at h; split at h <;> cases h <;> rfl

theorem Fmt.to_of {f : Fmt} (h : Fmt.ofCode n = some f) : f.toCode = n := by
  unfold Fmt.ofCode at h; split at h <;> cases h <;> rfl

theorem VRel.to_of (h : n < 6) : (VRel.ofCode n).toCode = n := by interval_cases n <;> rfl

theorem storeSize_eq_some {z : Size} (h : storeSize n = some z) : z.storable = true ∧ z.toCode = n := by
  obtain ⟨hz, hs⟩ := Option.filter_eq_some_iff.1 h
  exact ⟨hs, Size.to_of hz⟩

theorem toNat_beq_one (h : n < 2) : (n == 1).toNat = n := by interval_cases n <;> rfl

end codes

section fields
variable {w maj x : Nat}

theorem bitsAt_lt (w lo n : Nat) : bitsAt w lo n < 2 ^ n := Nat.mod_lt _ (Nat.two_pow_pos n)

theorem val_toCR_bitsAt (w lo : Nat) : (toCR (bitsAt w lo 5)).val = bitsAt w lo 5 := toCR_of (bitsAt_lt w lo 5)

theorem toNat_ofNat_bitsAt (w lo n : Nat) : (BitVec.ofNat n (bitsAt w lo n)).toNat = bitsAt w lo n := by
  rw [BitVec.toNat_ofNat, Nat.mod_eq_of_lt (bitsAt_lt w lo n)]

variable (hw : 2 ^ 31 ≤ w ∧ w < 2 ^ 32) (hm : bitsAt w 25 6 = maj)
include hw hm

theorem fmtV_bitsAt (hx : x = bitsAt w 4 3) :
    fmtV maj (bitsAt w 20 5) (bitsAt w 15 5) (bitsAt w 10 5) (bitsAt w 7 3) x (bitsAt w 0 4) = w := by
  unfold fmtV bitsAt at *; omega

theorem fmtR_bitsAt (hx : x = bitsAt w 0 10) : fmtR maj (bitsAt w 20 5) (bitsAt w 15 5) (bitsAt w 10 5) x = w := by
  unfold fmtR bitsAt at *; omega

theorem fmtR_fields (hx : x = bitsAt w 0 10) :
    fmtR maj (toCR (bitsAt w 20 5)) (toCR (bitsAt w 15 5)) (toCR (bitsAt w 10 5)) x = w := by
  simpa only [val_toCR_bitsAt] using fmtR_bitsAt hw hm hx

theorem fmtI_fields (hx : x = bitsAt w 0 15) : fmtI maj (toCR (bitsAt w 20 5)) (toCR (bitsAt w 15 5)) x = w := by
  simp only [val_toCR_bitsAt]
  unfold fmtI bitsAt at *; omega

theorem fmtM_fields {y : Nat} (hy : y = bitsAt w 12 3) (hx : x = bitsAt w 0 12) :
    fmtM maj (toCR (bitsAt w 20 5)) (toCR (bitsAt w 15 5)) y x = w := by
  simp only [val_toCR_bitsAt]
  unfold fmtM bitsAt at *; omega

theorem fmtZ_fields {y : Nat} (hy : y = bitsAt w 17 3) (hx : x = bitsAt w 0 17) :
    fmtZ maj (toCR (bitsAt w 20 5)) y x = w := by
  simp only [val_toCR_bitsAt]
  unfold fmtZ bitsAt at *; omega

theorem fmtJ_fields (hx : x = bitsAt w 0 25) : fmtJ maj x = w := by
  unfold fmtJ bitsAt at *; omega

end fields

/-! ### The minor maps -/

section maps
variable (d a b : CR)

theorem dec00_encodes (fn : Nat) : Encodes 4 (fmtR 0x00 d a b fn) (dec00 d a b fn) := by
  unfold dec00
  iterate 17 refine .arm rfl rfl (by rintro rfl; rfl) fun _ => ?_
  refine .only fun h => .need (fun _ _ => rfl) (fun _ => rfl) fun c hc => ?_
  rw [Cond.to_of hc, Nat.add_sub_cancel' h.1]

theorem dec05_encodes {m z sh : Nat} (hsh : sh < 2 ^ 6) :
    Encodes 4 (fmtI 0x05 d a (m * 2 ^ 12 + z * 2 ^ 6 + sh)) (dec05 d a m z sh) := by
  unfold dec05
  iterate 4 refine .armZero rfl rfl (by unfold fmtI; bv_omega) fun _ => ?_
  exact .error _ _ _

theorem dec07_encodes {pos mode imm : Nat} (hpos : pos < 2 ^ 2) (himm : imm < 2 ^ 16) :
    Encodes 4 (2 ^ 31 + 0x07 * 2 ^ 25 + d.val * 2 ^ 20 + pos * 2 ^ 18 + mode * 2 ^ 16 + imm) (dec07 d pos mode imm) := by
  unfold dec07
  iterate 3 refine .arm rfl rfl (by bv_omega) fun _ => ?_
  exact .error _ _ _

theorem dec08_encodes (fn : Nat) : Encodes 4 (fmtR 0x08 d a b fn) (dec08 d a b fn) := by
  unfold dec08
  iterate 9 refine .arm rfl rfl (by rintro rfl; rfl) fun _ => ?_
  exact .error _ _ _

theorem dec09_encodes (fn : Nat) : Encodes 4 (fmtR 0x09 d a b fn) (dec09 d a b fn) := by
  unfold dec09
  iterate 5 refine .armZero rfl rfl (by unfold fmtR; omega) fun _ => ?_
  iterate 3 refine .arm rfl rfl (by rintro rfl; rfl) fun _ => ?_
  exact .error _ _ _

theorem dec14_encodes (fn : Nat) : Encodes 4 (fmtR 0x14 d a b fn) (dec14 d a b fn) := by
  unfold dec14
  iterate 3 refine .armZero rfl rfl (by unfold fmtR; omega) fun _ => ?_
  exact .error _ _ _

theorem dec18_encodes {m k : Nat} (hk : k < 2 ^ 12) : Encodes 4 (fmtM 0x18 d a m k) (dec18 d a m k) := by
  unfold dec18
  iterate 5 refine .armZero rfl rfl (by unfold fmtM; bv_omega) fun _ => ?_
  exact .error _ _ _

theorem dec19_encodes {m k : Nat} (hk : k < 2 ^ 12) : Encodes 4 (fmtM 0x19 d a m k) (dec19 d a m k) := by
  unfold dec19
  iterate 4 refine .armZero rfl rfl (by unfold fmtM; bv_omega) fun _ => ?_
  exact .error _ _ _

theorem dec1A_encodes {m k : Nat} (hk : k < 2 ^ 12) : Encodes 4 (fmtM 0x1A d a m k) (dec1A d a m k) := by
  unfold dec1A
  iterate 2 refine .armZero rfl rfl (by unfold fmtM; bv_omega) fun _ => ?_
  exact .error _ _ _

theorem dec1B_encodes {c k : Nat} (hk : k < 2 ^ 17) : Encodes 4 (fmtZ 0x1B d c k) (dec1B d c k) := by
  unfold dec1B
  refine .arm rfl rfl (by unfold fmtZ; bv_omega) fun _ => ?_
  iterate 2 refine .armZero rfl rfl (by unfold fmtZ; omega) fun _ => ?_
  exact .error _ _ _

theorem dec24_encodes (z sc r : Nat) :
    Encodes 4 (fmtR 0x24 d a b (z * 2 ^ 7 + sc * 2 ^ 4 + r)) (decX true d a b z sc r) := by
  refine .guard fun hr => .guard fun hsc => .need (fun _ _ => rfl) (fun _ => rfl) fun x hx => ?_
  rw [Size.to_of hx, Fin.val_ofNat, Nat.mod_eq_of_lt (by omega : sc < 5)]
  unfold fmtR; omega

theorem dec25_encodes (z sc r : Nat) :
    Encodes 4 (fmtR 0x25 d a b (z * 2 ^ 7 + sc * 2 ^ 4 + r)) (decX false d a b z sc r) := by
  refine .guard fun hr => .guard fun hsc => .need (fun x hx => (storeSize_eq_some hx).1) (fun _ => rfl) fun x hx => ?_
  rw [(storeSize_eq_some hx).2, Fin.val_ofNat, Nat.mod_eq_of_lt (by omega : sc < 5)]
  unfold fmtR; omega

theorem dec26_encodes {fn : Nat} (hfn : fn < 2 ^ 10) : Encodes 4 (fmtR 0x26 d a b fn) (dec26 d a b fn) := by
  unfold dec26
  refine .ite (fun h => .guard fun hd => .guard fun hz => .guard fun he => .ok (by simpa [Instr.wf] using hd) rfl ?_) fun _ =>
    .only fun h => .guard fun hd => .zero (fun _ => by simpa [Instr.wf] using hd) rfl fun hz => ?_
  · rw [toNat_beq_one (bitsAt_lt fn 9 1), Fin.val_ofNat]
    unfold fmtR bitsAt at *; omega
  · unfold fmtR bitsAt at *; omega

theorem dec28_encodes (fn : Nat) : Encodes 4 (fmtR 0x28 d a b fn) (dec28 d a b fn) := by
  unfold dec28
  refine .arm rfl rfl (by rintro rfl; rfl) fun _ => ?_
  iterate 2 refine .armZero rfl rfl (by unfold fmtR; omega) fun _ => ?_
  exact .error _ _ _

theorem dec29_encodes {h t f : Nat} (hh : h < 2 ^ 2) (ht : t < 2) :
    Encodes 4 (fmtR 0x29 d a b (h * 2 ^ 8 + t * 2 ^ 7 + f)) (dec29 d a b h t f) := by
  unfold dec29
  iterate 2 refine .armZero rfl rfl (by unfold fmtR; omega) fun _ => ?_
  refine .armZero rfl rfl (by rw [toNat_beq_one ht]; unfold fmtR; bv_omega) fun _ => ?_
  refine .armZero rfl rfl (by unfold fmtR; omega) fun _ => ?_
  exact .error _ _ _

theorem dec2A_encodes (z f o : Nat) :
    Encodes 4 (fmtR 0x2A d a b (z * 2 ^ 7 + f * 2 ^ 3 + o)) (dec2A d a b z f o) := by
  unfold dec2A
  refine .guard fun hz => .ite (fun ho => .guard fun hb => .need (fun _ _ => rfl) (fun _ => rfl) fun g hg => ?_) fun _ =>
    .ite (fun ho => .need (fun g hg => ?_) (fun _ => rfl) fun g hg => ?_) fun _ => ?_
  · rw [Field.to_of hg]
    unfold fmtR; omega
  · simpa [Instr.wf] using (Option.filter_eq_some_iff.1 hg).2
  · rw [Field.to_of (Option.filter_eq_some_iff.1 hg).1]
    unfold fmtR; omega
  · iterate 2 refine .armZero rfl rfl (by unfold fmtR; omega) fun _ => ?_
    exact .error _ _ _

theorem dec2C_encodes {t o k : Nat} (ht : t < 2) (hk : k < 2 ^ 12) :
    Encodes 4 (fmtM 0x2C d a (t * 2 ^ 2 + o) k) (dec2C d a t o k) := by
  unfold dec2C
  refine .armZero rfl rfl (by unfold fmtM; bv_omega) fun _ => ?_
  refine .arm rfl rfl (by rw [toNat_beq_one ht]; unfold fmtM; bv_omega) fun _ => ?_
  refine .armZero rfl rfl (by unfold fmtM; bv_omega) fun _ => ?_
  exact .error _ _ _

theorem dec2D_encodes (s w : Bool) (o : Nat) : Encodes 4 (fmtR 0x2D d a b (amoFn s w o)) (dec2D d a b s w o) := by
  unfold dec2D
  iterate 10 refine .arm rfl rfl (by rintro rfl; rfl) fun _ => ?_
  exact .error _ _ _

/-- The control field of a floating atomic is zero unless its top bit is set (R58). -/
theorem amoControl_ok {ctl : Nat} (h : ctl < 2 ^ 4) (hc : ¬(ctl < 8 ∧ ctl ≠ 0)) :
    ((BitVec.ofNat 4 ctl).getLsbD 3 || decide (BitVec.ofNat 4 ctl = 0)) = true := by
  interval_cases ctl <;> simp_all

theorem dec2E_encodes (s : Bool) (ty o : Nat) {ctl : Nat} (h : ctl < 2 ^ 4) :
    Encodes 4 (fmtR 0x2E d a b (s.toNat * 512 + ty * 128 + o * 16 + ctl)) (dec2E d a b s ty o ctl) := by
  unfold dec2E
  refine .guard fun hc => ?_
  iterate 3 refine .ite (fun ho => .need (fun _ _ => amoControl_ok h hc) (fun _ => rfl) fun t ht => by
    rw [amoFfn, AFTy.to_of ht, ho, BitVec.toNat_ofNat, Nat.mod_eq_of_lt h]) fun _ => ?_
  exact .error _ _ _

theorem dec30_encodes (o n z : Nat) :
    Encodes 4 (fmtR 0x30 d a b (o * 2 ^ 8 + n * 2 ^ 4 + z)) (dec30 d a b o n z) := by
  unfold dec30
  refine .guard fun hz => .guard fun hn => .guard fun h0 => .guard fun h1 => ?_
  have hval : (Fin.ofNat 9 n).val = n := Nat.mod_eq_of_lt (by omega)
  have hok : payloadOk a (Fin.ofNat 9 n) = true := by
    unfold payloadOk
    rw [hval]
    split <;> simp only [decide_eq_true_eq] <;> omega
  iterate 3 refine .arm hok rfl (by rw [hval]; unfold fmtR; omega) fun _ => ?_
  exact .error _ _ _

theorem dec31_encodes {o z k : Nat} (ho : o < 2) (hk : k < 2 ^ 6) :
    Encodes 4 (fmtI 0x31 d a (o * 2 ^ 14 + z * 2 ^ 6 + k)) (dec31 d a o z k) := by
  unfold dec31
  refine .armZero rfl rfl (by unfold fmtI; bv_omega) fun _ => ?_
  exact .zero (fun _ => rfl) rfl (by unfold fmtI; bv_omega)

theorem dec32_encodes (fn : Nat) : Encodes 4 (fmtR 0x32 d a b fn) (dec32 d a b fn) := by
  unfold dec32
  iterate 2 refine .ite (by rintro rfl; exact .guard fun hb => .ok (by simpa [Instr.wf] using hb) rfl rfl) fun _ => ?_
  iterate 2 refine .armZero rfl rfl (by unfold fmtR; omega) fun _ => ?_
  exact .error _ _ _

theorem dec33_encodes (fn : Nat) : Encodes 4 (fmtR 0x33 d a b fn) (dec33 d a b fn) := by
  unfold dec33
  iterate 4 refine .armZero rfl rfl (by unfold fmtR; omega) fun _ => ?_
  exact .error _ _ _

theorem dec34_encodes (fn : Nat) : Encodes 4 (fmtR 0x34 d a b fn) (dec34 d a b fn) := by
  unfold dec34
  iterate 2 refine .ite (fun hfn => .guard fun hr => .zero (fun _ => by simpa [Instr.wf] using hr) rfl
    (by unfold fmtR; omega)) fun _ => ?_
  exact .error _ _ _

theorem dec35_encodes {o z g : Nat} (ho : o < 2) (hg : g < 2 ^ 8) :
    Encodes 4 (fmtI 0x35 d a (o * 2 ^ 14 + z * 2 ^ 8 + g)) (dec35 d a o z g) := by
  unfold dec35
  refine .armZero rfl rfl (by unfold fmtI; bv_omega) fun _ => ?_
  exact .zero (fun _ => rfl) rfl (by unfold fmtI; bv_omega)

theorem dec3C_encodes (c : CR) {nm1 stag icnt : Nat} (hn : nm1 < 2 ^ 4) (hs : stag < 2 ^ 4) (hi : icnt < 2 ^ 12) :
    Encodes 4 (2 ^ 31 + 0x3C * 2 ^ 25 + c.val * 2 ^ 20 + nm1 * 2 ^ 16 + stag * 2 ^ 12 + icnt) (dec3C c nm1 stag icnt) := by
  unfold dec3C
  refine .guard fun h => .ok ?_ rfl (by bv_omega)
  have h' : c.val = 0 ∨ icnt = 0 := by omega
  rcases h' with h' | rfl
  · simp [Instr.wf, h']
  · simp [Instr.wf]

theorem dec3D_encodes (o : Nat) {q qm z : Nat} (hq : q < 2 ^ 3) (hm : qm < 2) :
    Encodes 4 (fmtR 0x3D d a b (o * 2 ^ 7 + q * 2 ^ 4 + qm * 2 ^ 3 + z)) (dec3D d a b o q qm z) := by
  unfold dec3D
  refine .guard fun hz => ?_
  lift q to QR using hq
  have hwf {x y : Nat} (h : (if qm = 1 then x else y) = 0) :
      (if (qm == 1) = true then decide (x = 0) else decide (y = 0)) = true := by split at h <;> simp_all
  simp only [toQR_val]
  iterate 2 refine .ite (fun ho => .zero hwf rfl fun _ => by rw [toNat_beq_one hm]; unfold fmtR; omega) fun _ => ?_
  iterate 4 refine .armZero rfl rfl (by unfold fmtR; omega) fun _ => ?_
  exact .error _ _ _

theorem dec3E_encodes {p : Nat} (o : Nat) {x : Nat} (hx : x < 2 ^ 10) :
    Encodes 4 (fmtI 0x3E d a (p * 2 ^ 13 + o * 2 ^ 10 + x)) (dec3E d a p o x) := by
  unfold dec3E
  refine .guard fun hp => ?_
  lift p to EP using by omega
  have hbit := toNat_beq_one (bitsAt_lt x 9 1)
  simp only [toEP_val]
  refine .ite (fun ho => .guard fun ha => .zero (fun _ => ?_) rfl ?_) fun _ => ?_
  · simp only [Instr.wf, Bool.and_eq_true, decide_eq_true_eq]; omega
  · rw [hbit]; unfold fmtI bitsAt; omega
  iterate 2 refine .armZero rfl rfl (by unfold fmtI; omega) fun _ => ?_
  refine .only fun ho => .guard fun hp => .zero (fun _ => rfl) rfl ?_
  rw [hbit, toNat_ofNat_bitsAt]; unfold fmtI bitsAt; omega

theorem dec3F_encodes (fn : Nat) : Encodes 4 (fmtR 0x3F d a b fn) (dec3F d a b fn) := by
  unfold dec3F
  iterate 4 refine .armZero rfl rfl (by unfold fmtR; omega) fun _ => ?_
  exact .error _ _ _

end maps

/-! ### The minor maps of the vector majors, whose register fields are numbers -/

section vectorMaps
variable {d a b p ty o : Nat}

theorem dec36_encodes {t : ITy} (hp : p < 2 ^ 3) (ho : o < 2 ^ 4) :
    Encodes 4 (fmtV 0x36 d a b p t.toCode o) (dec36 d a b p o t) := by
  unfold dec36
  refine .guard fun h => ?_
  lift d to VR using by omega
  lift a to VR using by omega
  lift b to VR using by omega
  lift p to PR using hp
  simp only [toVR_val, toPR_val]
  iterate 10 refine .arm rfl rfl (by rintro rfl; rfl) fun _ => ?_
  iterate 2 refine .ite (fun ho => .only fun ht => .zero (fun _ => ht) rfl (by unfold fmtV; omega)) fun _ => ?_
  iterate 3 refine .arm rfl rfl (by rintro rfl; rfl) fun _ => ?_
  exact .ok rfl rfl (by unfold fmtV; omega)

theorem dec37_encodes {t : FTy} (hp : p < 2 ^ 3) : Encodes 4 (fmtV 0x37 d a b p t.toCode o) (dec37 d a b p o t) := by
  unfold dec37
  refine .guard fun h => ?_
  lift d to VR using by omega
  lift a to VR using by omega
  lift b to VR using by omega
  lift p to PR using hp
  simp only [toVR_val, toPR_val]
  iterate 7 refine .arm rfl rfl (by rintro rfl; rfl) fun _ => ?_
  iterate 3 refine .armZero rfl rfl (by unfold fmtV; omega) fun _ => ?_
  exact .error _ _ _

theorem dec38_encodes (hp : p < 2 ^ 3) (ho : o < 2 ^ 4) : Encodes 4 (fmtV 0x38 d a b p ty o) (dec38 d a b p ty o) := by
  unfold dec38
  lift p to PR using hp
  refine .ite (fun h6 => .guard fun h => ?vcmp) fun h6 => .ite (fun h12 => .guard fun h => ?vfcmp) fun h12 =>
    .ite (fun ho => .guard fun h => ?vsel) fun _ => .guard fun h => ?preds
  case vcmp =>
    lift d to PR using by omega
    lift a to VR using by omega
    lift b to VR using by omega
    simp only [toVR_val, toPR_val]
    refine .need (fun t ht => (Option.filter_eq_some_iff.1 ht).2) (fun _ => rfl) fun t ht => ?_
    rw [ITy.to_of (Option.filter_eq_some_iff.1 ht).1, VRel.to_of h6]
  case vfcmp =>
    lift d to PR using by omega
    lift a to VR using by omega
    lift b to VR using by omega
    simp only [toVR_val, toPR_val]
    refine .need (fun _ _ => rfl) (fun _ => rfl) fun t ht => ?_
    rw [FTy.to_of ht, VRel.to_of (by omega), Nat.add_sub_cancel' (by omega)]
  case vsel =>
    lift d to VR using by omega
    lift a to VR using by omega
    lift b to VR using by omega
    simp only [toVR_val, toPR_val]
    refine .need (fun _ _ => rfl) (fun _ => rfl) fun t ht => ?_
    rw [ITy.to_of ht, ho]
  case preds =>
    lift d to PR using by omega
    lift a to PR using by omega
    lift b to PR using by omega
    simp only [toPR_val]
    iterate 2 refine .armZero rfl rfl (by unfold fmtV; omega) fun _ => ?_
    exact .zero (fun _ => rfl) rfl (by unfold fmtV; omega)

theorem dec39_encodes (hd : d < 2 ^ 5) (ha : a < 2 ^ 5) (hb : b < 2 ^ 5) (hp : p < 2 ^ 3) :
    Encodes 4 (fmtV 0x39 d a b p ty o) (dec39 d a b p ty o) := by
  unfold dec39
  lift p to PR using hp
  simp only [toPR_val]
  refine .ite (fun ho => .guard fun h => ?vperm) fun _ => .ite (fun ho => .guard fun h => .guard fun hb => ?vbcast) fun _ =>
    .ite (fun ho => .guard fun h => ?vins) fun _ => .ite (fun ho => .guard fun h => .guard fun hp => ?vext) fun _ =>
    .guard fun ho => .guard fun h => .guard fun hb => ?reductions
  case vperm =>
    lift d to VR using by omega
    lift a to VR using by omega
    lift b to VR using by omega
    simp only [toVR_val]
    exact .need (fun _ _ => rfl) (fun _ => rfl) fun t ht => by rw [ITy.to_of ht, ho]
  case vbcast =>
    lift d to VR using by omega
    lift a to CR using ha
    simp only [toVR_val, toCR_val]
    exact .need (fun _ _ => rfl) (fun _ => rfl) fun t ht => by rw [ITy.to_of ht]; unfold fmtV; omega
  case vins =>
    lift d to VR using by omega
    lift a to CR using ha
    lift b to CR using hb
    simp only [toVR_val, toCR_val]
    exact .need (fun _ _ => rfl) (fun _ => rfl) fun t ht => by rw [ITy.to_of ht, ho]
  case vext =>
    lift d to CR using hd
    lift a to VR using by omega
    lift b to CR using hb
    simp only [toVR_val, toCR_val]
    exact .need (fun _ _ => rfl) (fun _ => rfl) fun t ht => by rw [ITy.to_of ht]; unfold fmtV; omega
  case reductions =>
    lift d to CR using hd
    lift a to VR using by omega
    simp only [toVR_val, toCR_val]
    iterate 3 refine .ite (fun ho => .need (fun _ _ => rfl) (fun _ => rfl) fun t ht => by
      rw [ITy.to_of ht]; unfold fmtV; omega) fun _ => ?_
    iterate 2 refine .ite (fun ho => .need (fun _ _ => rfl) (fun _ => rfl) fun t ht => by
      rw [FTy.to_of ht]; unfold fmtV; omega) fun _ => ?_
    exact .need (fun _ _ => rfl) (fun _ => rfl) fun t ht => by rw [FTy.to_of ht]; unfold fmtV; omega

theorem dec3A_encodes {to_ from_ z : Nat} :
    Encodes 4 (fmtR 0x3A d a to_ (from_ * 2 ^ 5 + z * 2 ^ 4 + o)) (dec3A d a to_ from_ z o) := by
  unfold dec3A
  refine .guard fun hz => .guard fun h => ?_
  lift d to VR using by omega
  lift a to VR using by omega
  simp only [toVR_val]
  split
  · next t f ht hf =>
    rw [← Fmt.to_of ht, ← Fmt.to_of hf]
    split
    · next i hi =>
      refine .only fun hw => ?_
      split_ifs at hi <;> cases hi <;> exact .ok hw rfl (by unfold fmtR; omega)
    · exact .error _ _ _
  · exact .error _ _ _

theorem dec3B_encodes (a : CR) {z k : Nat} (hk : k < 2 ^ 12) : Encodes 4 (fmtM 0x3B d a z k) (dec3B d a z k) := by
  unfold dec3B
  refine .guard fun h => ?_
  lift d to VR using by omega
  have hp (lo : Nat) : (toPR (bitsAt k lo 3)).val = bitsAt k lo 3 := Nat.mod_eq_of_lt (bitsAt_lt k lo 3)
  have hv : (toVR (bitsAt k 8 4)).val = bitsAt k 8 4 := Nat.mod_eq_of_lt (bitsAt_lt k 8 4)
  simp only [toVR_val]
  iterate 2 refine .arm rfl rfl (by rw [hp, toNat_ofNat_bitsAt]; unfold fmtM bitsAt; omega) fun _ => ?_
  refine .guard fun hz => .guard fun h0 => .guard fun h4 => ?_
  have hwidth : (Fin.ofNat 4 (bitsAt k 2 3)).val = bitsAt k 2 3 := Nat.mod_eq_of_lt (by omega)
  refine .arm rfl rfl ?_ fun _ => .ok rfl rfl ?_
  all_goals
    rw [hp, hv, hwidth]
    unfold fmtM bitsAt at *; omega

end vectorMaps

/-! ### Words and parcels -/

/-- The decoder's arms for words, one line a major (R50). -/
theorem decodeWord_encodes {w : Nat} (hw : 2 ^ 31 ≤ w ∧ w < 2 ^ 32) : Encodes 4 w (decodeWord w) := by
  unfold decodeWord
  dsimp only
  split
  next h => exact (dec00_encodes _ _ _ _).cast (fmtR_fields hw h rfl)
  next h => exact .ok rfl rfl (fmtI_fields hw h (toNat_ofNat_bitsAt w 0 15))
  next h => exact .ok rfl rfl (fmtI_fields hw h (toNat_ofNat_bitsAt w 0 15))
  next h => exact .ok rfl rfl (fmtI_fields hw h (toNat_ofNat_bitsAt w 0 15))
  next h => exact .ok rfl rfl (fmtI_fields hw h (toNat_ofNat_bitsAt w 0 15))
  next h => exact (dec05_encodes _ _ (bitsAt_lt w 0 6)).cast (fmtI_fields hw h (by unfold bitsAt; omega))
  next h =>
    exact .need (fun _ _ => rfl) (fun _ => rfl) fun c hc => fmtI_fields hw h (by
      rw [Cond.to_of hc, toNat_ofNat_bitsAt]; unfold bitsAt; omega)
  next h => exact (dec07_encodes _ (bitsAt_lt w 18 2) (bitsAt_lt w 0 16)).cast (by
      rw [val_toCR_bitsAt]; unfold bitsAt at *; omega)
  next h => exact (dec08_encodes _ _ _ _).cast (fmtR_fields hw h rfl)
  next h => exact (dec09_encodes _ _ _ _).cast (fmtR_fields hw h rfl)
  next h =>
    refine .zero (fun _ => rfl) rfl fun hz => ?_
    have hfields := fmtI_fields hw h (toNat_ofNat_bitsAt w 0 15)
    rwa [val_toCR_bitsAt w 15, hz] at hfields
  next h => exact .ok rfl rfl (fmtJ_fields hw h (toNat_ofNat_bitsAt w 0 25))
  next h => exact .ok rfl rfl (fmtJ_fields hw h (toNat_ofNat_bitsAt w 0 25))
  next h => exact .need (fun _ _ => rfl) (fun _ => rfl) fun _ hc => fmtM_fields hw h (Cond.to_of hc) (toNat_ofNat_bitsAt w 0 12)
  next h => exact .need (fun _ _ => rfl) (fun _ => rfl) fun _ hc => fmtZ_fields hw h (CondZ.to_of hc) (toNat_ofNat_bitsAt w 0 17)
  next h => exact (dec14_encodes _ _ _ _).cast (fmtR_fields hw h rfl)
  next h => exact .only fun h0 => .ok rfl rfl (fmtZ_fields hw h h0.symm (toNat_ofNat_bitsAt w 0 17))
  next h => exact (dec18_encodes _ _ (bitsAt_lt w 0 12)).cast (fmtM_fields hw h rfl rfl)
  next h => exact (dec19_encodes _ _ (bitsAt_lt w 0 12)).cast (fmtM_fields hw h rfl rfl)
  next h => exact (dec1A_encodes _ _ (bitsAt_lt w 0 12)).cast (fmtM_fields hw h rfl rfl)
  next h => exact (dec1B_encodes _ (bitsAt_lt w 0 17)).cast (fmtZ_fields hw h rfl rfl)
  next h => exact .need (fun _ _ => rfl) (fun _ => rfl) fun _ hz => fmtM_fields hw h (Size.to_of hz) (toNat_ofNat_bitsAt w 0 12)
  next h =>
    exact .need (fun _ hz => (storeSize_eq_some hz).1) (fun _ => rfl) fun _ hz =>
      fmtM_fields hw h (storeSize_eq_some hz).2 (toNat_ofNat_bitsAt w 0 12)
  next h => exact .only fun h0 => .ok rfl rfl (fmtM_fields hw h h0.symm (toNat_ofNat_bitsAt w 0 12))
  next h => exact .only fun h0 => .ok rfl rfl (fmtM_fields hw h h0.symm (toNat_ofNat_bitsAt w 0 12))
  next h => exact (dec24_encodes _ _ _ _ _ _).cast (fmtR_fields hw h (by unfold bitsAt; omega))
  next h => exact (dec25_encodes _ _ _ _ _ _).cast (fmtR_fields hw h (by unfold bitsAt; omega))
  next h => exact (dec26_encodes _ _ _ (bitsAt_lt w 0 10)).cast (fmtR_fields hw h rfl)
  next h => exact (dec28_encodes _ _ _ _).cast (fmtR_fields hw h rfl)
  next h => exact (dec29_encodes _ _ _ (bitsAt_lt w 8 2) (bitsAt_lt w 7 1)).cast (fmtR_fields hw h (by unfold bitsAt; omega))
  next h => exact (dec2A_encodes _ _ _ _ _ _).cast (fmtR_fields hw h (by unfold bitsAt; omega))
  next h => exact (dec2C_encodes _ _ (bitsAt_lt w 14 1) (bitsAt_lt w 0 12)).cast (fmtM_fields hw h (by unfold bitsAt; omega) rfl)
  next h =>
    refine .only fun h0 => (dec2D_encodes _ _ _ _ _ _).cast (fmtR_fields hw h ?_)
    rw [amoFn, toNat_beq_one (bitsAt_lt w 9 1), toNat_beq_one (bitsAt_lt w 8 1)]
    unfold bitsAt at *; omega
  next h =>
    refine (dec2E_encodes _ _ _ _ _ _ (bitsAt_lt w 0 4)).cast (fmtR_fields hw h ?_)
    rw [toNat_beq_one (bitsAt_lt w 9 1)]
    unfold bitsAt; omega
  next h =>
    refine .zero (fun _ => rfl) rfl fun hz => fmtR_fields hw h ?_
    rw [toNat_beq_one (bitsAt_lt w 9 1)]
    unfold bitsAt at *; omega
  next h => exact (dec30_encodes _ _ _ _ _ _).cast (fmtR_fields hw h (by unfold bitsAt; omega))
  next h => exact (dec31_encodes _ _ (bitsAt_lt w 14 1) (bitsAt_lt w 0 6)).cast (fmtI_fields hw h (by unfold bitsAt; omega))
  next h => exact (dec32_encodes _ _ _ _).cast (fmtR_fields hw h rfl)
  next h => exact (dec33_encodes _ _ _ _).cast (fmtR_fields hw h rfl)
  next h => exact (dec34_encodes _ _ _ _).cast (fmtR_fields hw h rfl)
  next h => exact (dec35_encodes _ _ (bitsAt_lt w 14 1) (bitsAt_lt w 0 8)).cast (fmtI_fields hw h (by unfold bitsAt; omega))
  next h =>
    split
    · next t ht => exact (dec36_encodes (bitsAt_lt w 7 3) (bitsAt_lt w 0 4)).cast (fmtV_bitsAt hw h (ITy.to_of ht))
    · exact .error _ _ _
  next h =>
    split
    · next t ht => exact (dec37_encodes (bitsAt_lt w 7 3)).cast (fmtV_bitsAt hw h (FTy.to_of ht))
    · exact .error _ _ _
  next h => exact (dec38_encodes (bitsAt_lt w 7 3) (bitsAt_lt w 0 4)).cast (fmtV_bitsAt hw h rfl)
  next h =>
    exact (dec39_encodes (bitsAt_lt w 20 5) (bitsAt_lt w 15 5) (bitsAt_lt w 10 5) (bitsAt_lt w 7 3)).cast (fmtV_bitsAt hw h rfl)
  next h => exact (dec3A_encodes).cast (fmtR_bitsAt hw h (by unfold bitsAt; omega))
  next h =>
    refine (dec3B_encodes _ (bitsAt_lt w 0 12)).cast ?_
    simpa only [val_toCR_bitsAt] using fmtM_fields hw h rfl rfl
  next h => exact (dec3C_encodes _ (bitsAt_lt w 16 4) (bitsAt_lt w 12 4) (bitsAt_lt w 0 12)).cast (by
      rw [val_toCR_bitsAt]; unfold bitsAt at *; omega)
  next h => exact (dec3D_encodes _ _ _ _ (bitsAt_lt w 4 3) (bitsAt_lt w 3 1)).cast (fmtR_fields hw h (by unfold bitsAt; omega))
  next h => exact (dec3E_encodes _ _ _ (bitsAt_lt w 0 10)).cast (fmtI_fields hw h (by unfold bitsAt; omega))
  next h => exact (dec3F_encodes _ _ _ _).cast (fmtR_fields hw h rfl)
  exact .error _ _ _

section parcels
variable {w k : Nat} (hw : w < 2 ^ 15) (h : bitsAt w 11 4 = k)
include hw h

theorem parcel_reg4_imm7 :
    k * 2 ^ 11 + (BitVec.ofNat 4 (bitsAt w 7 4)).toNat * 2 ^ 7 + (BitVec.ofNat 7 (bitsAt w 0 7)).toNat = w := by
  simp only [toNat_ofNat_bitsAt]
  unfold bitsAt at *; omega

theorem parcel_reg4_reg4 (hz : bitsAt w 0 3 = 0) :
    k * 2 ^ 11 + (BitVec.ofNat 4 (bitsAt w 7 4)).toNat * 2 ^ 7 + (BitVec.ofNat 4 (bitsAt w 3 4)).toNat * 2 ^ 3 = w := by
  simp only [toNat_ofNat_bitsAt]
  unfold bitsAt at *; omega

theorem parcel_reg3_reg3_imm5 :
    k * 2 ^ 11 + (BitVec.ofNat 3 (bitsAt w 8 3)).toNat * 2 ^ 8 + (BitVec.ofNat 3 (bitsAt w 5 3)).toNat * 2 ^ 5
      + (BitVec.ofNat 5 (bitsAt w 0 5)).toNat = w := by
  simp only [toNat_ofNat_bitsAt]
  unfold bitsAt at *; omega

theorem parcel_reg5_imm6 : k * 2 ^ 11 + (toCR (bitsAt w 6 5)).val * 2 ^ 6 + (BitVec.ofNat 6 (bitsAt w 0 6)).toNat = w := by
  simp only [toNat_ofNat_bitsAt, val_toCR_bitsAt]
  unfold bitsAt at *; omega

theorem parcel_reg3_imm8 :
    k * 2 ^ 11 + (BitVec.ofNat 3 (bitsAt w 8 3)).toNat * 2 ^ 8 + (BitVec.ofNat 8 (bitsAt w 0 8)).toNat = w := by
  simp only [toNat_ofNat_bitsAt]
  unfold bitsAt at *; omega

theorem parcel_imm11 : k * 2 ^ 11 + (BitVec.ofNat 11 (bitsAt w 0 11)).toNat = w := by
  rw [toNat_ofNat_bitsAt]
  unfold bitsAt at *; omega

theorem parcel_zero11 (hz : bitsAt w 0 11 = 0) : k * 2 ^ 11 = w := by
  unfold bitsAt at *; omega

end parcels

/-- The decoder's arms for parcels (R71). -/
theorem decodeCompact_encodes {w : Nat} (hw : w < 2 ^ 15) : Encodes 2 w (decodeCompact w) := by
  unfold decodeCompact
  dsimp only
  split
  next h =>
    have hne (hd : ¬bitsAt w 7 4 = 0) : BitVec.ofNat 4 (bitsAt w 7 4) ≠ 0 := fun h0 =>
      hd (by rw [← toNat_ofNat_bitsAt w 7 4, h0]; rfl)
    exact .guard fun hd => .ok (decide_eq_true (hne hd)) rfl (parcel_reg4_imm7 hw h)
  iterate 3 next h => exact .zero (fun _ => rfl) rfl (parcel_reg4_reg4 hw h)
  next h => exact .ok rfl rfl (parcel_reg4_imm7 hw h)
  iterate 4 next h => exact .ok rfl rfl (parcel_reg3_reg3_imm5 hw h)
  iterate 2 next h => exact .ok rfl rfl (parcel_reg5_imm6 hw h)
  next h => exact .ok rfl rfl (parcel_imm11 hw h)
  iterate 2 next h => exact .ok rfl rfl (parcel_reg3_imm8 hw h)
  next h => exact .zero (fun _ => rfl) rfl (parcel_zero11 hw h)
  next =>
    have h : bitsAt w 11 4 = 15 := by
      have hlt := bitsAt_lt w 11 4
      simp only [imp_false] at *
      omega
    exact .zero (fun _ => rfl) rfl (parcel_zero11 hw h)

/-- Settles O3: the decoder's arms, one lemma a minor map, for the words of every major and for every parcel. -/
theorem decodedPatternsEncodeBack : Obligations.DecodedPatternsEncodeBack := by
  unfold Obligations.DecodedPatternsEncodeBack
  rintro len w i (⟨rfl, hw⟩ | ⟨rfl, hw⟩) h
  · exact decodeCompact_encodes hw i h
  · exact decodeWord_encodes hw i h

/-! ### From an instruction to its bytes and back -/

/-- Every constructor's round trip, in the order of the constructors. -/
theorem RoundTrip.statement (i : Instr) : RoundTrip.Statement i :=
  open RoundTrip in
  Instr.casesOn (motive := RoundTrip.Statement) i
    add sub and or xor shl shr sra min max minn maxn addQ subQ andQ orQ xorQ setCc addi andi ori xori shli shri srai roli
    setiCc lkZ lkK lkS mul mulh mulhn div divn remS remn mulx mulxn clz ctz popc brev bswap bext bins andn addpc b bl bcc
    bccz br brl ret dbnz nop endStrand trap brk yield rdst wrst setst clrst rdcnt clock rmtBegin rmtCommit rmtAbort ld st ldc
    stc ldx stx sbind sunbind alloc free creclaim split join send cview cget cset cinc ctest take put peek amoAdd amoAnd
    amoOr amoXor amoMin amoMax amoMinn amoMaxn amoSwap amoCas amoFadd amoFmin amoFmax amoCas2 msg mcast cont bind unbind
    hstart pair hwait hkill wany wall ffr tclr post grab bar barAdd vadd vsub vmul vmin vmax vand vor vxor vshl vshr vabs
    vneg vadds vsubs vmulh vavg vfadd vfsub vfmul vfdiv vfma vfmin vfmax vfabs vfneg vfsqrt vcmp vfcmp vsel pand por pxor
    vperm vbcast vins vext vredadd vredmin vredmax vfredadd vfredmin vfredmax vcvt vmxq vmxd vld vst vgather vscatter vloop
    tld tst tqDef tqAdv tqRel tqWait epush epop estat aget shufOpen shufHold shufClose shufStat cAddi cMov cAdd cSub cLi cLdD
    cStD cLdW cStW cLdsp cStsp cB cBeqz cBnez cRet cNop illegal mma loadb ringClaim passb drain zero mark copy fill move
    decrypt ckpt areduce agather bcast shuffle rget rput commandCompletion leaveGrant loadReply storeDrain syncRetry pageWalk
    entryUpdate translationStore cleaningDone transferPlacement transferBounce helperStart messageArrival messageClaim
    controlStrandEntry spillOut spillReplay workReplay levellingSample workShipArrival quiescenceTest launchSubmit launch
    launchRetire lqstatusRead schedOut schedIn schedExchange swapBoundary domainStop domainResume stopnote resume kill halt
    step crossTriggerFire crossTriggerRelease pairEffectMatch eccUncorr raceRecordAppend sweepVisit rebase remoteLoadServe
    noReply commitOutcome rbatch linkGroupReceive nak linkDown widthChange packetHop remapWrite deviceFence
    isolatedReadAnswer holdFirstArrival holdPartnerArrival pairwait sack snack codedTimerExpiry block lake busyResend
    senderSackTimeout shuffleReceiveTimeout hostLineDrain timeout inboundWrite inboundSyncPut inboundRead inboundSyncPeek
    doorbellMessage doorbellTag windowRegister windowUnregister quiesce partitionReset flr quiesceComplete resetComplete
    counterRead counterReadLow counterReadHigh ofpop counterIntervalSnapshot traceSample traceIntervalRecord deepestRead
    thermalSample clusterPowerEntry clusterPowerExit deviceReset getMeasurements policyInstall streamInstall tdiStateChange
    migrationExport migrationImport firmwareUpdate registerWrite ewrite eread commandRemoteTimeout spareJobAssign

theorem parcel_parcelBytes {w : Nat} (hw : w < 2 ^ 16) : parcel (BitVec.ofNat 8 w) (BitVec.ofNat 8 (w / 256)) = w := by
  simp only [parcel, BitVec.toNat_ofNat]
  omega

theorem pattern_parcelBytes {w : Nat} (hw : w < 2 ^ 15) (rest : List Byte) :
    pattern (parcelBytes w ++ rest) = some (2, w, rest) := by
  have hp := parcel_parcelBytes (w := w) (by omega)
  simp only [parcelBytes, List.cons_append, List.nil_append, pattern, hp, if_pos hw]

theorem pattern_wordBytes {w : Nat} (hw : 2 ^ 31 ≤ w ∧ w < 2 ^ 32) (rest : List Byte) :
    pattern (wordBytes w ++ rest) = some (4, w, rest) := by
  have hhi := parcel_parcelBytes (w := w / 2 ^ 16) (by omega)
  have hlo : parcel (BitVec.ofNat 8 w) (BitVec.ofNat 8 (w / 256)) = w % 2 ^ 16 := by
    simp only [parcel, BitVec.toNat_ofNat]
    omega
  have hbig : ¬w / 2 ^ 16 < 2 ^ 15 := by omega
  have hsum : w / 2 ^ 16 * 2 ^ 16 + w % 2 ^ 16 = w := Nat.div_add_mod' w (2 ^ 16)
  simp only [wordBytes, parcelBytes, List.cons_append, List.nil_append, pattern, hhi, if_neg hbig, hlo, hsum]

/-- The fetched pattern of laid-out bytes is the pattern that was laid out, whatever follows (R45). -/
theorem pattern_patternBytes {len w : Nat} (h : len = 2 ∧ w < 2 ^ 15 ∨ len = 4 ∧ 2 ^ 31 ≤ w ∧ w < 2 ^ 32) (rest : List Byte) :
    pattern (patternBytes len w ++ rest) = some (len, w, rest) := by
  obtain ⟨rfl, hw⟩ | ⟨rfl, hw⟩ := h
  · exact pattern_parcelBytes hw rest
  · exact pattern_wordBytes hw rest

theorem decode_of_pattern {bs rest : List Byte} {len w : Nat} {i : Instr} (hp : pattern bs = some (len, w, rest))
    (hd : decodePattern len w = .ok i) : decode bs = .ok (i, rest) := by
  simp only [decode, hp, hd]

/-- Settles O2: each constructor's pattern decodes back (`RoundTrip`), and its bytes lay that pattern out for the fetch. -/
theorem encodingsDecodeBack : Obligations.EncodingsDecodeBack := by
  unfold Obligations.EncodingsDecodeBack
  intro i bs rest hwf henc
  obtain ⟨⟨len, w⟩, hpat, rfl⟩ := Option.map_eq_some_iff.1 henc
  obtain ⟨hrange, hdec⟩ := RoundTrip.statement i hwf len w hpat
  exact decode_of_pattern (pattern_patternBytes hrange rest) hdec

/-- Settles O1: each written pattern is read by evaluating the decoder on its bytes. -/
theorem writtenWordsDecode : Obligations.WrittenWordsDecode := by
  unfold Obligations.WrittenWordsDecode
  and_intros <;> rfl

end Sys2Proof.Laws

/-! PROOF. The compact arithmetic forms (R70 to R72), and stores into the store buffer (R131, R133, R135). -/

namespace Sys2Proof.Machine

/-! ### Operations of two and three registers, at any length of the instruction -/

section operations
variable {s : State} {d a b : CR}

theorem State.unbound_subset {ks js : List CR} (h : s.unbound ks) (hj : js ⊆ ks) : s.unbound js := fun k hk => h k (hj hk)

/-- Unbound registers are used in no wrong direction, whichever an instruction names. -/
theorem run_dirs {ks rs ws : List CR} (hu : s.unbound ks) (hr : rs ⊆ ks) (hw : ws ⊆ ks) :
    (dirs rs ws).run ⟨s, s, []⟩ = .ok ((), ⟨s, s, []⟩) :=
  dirs_unbound (State.unbound_subset hu hr) (State.unbound_subset hu hw)

theorem run_op3 {f : Nat → Nat → Nat} (hu : s.unbound [d, a, b]) : (op3 d a b f).run ⟨s, s, []⟩ =
    .ok ((), ⟨s, s.modCur (fun t => t.setReg d.val (plain (f (s.cur.reg a.val).lo (s.cur.reg b.val).lo))), []⟩) := by
  have hdirs := run_dirs (rs := [a, b]) (ws := [d]) hu (by simp) (by simp)
  simp only [op3, Act.run_bind, hdirs, src_unbound (hu a (by simp)), src_unbound (hu b (by simp)),
    dst_unbound (hu d (by simp))]

theorem run_op2 {f : Nat → Nat} (hu : s.unbound [d, a]) : (op2 d a f).run ⟨s, s, []⟩ =
    .ok ((), ⟨s, s.modCur (fun t => t.setReg d.val (plain (f (s.cur.reg a.val).lo))), []⟩) := by
  have hdirs := run_dirs (rs := [a]) (ws := [d]) hu (by simp) (by simp)
  simp only [op2, Act.run_bind, hdirs, src_unbound (hu a (by simp)), dst_unbound (hu d (by simp))]

/-- An action that writes one register and goes on. -/
theorem issue_setReg {n k : Nat} {act : Act Unit} {v v' : CReg} (h : s.calm)
    (hr : act.run ⟨s, s, []⟩ = .ok ((), ⟨s, s.modCur (fun t => t.setReg k v), []⟩)) (hv : v = v') :
    issue_ n act s = .next (s.went n (fun t => t.setReg k v')) := by
  subst hv
  exact issue_went h hr (Slot.setReg_state ..) (Slot.setReg_pend ..)

/-- An action that does nothing: the instruction retires. -/
theorem issue_nothing {n : Nat} (h : s.calm) : issue_ n (pure ()) s = .next (s.went n (fun t => t)) := by
  obtain ⟨hready, hpend, hreplay⟩ := h
  unfold issue_
  rw [issue_ok (f := .next) (c := ⟨s, s, []⟩) hready rfl, State.retire_next (by rw [hready]; decide) hpend hreplay]
  rfl

end operations

/-! ### Numbers of 64 bits as words (R24, R74) -/

theorem plain_eq_word64 (x : Nat) : plain x = word64 (BitVec.ofNat 64 x) := by
  unfold plain word64
  congr 1
  bv_omega

theorem CReg.lo_reg (s : State) (k : CR) : (s.cur.reg k.val).lo = (s.low k).toNat := by
  simp only [CReg.lo, State.low, BitVec.toNat_setWidth]

theorem bitsN_eq_toNat (x : Int) (n : Nat) : bitsN x n = (BitVec.ofInt n x).toNat := (BitVec.toNat_ofInt x).symm

theorem immN_eq_toNat {n : Nat} (imm : BitVec n) : immN imm = (imm.signExtend 64).toNat := bitsN_eq_toNat _ _

theorem ofNat_add_mod (x y : BitVec 64) : BitVec.ofNat 64 ((x.toNat + y.toNat) % 2 ^ 64) = x + y := by
  bv_omega

theorem ofNat_bitsN_sub (x y : BitVec 64) : BitVec.ofNat 64 (bitsN (x.toNat - y.toNat) 64) = x - y := by
  unfold bitsN
  bv_omega

/-- Settles O9: each form is `op2` or `op3` on the registers that its fields name, or writes its immediate. -/
theorem compactArithmeticResults : Obligations.CompactArithmeticResults := by
  unfold Obligations.CompactArithmeticResults
  intro s d a imm hc hu
  have hd : s.unbound [cr4 d, cr4 d] := State.unbound_subset hu (by simp)
  have hda : s.unbound [cr4 d, cr4 d, cr4 a] := State.unbound_subset hu (by simp)
  have hli : (do dirs [] [cr4 d]; dst (cr4 d) (plain (immN imm)) : Act Unit).run ⟨s, s, []⟩ =
      .ok ((), ⟨s, s.modCur (fun t => t.setReg d.toNat (plain (immN imm))), []⟩) := by
    rw [Act.run_bind, run_dirs (rs := []) (ws := [cr4 d]) hu (by simp) (by simp)]
    exact dst_unbound (hu _ (by simp))
  refine ⟨issue_setReg hc (run_op2 hd) ?addi, issue_setReg hc (run_op2 hu) ?mov, issue_setReg hc (run_op3 hda) ?add,
    issue_setReg hc (run_op3 hda) ?sub, issue_setReg hc hli ?li, issue_nothing hc⟩
  all_goals rw [plain_eq_word64]
  case addi => rw [CReg.lo_reg, immN_eq_toNat, ofNat_add_mod]
  case mov => rw [CReg.lo_reg, BitVec.ofNat_toNat, BitVec.setWidth_eq]
  case add => rw [CReg.lo_reg, CReg.lo_reg, ofNat_add_mod]
  case sub => rw [CReg.lo_reg, CReg.lo_reg, ofNat_bitsN_sub]
  case li => rw [immN_eq_toNat, BitVec.ofNat_toNat, BitVec.setWidth_eq]

/-! ### Stores (R131, R133, R135) -/

/-- No access outside a region reaches a REMOTE object (R123): such an access is refused before. -/
theorem remoteAccess_of_permit {s : State} {op : Op} {c : CReg} (hop : op = .load ∨ op = .store)
    (h : permit op c (s.objAt (objOf c)).level (s.mayDebug c) false = none) : s.remoteAccess c = false := by
  by_contra hr
  simp only [State.remoteAccess, Bool.not_eq_false, Bool.and_eq_true, decide_eq_true_eq, beq_iff_eq] at hr
  obtain ⟨⟨⟨-, hkind⟩, hlevel⟩, -⟩ := hr
  have hkind' : kindOf c = 0 ∨ kindOf c = 1 := by omega
  rcases hkind' with hk | hk <;> rcases hop with rfl | rfl <;> simp [permit, hk, hlevel] at h

theorem confirmed_of_alone {s : State} (h : s.alone) : s.confirmed = false := by
  unfold State.alone at h
  simp only [State.confirmed, h]; rfl

@[simp] theorem Act.run_checked_ok {α : Type} (x : α) (c : Ctx) : (checked (.ok x)).run c = .ok (x, c) := rfl
@[simp] theorem Act.run_until_true (w : Wait) (c : Ctx) : (until_ true w).run c = .ok ((), c) := rfl
@[simp] theorem Act.run_until_false (w : Wait) (c : Ctx) : (until_ false w).run c = .error (.wait w) := rfl

section checks
variable {s : State} {c : CReg} {x : Int} {n y reg : Nat}

theorem run_headed_ok {e : Obj} (h : s.entryHere (objOf c) = true) : (headed c (.ok e)).run ⟨s, s, []⟩ = .ok (e, ⟨s, s, []⟩) := by
  simp only [headed, awaitEntry, Act.run_bind, Act.run_getS, h, Act.run_until_true, Act.run_pure]

/-- The check of a dereference that passes gives the location (R33, steps 1 to 8). -/
theorem run_checkCapV_passes {op : Op} (ha : s.alone) (hp : s.passes op c x n n) : (checkCapV op c reg 0 x n n).run ⟨s, s, []⟩ =
    .ok (⟨objOf c, s.objAt (objOf c), (cursorOf c + x).toNat⟩, ⟨s, s, []⟩) := by
  obtain ⟨htag, hform, hperm, hentry, hgen, hlow, hhigh, halign, hpoison, htransit⟩ := hp
  have hconf := confirmed_of_alone ha
  have hhead : checkHead s op c (s.mayDebug c) false 0 reg = .ok (s.objAt (objOf c)) := by
    simp [checkHead, hconf, htag, hform, hperm, hgen]
  have hspan : checkSpan c (s.objAt (objOf c)) x n n 0 reg = .ok (cursorOf c + x).toNat := by
    simp only [checkSpan]
    rw [if_neg (by omega), if_neg (by omega)]
  have hpois : checkPoison (s.objAt (objOf c)) (cursorOf c + x).toNat 0 reg = .ok () := by
    simp [checkPoison, hpoison]
  simp only [checkCapV, Act.run_bind, Act.run_getS, hhead, run_headed_ok hentry, hspan, Act.run_checked_ok, hconf, Bool.not_false,
    if_true, hpois, htransit, Act.run_until_true, Act.run_pure]

/-- A location that lies at a flat address needs no wait (R33, step 9). -/
theorem run_flatAct_liesAt {o loc : Nat} (h : s.liesAt o loc y) : (flatAct o loc).run ⟨s, s, []⟩ = .ok (y, ⟨s, s, []⟩) := by
  rcases h with ⟨hlevel, rfl⟩ | ⟨hlevel, t, hfind, hsuits, rfl⟩
  · simp only [flatAct, Act.run_bind, Act.run_getS, if_pos hlevel, Act.run_pure]
  · simp only [flatAct, Act.run_bind, Act.run_getS, if_neg (Nat.not_lt.2 hlevel), State.coreTlb, hfind, hsuits,
      if_true, Act.run_pure]

theorem run_raceCheck_raceFree {loc : Nat} {w : Bool} (h : s.raceFree c loc y n w) :
    (raceCheck (isOwn c) (objOf c) loc y n w).run ⟨s, s, []⟩ = .ok ((), ⟨s, s, []⟩) := by
  rcases h with hown | hraces
  · simp only [raceCheck, Act.run_bind, Act.run_getS, hown, Bool.false_and, Bool.false_eq_true, if_false, Act.run_pure]
  · simp only [raceCheck, Act.run_bind, Act.run_getS, hraces]
    split <;> rfl

theorem run_awaitLines_none {own : Bool} {o loc : Nat} (h : s.lineDue own o loc y n = none) :
    (awaitLines own o loc y n).run ⟨s, s, []⟩ = .ok ((), ⟨s, s, []⟩) := by
  simp only [awaitLines, Act.run_bind, Act.run_getS, h, Act.run_pure]

end checks

section store
variable {s : State} {v c : CReg} {x : Int} {n w y reg : Nat}

theorem leBytes_eq_range (n x : Nat) : leBytes n x = (List.range n).map (fun j => BitVec.ofNat 8 (x / 256 ^ j)) := by
  induction n generalizing x with
  | zero => rfl
  | succ n ih =>
    rw [leBytes, ih, List.range_succ_eq_map, List.map_cons, List.map_map, pow_zero, Nat.div_one]
    simp only [Function.comp_def, Nat.succ_eq_add_one, pow_succ', Nat.div_div_eq_div_mul]

/-- The bytes of a store are those of its register, least significant first (R45). -/
theorem map_some_leBytes (n : Nat) (v : CReg) : (leBytes n v.val.toNat).map some = laid n v := by
  rw [leBytes_eq_range, List.map_map, laid]
  refine List.map_congr_left fun j _ => congrArg some ?_
  apply BitVec.eq_of_toNat_eq
  rw [BitVec.extractLsb'_toNat, BitVec.toNat_ofNat, Nat.shiftRight_eq_div_pow, pow_mul]
  rfl

@[simp] theorem length_laid (n : Nat) (v : CReg) : (laid n v).length = n := by
  simp only [laid, List.length_map, List.length_range]

theorem run_pushStore_room {e : StoreEntry} (ha : s.alone) (h : s.cur.sbuf.length < 8) : (pushStore e).run ⟨s, s, []⟩ =
    .ok ((), ⟨s, s.modCur (fun t => { t with sbuf := t.sbuf ++ [e], wrote := putN t.wrote e.obj }), []⟩) := by
  unfold State.alone at ha
  simp only [pushStore, Act.run_bind, Act.run_me, ha, if_true, h, decide_true, Act.run_until_true, Act.run_modS]

theorem run_pushStore_full {e : StoreEntry} (ha : s.alone) (h : ¬s.cur.sbuf.length < 8) :
    (pushStore e).run ⟨s, s, []⟩ = .error (.wait .stores) := by
  unfold State.alone at ha
  simp only [pushStore, Act.run_bind, Act.run_me, ha, if_true, h, decide_false, Act.run_until_false]

theorem State.modCur_congr {f g : Slot → Slot} (h : f s.cur = g s.cur) : s.modCur f = s.modCur g := by
  simp only [State.modCur, State.modSlot]
  exact congrArg _ h

theorem State.objAt_modCur (s : State) (f : Slot → Slot) (o : Nat) : (s.modCur f).objAt o = s.objAt o := rfl

/-- What a strand's store needs to enter its store buffer (R131). -/
structure State.Storable (s : State) (c : CReg) (x : Int) (w y : Nat) : Prop where
  alone : s.alone
  passes : s.passes .store c x w w
  noWindow : kindOf c ≠ 6
  noTable : (s.objAt (objOf c)).ptab = false
  lies : s.liesAt (objOf c) (cursorOf c + x).toNat y
  linesHere : s.lineDue (isOwn c) (objOf c) (cursorOf c + x).toNat y w = none
  raceFree : s.raceFree c (cursorOf c + x).toNat y w true

/-- A store whose checks pass comes down to its entry into the store buffer. -/
theorem run_storeAt {len : Nat} (h : s.Storable c x w y) : (storeAt len v c reg x w).run ⟨s, s, []⟩ =
    (do pushStore ⟨objOf c, (cursorOf c + x).toNat, y, laid w v, none, clkAt s.cur.clock s.slot, isOwn c⟩
        afterStore (objOf c) len : Act Flow).run ⟨s, s, []⟩ := by
  obtain ⟨halone, hpasses, hwin, -, hlies, hlines, hrace⟩ := h
  have ⟨_, _, hperm, _⟩ := hpasses
  simp only [storeAt, storeBytes, Act.run_bind, Act.run_getS, remoteAccess_of_permit (.inr rfl) hperm, Bool.false_eq_true,
    if_false, run_checkCapV_passes halone hpasses, if_neg hwin, run_flatAct_liesAt hlies, map_some_leBytes, length_laid,
    run_awaitLines_none hlines, run_raceCheck_raceFree hrace, Act.run_me]

theorem run_storeAt_room {len : Nat} (h : s.Storable c x w y) (hroom : s.cur.sbuf.length < 8) :
    (storeAt len v c reg x w).run ⟨s, s, []⟩ =
      .ok (.next, ⟨s, s.modCur (fun t => s.stored t c (cursorOf c + x).toNat y (laid w v) none), []⟩) := by
  rw [run_storeAt h, Act.run_bind, run_pushStore_room h.alone hroom]
  simp only [afterStore, Act.run_bind, Act.run_getS, State.objAt_modCur, h.noTable, Bool.false_eq_true, if_false, Act.run_pure]
  rw [State.modCur_congr (g := fun t => s.stored t c _ _ _ none) rfl]

theorem run_storeAt_full {len : Nat} (h : s.Storable c x w y) (hfull : ¬s.cur.sbuf.length < 8) :
    (storeAt len v c reg x w).run ⟨s, s, []⟩ = .error (.wait .stores) := by
  rw [run_storeAt h, Act.run_bind, run_pushStore_full h.alone hfull]

theorem Size.load_eq (z : Size) : (Size.load z).1 = sizeBytes z := by cases z <;> rfl

/-- A store in its forms on registers that are bound to no stream. -/
theorem run_store {len : Nat} {d a : CR} {z : Size} (hu : s.unbound [d, a]) : (store len d a x z).run ⟨s, s, []⟩ =
    (storeAt len (s.cur.reg d.val) (s.cur.reg a.val) a.val x (sizeBytes z)).run ⟨s, s, []⟩ := by
  have hdirs := run_dirs (rs := [d, a]) (ws := []) hu (by simp) (by simp)
  simp only [store, Act.run_bind, hdirs, src_unbound (hu d (by simp)), src_unbound (hu a (by simp)), Size.load_eq]

theorem run_stx {d a b : CR} {z : Size} {sc : Fin 5} (hu : s.unbound [d, a, b]) :
    (do dirs [d, a, b] []
        let v ← src d
        let c ← src a
        let x ← src b
        storeAt 4 v c a.val (x.slo * 2 ^ sc.val) (Size.load z).1 : Act Flow).run ⟨s, s, []⟩ =
      (storeAt 4 (s.cur.reg d.val) (s.cur.reg a.val) a.val ((s.low b).toInt * 2 ^ sc.val) (sizeBytes z)).run ⟨s, s, []⟩ := by
  have hdirs := run_dirs (rs := [d, a, b]) (ws := []) hu (by simp) (by simp)
  have hslo : (s.cur.reg b.val).slo = (s.low b).toInt := by
    simp only [CReg.slo, sintN, State.low, BitVec.toInt, BitVec.toNat_setWidth]
  simp only [Act.run_bind, hdirs, src_unbound (hu d (by simp)), src_unbound (hu a (by simp)), src_unbound (hu b (by simp)),
    Size.load_eq, hslo]

end store

/-! ### How an instruction of any kind ends -/

section issue
variable {s : State} {act : Act Flow} {n : Nat}

/-- An action that changes the strand's own slot and goes on. -/
theorem issue_next_went {f : Slot → Slot} {ps : Tab CReg} (h : s.calm)
    (hr : act.run ⟨s, s, []⟩ = .ok (.next, ⟨s, s.modCur f, ps⟩)) (hstate : (f s.cur).state = s.cur.state)
    (hpend : (f s.cur).pend = s.cur.pend) : issue n act s = .next (s.went n f) := by
  obtain ⟨hready, hnone, hreplay⟩ := h
  rw [issue_ok hready hr, State.retire_next (by rw [State.cur_modCur, hstate, hready]; decide)
    (by rw [State.cur_modCur, hpend, hnone]) (by rw [State.modCur_replaying, hreplay]), State.modCur_modCur]
  rfl

theorem State.cur_askWalk (s : State) (c : Nat) (w : Wait) : (s.askWalk c w).cur = s.cur := by
  cases w <;> rfl

/-- An action that waits leaves the rotation with nothing else done (R20). -/
theorem issue_waits {w : Wait} (h : s.calm) (hr : act.run ⟨s, s, []⟩ = .error (.wait w)) : issue n act s = .next (s.waits w) := by
  obtain ⟨hready, hnone, -⟩ := h
  simp only [issue, if_pos hready, hr, State.parked]
  rw [State.boundary_cur (by rw [State.cur_askWalk, State.cur_modCur]; exact hnone)]
  rfl

/-- What becomes of an instruction that is a checked store: it enters the buffer and retires, or waits for room (R131). -/
theorem issue_storeAt {v c : CReg} {x : Int} {w y reg : Nat} (hc : s.calm) (h : s.Storable c x w y)
    (hr : act.run ⟨s, s, []⟩ = (storeAt n v c reg x w).run ⟨s, s, []⟩) :
    if s.cur.sbuf.length < 8
    then issue n act s = .next (s.went n (fun t => s.stored t c (cursorOf c + x).toNat y (laid w v) none))
    else issue n act s = .next (s.waits .stores) := by
  split
  · next hroom => exact issue_next_went hc (hr.trans (run_storeAt_room h hroom)) rfl rfl
  · next hfull => exact issue_waits hc (hr.trans (run_storeAt_full h hfull))

end issue

/-- Settles O18: each form runs as `storeAt` on its registers. -/
theorem storesEnterTheStoreBuffer : Obligations.StoresEnterTheStoreBuffer := by
  unfold Obligations.StoresEnterTheStoreBuffer
  intro s d a b z off sc r q k m hc ha hu
  have hda : s.unbound [d, a] := State.unbound_subset hu (by simp)
  have hdab : s.unbound [d, a, b] := State.unbound_subset hu (by simp)
  have hrq : s.unbound [cr3 r, cr3 q] := State.unbound_subset hu (by simp)
  have hsp : s.unbound [d, 29] := State.unbound_subset hu (by simp)
  refine ⟨?st, ?stx, ?cStD, ?cStW, ?cStsp⟩ <;> intro y hp hw ht hl hd hf
  case st => exact issue_storeAt hc ⟨ha, hp, hw, ht, hl, hd, hf⟩ (run_store hda)
  case stx => exact issue_storeAt hc ⟨ha, hp, hw, ht, hl, hd, hf⟩ (run_stx hdab)
  case cStD => exact issue_storeAt hc ⟨ha, hp, hw, ht, hl, hd, hf⟩ (run_store hrq)
  case cStW => exact issue_storeAt hc ⟨ha, hp, hw, ht, hl, hd, hf⟩ (run_store hrq)
  case cStsp => exact issue_storeAt hc ⟨ha, hp, hw, ht, hl, hd, hf⟩ (run_store hsp)

end Sys2Proof.Machine

/-! PROOF. The rows that ZERO clears (R202). -/

namespace Sys2Proof.Machine

theorem lookT_eq_find? {α : Type} (t : Tab α) (k : Nat) : lookT t k = (t.find? (fun p => p.1 == k)).map Prod.snd := by
  induction t with
  | nil => rfl
  | cons p t ih =>
    obtain ⟨j, x⟩ := p
    by_cases h : j = k
    · simp [lookT, h]
    · simp [lookT, h, ih]

/-- The entries of a table whose keys satisfy p. -/
theorem lookT_filter_key {α : Type} (p : Nat → Bool) (t : Tab α) (k : Nat) :
    lookT (t.filter (fun q => p q.1)) k = if p k then lookT t k else none := by
  have hkey (q : Nat × α) : (decide (p q.1 = true ∧ (q.1 == k) = true)) = (p k && q.1 == k) := by
    by_cases h : q.1 = k <;> simp [h]
  simp only [lookT_eq_find?, List.find?_filter, hkey]
  cases p k <;> simp

/-- Rows are cleared as a range of the keys of both banks, which lie one after the other. -/
theorem MatrixState.accAt_clearRows (m : MatrixState) (bank row n b r c : Nat) : (m.clearRows bank row n).accAt b r c =
    if accKey bank row 0 ≤ accKey b r c ∧ accKey b r c < accKey bank (row + n) 0 then 0 else m.accAt b r c := by
  simp only [MatrixState.clearRows, MatrixState.accAt,
    lookT_filter_key (fun k => decide (k < accKey bank row 0) || decide (accKey bank (row + n) 0 ≤ k))]
  by_cases h : accKey bank row 0 ≤ accKey b r c ∧ accKey b r c < accKey bank (row + n) 0
  · rw [if_pos h, if_neg (by simpa using h)]
    rfl
  · rw [if_neg h, if_pos (by simp; omega)]

/-- Rows past the last of bank 0 are those of bank 1. -/
theorem MatrixState.accAt_clearRows_past_bank (m : MatrixState) {row n r c : Nat} (hrow : row ≤ 256) (hr : 256 + r < row + n)
    (hc : c < 64) : (m.clearRows 0 row n).accAt 1 r c = 0 := by
  rw [MatrixState.accAt_clearRows, if_pos]
  unfold accKey
  omega

/-- A ZERO of two rows of bank 0 from row 255: the second lies past the bank (R202). -/
def zeroPastBank : Cmd :=
  { asid := 0, slot := 0, seq := 0, h := plainQ (5 + (2 * 2 ^ 8 + 255) * 2 ^ 64), x := CReg.zero, y := CReg.zero, z := CReg.zero,
    clk := ⟨0, []⟩, pc := 0, code := CReg.zero, done := none, leave := 0, stopped := false, kind := 0, born := 0, since := 0,
    sent := false }

/-- The booted device with that command alone on e0 of core 0, and 1 as the first accumulator of bank 1. -/
def beforeZeroPastBank : State :=
  { State.reset with booted := true }.modCore 0 (fun c =>
    { c with ports := [(0, [zeroPastBank])], mx := { c.mx with acc := [(accKey 1 0 0, 1)] } })

/-- No `epush` puts the command on a port: its record is malformed (R189, R202). -/
theorem parse_zeroPastBank (s : State) (core asid : Nat) :
    s.parse core asid 0 zeroPastBank.h zeroPastBank.x zeroPastBank.y zeroPastBank.z = none := rfl

theorem runs_zeroPastBank :
    beforeZeroPastBank.runnable 0 0 5 = some zeroPastBank ∧ beforeZeroPastBank.stale zeroPastBank = false := by
  decide

theorem accAt_beforeZeroPastBank : (beforeZeroPastBank.coreAt 0).mx.accAt 1 0 0 = 1 := by decide

/-- The step clears the first row of bank 1. -/
theorem accAt_of_zeroPastBank : ∃ t, exec (.zero 0) beforeZeroPastBank = .next t ∧ (t.coreAt 0).mx.accAt 1 0 0 = 0 :=
  ⟨_, rfl, by decide⟩

/-- Refutes O44: its clause on ZERO holds of any command at the head of e0 and does not ask that AROW + ROWS be at most 256. Two rows
from row 255 of bank 0 reach the first row of bank 1, which the clause says to be unchanged. -/
theorem not_matrixCommandsRun : ¬ Obligations.MatrixCommandsRun := by
  unfold Obligations.MatrixCommandsRun
  intro h
  obtain ⟨-, -, -, -, hzero, -⟩ := h beforeZeroPastBank 0 zeroPastBank
  obtain ⟨-, hacc⟩ := hzero runs_zeroPastBank
  have hbank : bitsAt zeroPastBank.param 17 1 = 0 := by decide
  have hrow : bitsAt zeroPastBank.param 0 8 = 255 := by decide
  have hrows : bitsAt zeroPastBank.param 8 9 = 2 := by decide
  have hkept := hacc 1 (by decide) 0 (by decide) 0 (by decide)
  simp only [State.coreAt_modCore, hbank, hrow, hrows, accAt_beforeZeroPastBank] at hkept
  rw [MatrixState.accAt_clearRows_past_bank _ (by decide) (by decide) (by decide)] at hkept
  exact absurd hkept (by decide)

end Sys2Proof.Machine

/-! PROOF. The integer instructions on words (R104 to R110). -/

namespace Sys2Proof.Machine

/-! ### Words of 64 bits: numbers of the model and their bit vectors (R24, R74) -/

section words

theorem sintN_toNat (x : BitVec 64) : sintN x.toNat 64 = x.toInt := by
  rw [sintN, BitVec.toInt, Nat.mod_eq_of_lt x.isLt]

theorem toInt_lt_iff {x y : BitVec 64} : sintN x.toNat 64 < sintN y.toNat 64 ↔ x.slt y = true := by
  rw [sintN_toNat, sintN_toNat, BitVec.slt_iff_toInt_lt]

/-- The conditions of R49 are those on words. -/
theorem condHolds_toNat (c : Cond) (x y : BitVec 64) : condHolds c x.toNat y.toNat = condOn c x y := by
  cases c with
  | eq => simp only [condHolds, condOn, Bool.beq_eq_decide_eq, BitVec.toNat_inj]
  | ne => simp only [condHolds, condOn, bne, Bool.beq_eq_decide_eq, BitVec.toNat_inj]
  | lt => simp only [condHolds, condOn, sintN_toNat]; rfl
  | ge =>
    rw [condHolds, condOn, sintN_toNat, sintN_toNat, Bool.eq_iff_iff, BitVec.slt, decide_eq_true_iff, Bool.not_eq_true',
      decide_eq_false_iff_not, Int.not_lt]
  | lo => rfl
  | hs => rw [condHolds, condOn, Bool.eq_iff_iff, BitVec.ult, decide_eq_true_iff, Bool.not_eq_true', decide_eq_false_iff_not, Nat.not_lt]

theorem toNat_ite_one (b : Bool) : (if b then 1 else 0 : BitVec 64).toNat = b.toNat := by cases b <;> rfl

theorem toNat_shiftLeft_eq (x : BitVec 64) (n : Nat) : (x <<< n).toNat = x.toNat * 2 ^ n % 2 ^ 64 := by
  rw [BitVec.toNat_shiftLeft, Nat.shiftLeft_eq]

theorem toNat_ushiftRight_eq (x : BitVec 64) (n : Nat) : (x >>> n).toNat = x.toNat / 2 ^ n := by
  rw [BitVec.toNat_ushiftRight, Nat.shiftRight_eq_div_pow]

theorem toNat_sshiftRight_eq (x : BitVec 64) (n : Nat) : (x.sshiftRight n).toNat = sraN x.toNat n := by
  rw [sraN, bitsN_eq_toNat, sintN_toNat, ← Int.shiftRight_eq_div_pow, ← BitVec.toInt_sshiftRight, BitVec.ofInt_toInt]

/-- The two parts of a rotated word share no bits, so that their sum is their union (R106). -/
theorem toNat_rotateLeft_eq (x : BitVec 64) {n : Nat} (h : n < 64) : (x.rotateLeft n).toNat = rolN x.toNat n := by
  have hlow : x.toNat >>> (64 - n) < 2 ^ n := by
    rw [Nat.shiftRight_eq_div_pow, Nat.div_lt_iff_lt_mul (Nat.two_pow_pos _), ← pow_add, Nat.add_sub_cancel' h.le]
    exact x.isLt
  have hhigh : x.toNat <<< n % 2 ^ 64 = (x.toNat % 2 ^ (64 - n)) <<< n := by
    rw [Nat.shiftLeft_eq, Nat.shiftLeft_eq, ← Nat.mul_mod_mul_right, ← pow_add, Nat.sub_add_cancel h.le]
  have hor : (x.rotateLeft n).toNat = x.toNat * 2 ^ n % 2 ^ 64 + x.toNat / 2 ^ (64 - n) := by
    rw [BitVec.toNat_rotateLeft, Nat.mod_eq_of_lt h, hhigh, ← Nat.shiftLeft_add_eq_or_of_lt hlow, ← hhigh, Nat.shiftLeft_eq,
      Nat.shiftRight_eq_div_pow]
  rw [rolN, ← Nat.mod_add_mod, ← hor, Nat.mod_eq_of_lt (x.rotateLeft n).isLt]

/-- A product of signed words in 128 bits is that of the integers (R109). -/
theorem signExtend_mul_signExtend (x y : BitVec 64) :
    x.signExtend 128 * y.signExtend 128 = BitVec.ofInt 128 (x.toInt * y.toInt) := by
  rw [BitVec.ofInt_mul]; rfl

theorem toNat_mulh_eq (x y : BitVec 64) : ((x.signExtend 128 * y.signExtend 128).extractLsb' 64 64).toNat =
    bitsN (sintN x.toNat 64 * sintN y.toNat 64 / (2 ^ 64 : Nat)) 64 := by
  rw [signExtend_mul_signExtend, BitVec.extractLsb'_toNat, BitVec.toNat_ofInt, Nat.shiftRight_eq_div_pow, bitsN, sintN_toNat,
    sintN_toNat]
  generalize x.toInt * y.toInt = z
  omega

theorem toNat_plainProduct (x y : BitVec 64) : (x.setWidth 128 * y.setWidth 128).toNat = x.toNat * y.toNat := by
  have h : x.toNat * y.toNat < 2 ^ 64 * 2 ^ 64 := Nat.mul_lt_mul'' x.isLt y.isLt
  rw [BitVec.toNat_mul, BitVec.toNat_setWidth_of_le (by decide), BitVec.toNat_setWidth_of_le (by decide),
    Nat.mod_eq_of_lt (h.trans_eq (by norm_num))]

theorem toNat_mulhn_eq (x y : BitVec 64) :
    ((x.setWidth 128 * y.setWidth 128).extractLsb' 64 64).toNat = x.toNat * y.toNat / 2 ^ 64 := by
  have h : x.toNat * y.toNat < 2 ^ 64 * 2 ^ 64 := Nat.mul_lt_mul'' x.isLt y.isLt
  rw [BitVec.extractLsb'_toNat, toNat_plainProduct, Nat.shiftRight_eq_div_pow, Nat.mod_eq_of_lt (Nat.div_lt_of_lt_mul h)]

theorem toNat_sdiv_eq (x y : BitVec 64) : (if y = 0 then BitVec.allOnes 64 else x.sdiv y).toNat = divS x.toNat y.toNat := by
  have hzero : y.toNat = 0 ↔ y = 0 := BitVec.toNat_inj (y := 0)
  simp only [divS, hzero]
  split
  · rfl
  · rw [bitsN_eq_toNat, sintN_toNat, sintN_toNat]
    refine congrArg _ (BitVec.eq_of_toInt_eq ?_)
    rw [BitVec.toInt_sdiv, BitVec.toInt_ofInt]

theorem toNat_udiv_eq (x y : BitVec 64) : (if y = 0 then BitVec.allOnes 64 else x / y).toNat = divU x.toNat y.toNat := by
  have hzero : y.toNat = 0 ↔ y = 0 := BitVec.toNat_inj (y := 0)
  simp only [divU, hzero]
  split
  · rfl
  · exact BitVec.toNat_udiv

theorem toNat_srem_eq (x y : BitVec 64) : (if y = 0 then x else x.srem y).toNat = remS64 x.toNat y.toNat := by
  have hzero : y.toNat = 0 ↔ y = 0 := BitVec.toNat_inj (y := 0)
  simp only [remS64, hzero]
  split
  · rfl
  · rw [bitsN_eq_toNat, sintN_toNat, sintN_toNat, ← BitVec.toInt_srem, BitVec.ofInt_toInt]

theorem toNat_umod_eq (x y : BitVec 64) : (if y = 0 then x else x % y).toNat = remU x.toNat y.toNat := by
  have hzero : y.toNat = 0 ↔ y = 0 := BitVec.toNat_inj (y := 0)
  simp only [remU, hzero]
  split
  · rfl
  · exact BitVec.toNat_umod

end words

/-! ### Fields of numbers, bit by bit (R74) -/

section fields
variable (a b x pos n : Nat)

theorem bit_eq_testBit (k : Nat) : bit a k = a.testBit k := by
  rw [bit, Nat.testBit_eq_decide_div_mod_eq, Bool.beq_eq_decide_eq]

theorem testBit_bitsAt (j : Nat) : (bitsAt a pos n).testBit j = (decide (j < n) && a.testBit (j + pos)) := by
  rw [bitsAt, Nat.testBit_mod_two_pow, Nat.testBit_div_two_pow]

/-- A number is what lies above a field, the field, and what lies below it. -/
theorem eq_field_parts : a = 2 ^ pos * (2 ^ n * (a / 2 ^ (pos + n)) + bitsAt a pos n) + a % 2 ^ pos := by
  rw [bitsAt, pow_add, ← Nat.div_div_eq_div_mul, Nat.div_add_mod, Nat.div_add_mod]

/-- A field replaced: its bits are those of the new value, and every other bit is the old one (R52, R110). -/
theorem testBit_replaceField (j : Nat) : (a - bitsAt a pos n * 2 ^ pos + field x pos n).testBit j =
    if pos ≤ j ∧ j < pos + n then x.testBit (j - pos) else a.testBit j := by
  have hparts : a - bitsAt a pos n * 2 ^ pos + field x pos n =
      2 ^ pos * (2 ^ n * (a / 2 ^ (pos + n)) + x % 2 ^ n) + a % 2 ^ pos := by
    conv_lhs => rw [eq_field_parts a pos n]
    have hsame : bitsAt (2 ^ pos * (2 ^ n * (a / 2 ^ (pos + n)) + bitsAt a pos n) + a % 2 ^ pos) pos n = bitsAt a pos n := by
      rw [← eq_field_parts]
    rw [hsame, field, Nat.mul_add, Nat.mul_add, Nat.mul_comm (bitsAt a pos n), Nat.mul_comm (x % 2 ^ n)]
    omega
  rw [hparts, Nat.testBit_two_pow_mul_add _ (Nat.mod_lt _ (Nat.two_pow_pos _)),
    Nat.testBit_two_pow_mul_add _ (Nat.mod_lt _ (Nat.two_pow_pos _))]
  by_cases hlow : j < pos
  · rw [if_pos hlow, if_neg (by omega), Nat.testBit_mod_two_pow, decide_eq_true hlow, Bool.true_and]
  · by_cases hin : j < pos + n
    · rw [if_neg hlow, if_pos (by omega), if_pos ⟨by omega, hin⟩, Nat.testBit_mod_two_pow, decide_eq_true (by omega), Bool.true_and]
    · rw [if_neg hlow, if_neg (by omega), if_neg (by omega), Nat.testBit_div_two_pow]
      congr 1
      omega

end fields

/-! ### Operations that write a word -/

section results
variable {s : State} {d a b : CR} {r : BitVec 64} {q : BitVec 128}

theorem plain_eq_of_toNat {x : Nat} (h : r.toNat = x) : plain x = word64 r := by
  rw [plain_eq_word64, ← h, BitVec.ofNat_toNat, BitVec.setWidth_eq]

theorem plainQ_eq_of_toNat {x : Nat} (h : q.toNat = x) : plainQ x = word128 q := by
  rw [plainQ, word128, ← h, BitVec.ofNat_toNat, BitVec.setWidth_eq]

/-- `op3` writes the word that its function gives on the numbers of its sources. -/
theorem issue_op3_word64 {f : Nat → Nat → Nat} (hc : s.calm) (hu : s.unbound [d, a, b])
    (hr : r.toNat = f (s.low a).toNat (s.low b).toNat) :
    issue_ 4 (op3 d a b f) s = .next (s.went 4 (fun t => t.setReg d.val (word64 r))) := by
  rw [issue_op3 hc hu, CReg.lo_reg, CReg.lo_reg, plain_eq_of_toNat hr]

theorem issue_op2_word64 {f : Nat → Nat} (hc : s.calm) (hu : s.unbound [d, a]) (hr : r.toNat = f (s.low a).toNat) :
    issue_ 4 (op2 d a f) s = .next (s.went 4 (fun t => t.setReg d.val (word64 r))) := by
  rw [issue_op2 hc hu, CReg.lo_reg, plain_eq_of_toNat hr]

theorem issue_op3q_word128 {f : Nat → Nat → Nat} (hc : s.calm) (hu : s.unbound [d, a, b])
    (hr : q.toNat = f (s.wide a).toNat (s.wide b).toNat) :
    issue_ 4 (op3q d a b f) s = .next (s.went 4 (fun t => t.setReg d.val (word128 q))) := by
  rw [issue_op3q hc hu]
  simp only [State.wide] at hr
  rw [plainQ_eq_of_toNat hr]

/-- An instruction that reads no register and writes one. -/
theorem issue_dst (hc : s.calm) {v v' : CReg} (hu : s.unbound [d]) (hv : v = v') :
    issue_ 4 (do dirs [] [d]; dst d v) s = .next (s.went 4 (fun t => t.setReg d.val v')) := by
  refine issue_setReg hc ?_ hv
  rw [Act.run_bind, run_dirs (rs := []) (ws := [d]) hu (by simp) (by simp)]
  exact dst_unbound (hu d (by simp))

end results

/-- Settles O5: each instruction is `op3` or `op3q` with a function on numbers that is the operation on words. -/
theorem registerOperationsResults : Obligations.RegisterOperationsResults := by
  unfold Obligations.RegisterOperationsResults
  intro s d a b c hc hu
  refine ⟨issue_op3_word64 hc hu ?add, issue_op3_word64 hc hu ?sub, issue_op3_word64 hc hu ?and, issue_op3_word64 hc hu ?or,
    issue_op3_word64 hc hu ?xor, issue_op3_word64 hc hu ?shl, issue_op3_word64 hc hu ?shr, issue_op3_word64 hc hu ?sra,
    issue_op3_word64 hc hu ?min, issue_op3_word64 hc hu ?max, issue_op3_word64 hc hu ?minn, issue_op3_word64 hc hu ?maxn,
    issue_op3q_word128 hc hu ?addQ, issue_op3q_word128 hc hu ?subQ, issue_op3q_word128 hc hu ?andQ,
    issue_op3q_word128 hc hu ?orQ, issue_op3q_word128 hc hu ?xorQ, issue_op3_word64 hc hu ?setCc⟩
  case add | addQ => exact BitVec.toNat_add ..
  case sub => unfold bitsN; bv_omega
  case subQ => unfold bitsN; bv_omega
  case and | andQ => exact BitVec.toNat_and ..
  case or | orQ => exact BitVec.toNat_or ..
  case xor | xorQ => exact BitVec.toNat_xor ..
  case shl => exact toNat_shiftLeft_eq ..
  case shr => exact toNat_ushiftRight_eq ..
  case sra => exact toNat_sshiftRight_eq ..
  case min => rw [minS, sintN_toNat, sintN_toNat, apply_ite BitVec.toNat]
  case max => rw [maxS, sintN_toNat, sintN_toNat, apply_ite BitVec.toNat]
  case minn => rw [apply_ite BitVec.toNat, min_def]
  case maxn => rw [apply_ite BitVec.toNat, max_def]
  case setCc => rw [condHolds_toNat, toNat_ite_one]

theorem toNat_lkK_eq (x : BitVec 64) (pos : BitVec 2) (chunk : BitVec 16) :
    ((x &&& ~~~((0xFFFF : BitVec 64) <<< (16 * pos.toNat))) ||| (chunk.setWidth 64 <<< (16 * pos.toNat))).toNat =
      chunkPut x.toNat pos.toNat chunk.toNat := by
  have hpos : pos.toNat < 4 := pos.isLt
  have hfield : field (bitsAt x.toNat (16 * pos.toNat) 16) (16 * pos.toNat) 16 = bitsAt x.toNat (16 * pos.toNat) 16 * 2 ^ (16 * pos.toNat) := by
    rw [field, bitsAt, Nat.mod_mod]
  have hmask : (0xFFFF : BitVec 64) = (BitVec.allOnes 16).setWidth 64 := rfl
  refine Nat.eq_of_testBit_eq fun j => ?_
  rw [chunkPut, hfield, testBit_replaceField]
  simp only [BitVec.testBit_toNat, BitVec.getLsbD_or, BitVec.getLsbD_and, BitVec.getLsbD_not, BitVec.getLsbD_shiftLeft, hmask,
    BitVec.getLsbD_setWidth, BitVec.getLsbD_allOnes]
  by_cases hj : j < 64
  · by_cases hlow : j < 16 * pos.toNat
    · simp [hj, hlow, show ¬(16 * pos.toNat ≤ j) by omega]
    · by_cases hin : j < 16 * pos.toNat + 16
      · simp [hj, hlow, hin, show 16 * pos.toNat ≤ j by omega, show j - 16 * pos.toNat < 16 by omega,
          show j - 16 * pos.toNat < 64 by omega]
      · have hout : chunk.getLsbD (j - 16 * pos.toNat) = false := BitVec.getLsbD_of_ge _ _ (by omega)
        simp [hj, hlow, hin, hout, show ¬(j - 16 * pos.toNat < 16) by omega]
  · rw [if_neg (by omega), BitVec.getLsbD_of_ge x j (by omega)]
    simp [hj]

theorem ofNat_two_pow_eq_twoPow (n : Nat) : BitVec.ofNat 64 (2 ^ n) = BitVec.twoPow 64 n := by
  refine BitVec.eq_of_toNat_eq ?_
  rw [BitVec.toNat_ofNat, BitVec.toNat_twoPow]

/-- Settles O6: the immediate forms are `op2` with the sign-extended immediate, and the constant chunks replace a field. -/
theorem immediateOperationsResults : Obligations.ImmediateOperationsResults := by
  unfold Obligations.ImmediateOperationsResults
  intro s d a imm sh c k pos chunk hc hu
  have hd : s.unbound [d] := State.unbound_subset hu (by simp)
  have hdd : s.unbound [d, d] := State.unbound_subset hu (by simp)
  refine ⟨issue_op2_word64 hc hu ?addi, issue_op2_word64 hc hu ?andi, issue_op2_word64 hc hu ?ori, issue_op2_word64 hc hu ?xori,
    issue_op2_word64 hc hu ?shli, issue_op2_word64 hc hu ?shri, issue_op2_word64 hc hu ?srai, issue_op2_word64 hc hu ?roli,
    issue_op2_word64 hc hu ?seti, issue_dst hc hd ?lkZ, issue_op2_word64 hc hdd ?lkK, issue_dst hc hd ?lkS⟩
  case addi => rw [immN_eq_toNat, BitVec.toNat_add]
  case andi => rw [immN_eq_toNat, BitVec.toNat_and]
  case ori => rw [immN_eq_toNat, BitVec.toNat_or]
  case xori => rw [immN_eq_toNat, BitVec.toNat_xor]
  case shli => exact toNat_shiftLeft_eq ..
  case shri => exact toNat_ushiftRight_eq ..
  case srai => exact toNat_sshiftRight_eq ..
  case roli => exact toNat_rotateLeft_eq _ sh.isLt
  case seti => rw [immN_eq_toNat, condHolds_toNat, toNat_ite_one]
  case lkZ => rw [plain_eq_word64, BitVec.ofNat_mul, ofNat_two_pow_eq_twoPow, BitVec.ofNat_toNat, BitVec.shiftLeft_eq_mul_twoPow]
  case lkK => exact toNat_lkK_eq ..
  case lkS =>
    refine plain_eq_of_toNat ?_
    rw [bitsN_eq_toNat, BitVec.ofInt_mul, BitVec.ofInt_natCast, ofNat_two_pow_eq_twoPow, BitVec.shiftLeft_eq_mul_twoPow]
    rfl

/-- Settles O7: the functions on numbers are the products and quotients of words, with their values for a divisor of 0. -/
theorem multiplyDivideResults : Obligations.MultiplyDivideResults := by
  unfold Obligations.MultiplyDivideResults
  intro s d a b hc hu
  have hlow (k : CR) : (s.wide k).toNat % 2 ^ 64 = (s.low k).toNat := (BitVec.toNat_setWidth ..).symm
  have hsigned (k : CR) : sintN (s.wide k).toNat 64 = (s.low k).toInt := by
    rw [← sintN_toNat, sintN, sintN, hlow, Nat.mod_eq_of_lt (s.low k).isLt]
  refine ⟨issue_op3_word64 hc hu ?mul, issue_op3_word64 hc hu ?mulh, issue_op3_word64 hc hu ?mulhn, issue_op3_word64 hc hu ?div,
    issue_op3_word64 hc hu ?divn, issue_op3_word64 hc hu ?rem, issue_op3_word64 hc hu ?remn, issue_op3q_word128 hc hu ?mulx,
    issue_op3q_word128 hc hu ?mulxn⟩
  case mul => exact BitVec.toNat_mul ..
  case mulh => exact toNat_mulh_eq ..
  case mulhn => exact toNat_mulhn_eq ..
  case div => exact toNat_sdiv_eq ..
  case divn => exact toNat_udiv_eq ..
  case rem => exact toNat_srem_eq ..
  case remn => exact toNat_umod_eq ..
  case mulx => rw [hsigned, hsigned, signExtend_mul_signExtend, bitsN_eq_toNat]
  case mulxn => rw [hlow, hlow, toNat_plainProduct]

/-! ### The bit operations (R110) -/

section bits
variable (a : Nat)

theorem clzN_le (n : Nat) : clzN a n ≤ n := by
  induction n with
  | zero => exact le_rfl
  | succ n ih => rw [clzN]; split <;> omega

/-- The bits above the highest one of n bits are zero. -/
theorem testBit_of_clzN (n : Nat) {j : Nat} (hlo : n - clzN a n ≤ j) (hhi : j < n) : a.testBit j = false := by
  induction n with
  | zero => omega
  | succ n ih =>
    rw [clzN] at hlo
    split at hlo
    · omega
    · next h =>
      rw [bit_eq_testBit, Bool.not_eq_true] at h
      by_cases hj : j = n
      · exact hj ▸ h
      · exact ih (by omega) (by omega)

theorem testBit_clzN (n : Nat) (h : clzN a n < n) : a.testBit (n - 1 - clzN a n) = true := by
  induction n with
  | zero => omega
  | succ n ih =>
    rw [clzN] at h ⊢
    split
    · next hb => rwa [bit_eq_testBit] at hb
    · next hb =>
      rw [if_neg hb] at h
      have := ih (by omega)
      rwa [show n + 1 - 1 - (1 + clzN a n) = n - 1 - clzN a n by omega]

theorem ctzN_le (k n : Nat) : ctzN a k n ≤ n := by
  induction n generalizing k with
  | zero => exact le_rfl
  | succ n ih =>
    rw [ctzN]
    split
    · omega
    · have := ih (k + 1)
      omega

/-- The bits below the lowest one from bit k up are zero. -/
theorem testBit_of_ctzN (k n : Nat) {j : Nat} (h : j < ctzN a k n) : a.testBit (k + j) = false := by
  induction n generalizing k j with
  | zero => simp [ctzN] at h
  | succ n ih =>
    rw [ctzN] at h
    split at h
    · omega
    · next hb =>
      rw [bit_eq_testBit, Bool.not_eq_true] at hb
      cases j with
      | zero => exact hb
      | succ j => rw [show k + (j + 1) = k + 1 + j by omega]; exact ih (k + 1) (by omega)

theorem testBit_ctzN (k n : Nat) (h : ctzN a k n < n) : a.testBit (k + ctzN a k n) = true := by
  induction n generalizing k with
  | zero => omega
  | succ n ih =>
    rw [ctzN] at h ⊢
    split
    · next hb => rwa [bit_eq_testBit] at hb
    · next hb =>
      rw [if_neg hb] at h
      rw [← Nat.add_assoc]
      exact ih (k + 1) (by omega)

/-- The sum that `brevN` makes of the n lowest bits. -/
def brevSum (n : Nat) : Nat := (List.range n).foldl (fun x i => x + (bit a i).toNat * 2 ^ (63 - i)) 0

theorem brevN_eq_brevSum : brevN a = brevSum a 64 := by rw [brevN, brevSum]

/-- The n lowest bits stand reversed in the n highest places of 64. -/
theorem brevSum_eq (n : Nat) (h : n ≤ 64) :
    ∃ q, brevSum a n = q * 2 ^ (64 - n) ∧ ∀ j < n, q.testBit j = a.testBit (n - 1 - j) := by
  induction n with
  | zero => exact ⟨0, (Nat.zero_mul _).symm, fun j hj => absurd hj (by omega)⟩
  | succ n ih =>
    obtain ⟨q, hq, hbits⟩ := ih (by omega)
    refine ⟨Nat.bit (a.testBit n) q, ?_, fun j hj => ?_⟩
    · have hstep : brevSum a (n + 1) = brevSum a n + (bit a n).toNat * 2 ^ (63 - n) := by
        rw [brevSum, List.range_succ, List.foldl_concat, brevSum]
      rw [hstep, hq, bit_eq_testBit, Nat.bit_val, show 64 - n = 63 - n + 1 by omega, show 64 - (n + 1) = 63 - n by omega, pow_succ]
      ring
    · cases j with
      | zero => rw [Nat.testBit_bit_zero, Nat.add_sub_cancel, Nat.sub_zero]
      | succ j => rw [Nat.testBit_bit_succ, hbits j (by omega), show n + 1 - 1 - (j + 1) = n - 1 - j by omega]

theorem testBit_brevN {j : Nat} (hj : j < 64) : (brevN a).testBit j = a.testBit (63 - j) := by
  obtain ⟨q, hq, hbits⟩ := brevSum_eq a 64 le_rfl
  rw [brevN_eq_brevSum, hq, Nat.sub_self, pow_zero, mul_one, hbits j hj]

/-- The bytes of a number that bytes make up. -/
theorem leNat_byte (bs : List Byte) (j : Nat) : BitVec.ofNat 8 (leNat bs / 256 ^ j) = bs.getD j 0 := by
  induction bs generalizing j with
  | nil => simp [leNat]
  | cons b bs ih =>
    cases j with
    | zero =>
      rw [leNat, pow_zero, Nat.div_one, List.getD_cons_zero]
      bv_omega
    | succ j =>
      have hb : b.toNat < 256 := b.isLt
      rw [leNat, List.getD_cons_succ, ← ih j, pow_succ', ← Nat.div_div_eq_div_mul]
      congr 2
      omega

theorem bswapN_byte {j : Nat} (hj : j < 8) : BitVec.ofNat 8 (bswapN a / 256 ^ j) = BitVec.ofNat 8 (a / 256 ^ (7 - j)) := by
  rw [bswapN, leNat_byte, leBytes_eq_range, List.getD_eq_getElem?_getD, List.getElem?_reverse (by simpa using hj)]
  simp [show 7 - j < 8 by omega]

end bits

section words
variable (x y z : BitVec 64)

theorem getLsbD_ofNat_of_lt (f : Nat) {j : Nat} (hj : j < 64) : (BitVec.ofNat 64 f).getLsbD j = f.testBit j := by
  rw [BitVec.getLsbD_ofNat, decide_eq_true hj, Bool.true_and]

theorem extractLsb'_bswapN {j : Nat} (hj : j < 8) :
    (BitVec.ofNat 64 (bswapN x.toNat)).extractLsb' (8 * j) 8 = x.extractLsb' (8 * (7 - j)) 8 := by
  refine BitVec.eq_of_getLsbD_eq fun i hi => ?_
  have hbit := congrArg (fun b : Byte => b.getLsbD i) (bswapN_byte x.toNat hj)
  have h256 (k : Nat) : 256 ^ k = 2 ^ (8 * k) := by rw [pow_mul]; rfl
  simp only [BitVec.getLsbD_ofNat, h256, Nat.testBit_div_two_pow, decide_eq_true hi, Bool.true_and] at hbit
  rw [BitVec.getLsbD_extractLsb', BitVec.getLsbD_extractLsb', getLsbD_ofNat_of_lt _ (by omega), Nat.add_comm (8 * j), hbit,
    BitVec.testBit_toNat, Nat.add_comm i]

theorem bitsAt_toNat (lo n : Nat) : bitsAt y.toNat lo n = (y.extractLsb' lo n).toNat := by
  rw [BitVec.extractLsb'_toNat, Nat.shiftRight_eq_div_pow, bitsAt]

theorem testBit_bextN {j : Nat} : (bextN x.toNat y.toNat).testBit j =
    (decide (j < bfLen y.toNat) && x.getLsbD (bitsAt y.toNat 0 6 + j)) := by
  rw [bextN, Nat.testBit_mod_two_pow, Nat.testBit_div_two_pow, Nat.add_comm, BitVec.testBit_toNat]

theorem testBit_binsN (j : Nat) : (binsN z.toNat x.toNat y.toNat).testBit j =
    if bitsAt y.toNat 0 6 ≤ j ∧ j < bitsAt y.toNat 0 6 + bfLen y.toNat then x.getLsbD (j - bitsAt y.toNat 0 6) else z.getLsbD j := by
  rw [binsN, testBit_replaceField, BitVec.testBit_toNat, BitVec.testBit_toNat]

theorem toNat_andn_eq : (x &&& ~~~y).toNat = x.toNat &&& (2 ^ 64 - 1 - y.toNat) := by
  rw [BitVec.toNat_and, BitVec.toNat_not]

theorem popcN_toNat : popcN x.toNat = (List.range 64).countP (fun j => x.getLsbD j) := by
  rw [popcN, List.countP_eq_length_filter]
  simp only [bit_eq_testBit, BitVec.testBit_toNat]

end words

theorem issue_bins {s : State} {d a b : CR} (hc : s.calm) (hu : s.unbound [d, a, b]) : exec (.bins d a b) s =
    .next (s.went 4 (fun t => t.setReg d.val (word64 (.ofNat 64 (binsN (s.low d).toNat (s.low a).toNat (s.low b).toNat))))) := by
  refine issue_setReg (v := plain (binsN (s.low d).toNat (s.low a).toNat (s.low b).toNat)) hc ?_ (plain_eq_word64 _)
  have hdirs := run_dirs (rs := [a, b, d]) (ws := [d]) hu (by simp) (by simp)
  simp only [Act.run_bind, hdirs, src_unbound (hu a (by simp)), src_unbound (hu b (by simp)), src_unbound (hu d (by simp)),
    dst_unbound (hu d (by simp)), CReg.lo_reg]

/-- An operation on one register writes the word of its number. -/
theorem issue_op2_ofNat {s : State} {d a : CR} (f : Nat → Nat) (hc : s.calm) (hu : s.unbound [d, a]) :
    issue_ 4 (op2 d a f) s = .next (s.went 4 (fun t => t.setReg d.val (word64 (.ofNat 64 (f (s.low a).toNat))))) := by
  rw [issue_op2 hc hu, CReg.lo_reg, plain_eq_word64]

/-- An operation on two registers writes the word of its number. -/
theorem issue_op3_ofNat {s : State} {d a b : CR} (f : Nat → Nat → Nat) (hc : s.calm) (hu : s.unbound [d, a, b]) :
    issue_ 4 (op3 d a b f) s =
      .next (s.went 4 (fun t => t.setReg d.val (word64 (.ofNat 64 (f (s.low a).toNat (s.low b).toNat))))) := by
  rw [issue_op3 hc hu, CReg.lo_reg, CReg.lo_reg, plain_eq_word64]

/-- Settles O8: each function on numbers is read bit by bit. -/
theorem bitOperationsResults : Obligations.BitOperationsResults := by
  unfold Obligations.BitOperationsResults
  intro s d a b hc hu x y pos n gives
  have hda : s.unbound [d, a] := State.unbound_subset hu (by simp)
  have hpos : bitsAt y.toNat 0 6 = pos := bitsAt_toNat y 0 6
  have hn : bfLen y.toNat = n := by rw [bfLen, hpos, bitsAt_toNat]
  refine ⟨⟨clzN x.toNat 64, issue_op2_ofNat _ hc hda, clzN_le _ _, ?clzZeros, testBit_clzN _ _⟩,
    ⟨ctzN x.toNat 0 64, issue_op2_ofNat _ hc hda, ctzN_le _ _ _, ?ctzZeros, ?ctzOne⟩, ?popc,
    ⟨_, issue_op2_ofNat _ hc hda, ?brev⟩, ⟨_, issue_op2_ofNat _ hc hda, ?bswap⟩, ⟨_, issue_op3_ofNat _ hc hu, ?bext⟩,
    ⟨_, issue_bins hc hu, ?bins⟩, issue_op3_word64 hc hu (toNat_andn_eq _ _)⟩
  case clzZeros =>
    intro j hj
    by_cases h : j < 64
    · exact testBit_of_clzN _ 64 hj h
    · exact BitVec.getLsbD_of_ge _ _ (by omega)
  case ctzZeros =>
    intro j hj
    simpa only [Nat.zero_add, BitVec.testBit_toNat] using testBit_of_ctzN x.toNat 0 64 hj
  case ctzOne =>
    intro h
    simpa only [Nat.zero_add, BitVec.testBit_toNat] using testBit_ctzN x.toNat 0 64 h
  case popc =>
    have h := issue_op2_ofNat popcN hc hda
    rwa [popcN_toNat] at h
  case brev =>
    intro j hj
    rw [getLsbD_ofNat_of_lt _ hj, testBit_brevN _ hj, BitVec.testBit_toNat]
  case bswap => exact fun j hj => extractLsb'_bswapN x hj
  case bext =>
    intro j hj
    rw [getLsbD_ofNat_of_lt _ hj, testBit_bextN, hn, hpos]
  case bins =>
    intro j hj
    rw [getLsbD_ofNat_of_lt _ hj, testBit_binsN, hn, hpos]

end Sys2Proof.Machine

/-! PROOF. What freezing a strand leaves of the slots (R317, R319, R397). -/

namespace Sys2Proof.Machine

/-! ### States with the same strands -/

/-- Whether a BREAK in the cluster fires its cross-trigger (R337). -/
def Cluster.breaks (k : Cluster) : Bool := k.arm && k.onBreak

/-- The second state has the slots of the first, and its clusters break as those of the first do. -/
structure State.KeepsStrands (s t : State) : Prop where
  slotAt_eq : ∀ c i, t.slotAt c i = s.slotAt c i
  breaks_eq : ∀ k, (t.clusterAt k).breaks = (s.clusterAt k).breaks

namespace State.KeepsStrands
variable {s t u : State}

theorem refl (s : State) : s.KeepsStrands s := ⟨fun _ _ => rfl, fun _ => rfl⟩

theorem trans (h : s.KeepsStrands t) (h' : t.KeepsStrands u) : s.KeepsStrands u :=
  ⟨fun c i => (h'.slotAt_eq c i).trans (h.slotAt_eq c i), fun k => (h'.breaks_eq k).trans (h.breaks_eq k)⟩

theorem of_cores (h : t.cores = s.cores) (h' : t.clusters = s.clusters) : s.KeepsStrands t :=
  ⟨fun c i => by simp only [State.slotAt, State.coreAt, h], fun k => by simp only [State.clusterAt, h']⟩

theorem modCore (s : State) (c : Nat) {f : Core → Core} (h : ∀ k, (f k).slots = k.slots) : s.KeepsStrands (s.modCore c f) := by
  refine ⟨fun d i => ?_, fun k => rfl⟩
  by_cases hd : d = c
  · subst hd
    simp only [State.slotAt, State.coreAt_modCore, Core.slotAt, h]
  · simp only [State.slotAt, State.modCore, State.coreAt_setCore_ne _ _ hd]

theorem foldl {α : Type} {f : State → α → State} (h : ∀ (s : State) x, s.KeepsStrands (f s x)) (l : List α) (s : State) :
    s.KeepsStrands (l.foldl f s) := by
  induction l generalizing s with
  | nil => exact refl s
  | cons x l ih => exact (h s x).trans (ih _)

/-- A change of every core that keeps its slots. -/
theorem mapCores {f : Nat × Core → Core} (h : ∀ p, (f p).slots = p.2.slots) (ht : t.cores = s.cores.map (fun p => (p.1, f p)))
    (h' : t.clusters = s.clusters) : s.KeepsStrands t := by
  refine ⟨fun c i => ?_, fun k => by simp only [State.clusterAt, h']⟩
  have hlook (l : Tab Core) : (lookT (l.map (fun p => (p.1, f p))) c).map Core.slots = (lookT l c).map Core.slots := by
    induction l with
    | nil => rfl
    | cons p l ih =>
      obtain ⟨j, k⟩ := p
      by_cases hj : j = c
      · simp [lookT, hj, h]
      · simpa [lookT, hj] using ih
  have := hlook s.cores
  simp only [State.slotAt, State.coreAt, Core.slotAt, ht]
  cases h1 : lookT s.cores c <;> cases h2 : lookT (s.cores.map (fun p => (p.1, f p))) c <;> simp_all

end State.KeepsStrands

section reports
variable (s : State)

theorem State.keepsStrands_countLoss (core asid num n : Nat) : s.KeepsStrands (s.countLoss core asid num n) := by
  unfold State.countLoss
  split <;> exact .of_cores rfl rfl

theorem State.keepsStrands_countLost (ls : List L1Line) : s.KeepsStrands (s.countLost ls) :=
  .foldl (fun s l => by dsimp only; split; exacts [s.keepsStrands_countLoss .., .refl s]) ls s

theorem State.keepsStrands_syncLines (c a n : Nat) : s.KeepsStrands (s.syncLines c a n) :=
  by
  unfold State.syncLines
  exact .trans (.modCore s c (by intro _; rfl)) (State.keepsStrands_countLost ..)

theorem State.keepsStrands_writeLevel (a : Nat) (bs : List Byte) : s.KeepsStrands (s.writeLevel a bs) := by
  unfold State.writeLevel State.clearTags
  split <;> exact .of_cores rfl rfl

theorem State.keepsStrands_reportWrite (o a : Nat) (bs : List Byte) : s.KeepsStrands (s.reportWrite o a bs) := by
  have hwrite : s.KeepsStrands ((s.writeLevel a bs).syncLines (s.objAt o).ownCore a bs.length) :=
    (s.keepsStrands_writeLevel a bs).trans (State.keepsStrands_syncLines ..)
  unfold State.reportWrite
  dsimp only
  split
  · exact hwrite.trans (.foldl (by intro _ _; exact .of_cores rfl rfl) _ _)
  · exact hwrite

theorem State.keepsStrands_appendReport (cap : CReg) (rec : List Word) : s.KeepsStrands (s.appendReport cap rec).1 := by
  unfold State.appendReport
  dsimp only
  repeat' split
  all_goals dsimp only
  case isTrue => exact .refl s
  case h_1 => exact .refl s
  · exact s.keepsStrands_reportWrite ..
  · exact .refl s
  · exact (s.keepsStrands_reportWrite ..).trans (State.keepsStrands_reportWrite ..)

/-- A change of a cluster that leaves its break setting. -/
theorem State.keepsStrands_modCluster (c : Nat) {f : Cluster → Cluster} (h : ∀ k, (f k).breaks = k.breaks) :
    s.KeepsStrands (s.modCluster c f) := by
  refine ⟨fun _ _ => rfl, fun k => ?_⟩
  by_cases hk : k = c
  · subst hk
    simp only [State.modCluster, State.clusterAt, lookT_putT, Option.getD_some, h]
  · simp only [State.modCluster, State.clusterAt, lookT_putT_ne _ _ hk]

theorem State.keepsStrands_traceOwn (cls part core : Nat) (r : TraceRec) : s.KeepsStrands (s.traceOwn cls part core r) := by
  unfold State.traceOwn
  split
  · split
    · exact .refl s
    · split
      · exact s.keepsStrands_appendReport ..
      · exact s.keepsStrands_modCluster _ (by intro _; rfl)
  · exact .refl s

theorem State.keepsStrands_ringPut (r : TraceRec) : s.KeepsStrands (s.ringPut r) :=
  .of_cores (by rw [State.ringPut]) (by rw [State.ringPut])

theorem State.keepsStrands_traceOp (cls part core : Nat) (r : TraceRec) : s.KeepsStrands (s.traceOp cls part core r) := by
  unfold State.traceOp
  split
  · dsimp only
    split
    · exact .of_cores rfl rfl
    · split
      · exact s.keepsStrands_ringPut _
      · exact .refl s
  · exact .refl s

theorem State.keepsStrands_trace (cls part core slot asid pc detail : Nat) :
    s.KeepsStrands (s.trace cls part core slot asid pc detail) :=
  (s.keepsStrands_traceOwn ..).trans (State.keepsStrands_traceOp ..)

theorem State.keepsStrands_send_ (m : Msg) : s.KeepsStrands (s.send_ m) := by
  unfold State.send_
  split <;> exact .of_cores rfl rfl

theorem State.keepsStrands_toSupervisor (part core : Nat) (dw rec : List Word) :
    s.KeepsStrands (s.toSupervisor part core dw rec) := by
  unfold State.toSupervisor
  split
  · exact .of_cores rfl rfl
  · exact s.keepsStrands_send_ _

theorem State.keepsStrands_sendPacket (part to_ core : Nat) (dw rec : List Word) :
    s.KeepsStrands (s.sendPacket part to_ core dw rec) := by
  have hcopy : s.KeepsStrands (s.modPart part (fun p =>
      { p with faults := (p.faults ++ [s.operatorCopy part dw rec]).drop (p.faults.length + 1 - 64) })) := .of_cores rfl rfl
  unfold State.sendPacket
  dsimp only
  split
  · exact hcopy.trans (.of_cores rfl rfl)
  · exact hcopy.trans (State.keepsStrands_toSupervisor ..)

end reports

/-! ### A strand that freezes -/

/-- A strand that has frozen with a fault code (R317). -/
def Slot.frozenBy (t : Slot) (code : Nat) : Slot := { t with state := .frozen, lastCode := code, again := false }

@[simp] theorem Slot.frozenBy_pend (t : Slot) (code : Nat) : (t.frozenBy code).pend = t.pend := rfl

@[simp] theorem Slot.frozenBy_pair (t : Slot) (code : Nat) : (t.frozenBy code).pair = t.pair := rfl

/-- No BREAK of this fault fires the cross-trigger of the core's cluster (R337). -/
def State.noTrigger (s : State) (c code : Nat) : Prop := code = 0x18 → (s.clusterAt (clusterOf c)).breaks = false

theorem State.afterFreeze_noTrigger {s : State} {c code : Nat} (h : s.noTrigger c code) : s.afterFreeze c code = s := by
  unfold State.afterFreeze
  dsimp only
  rw [if_neg]
  rintro ⟨hcode, harm, hbreak⟩
  simpa [Cluster.breaks, harm, hbreak] using h hcode

/-- A strand in no pair freezes, and no other slot changes. -/
theorem State.keepsStrands_freezeAt {s : State} {c i : Nat} {f : FaultInfo} (hpair : (s.slotAt c i).pair = 0)
    (htrig : s.noTrigger c f.code) :
    (s.modSlot c i (fun t => t.frozenBy (f.code % 256))).KeepsStrands (s.freezeAt c i f) := by
  have hstop : (s.modSlot c i (fun t => t.frozenBy (f.code % 256))).KeepsStrands
      ((s.stopAt c i f.code).sendStrandPacket c i f (s.strandPacket c i false f)) :=
    .trans (State.keepsStrands_trace ..) (State.keepsStrands_sendPacket ..)
  have hquiet : ((s.stopAt c i f.code).sendStrandPacket c i f (s.strandPacket c i false f)).noTrigger c f.code :=
    fun hcode => (hstop.breaks_eq _).trans (htrig hcode)
  have hfreeze : s.freezeAt c i f = ((s.stopAt c i f.code).sendStrandPacket c i f (s.strandPacket c i false f)) := by
    rw [← State.afterFreeze_noTrigger hquiet]
    unfold State.freezeAt
    simp [hpair]
  rw [hfreeze]
  exact hstop

/-- The slot of a strand in no pair after its freeze (R317). -/
theorem State.slotAt_freezeAt {s : State} {c i : Nat} {f : FaultInfo} (hpair : (s.slotAt c i).pair = 0)
    (htrig : s.noTrigger c f.code) : (s.freezeAt c i f).slotAt c i = (s.slotAt c i).frozenBy (f.code % 256) := by
  rw [(State.keepsStrands_freezeAt hpair htrig).slotAt_eq, State.slotAt_modSlot]

/-- An instruction of a strand in no pair that faults freezes it, and nothing waits at its boundary. -/
theorem issue_freezes {s : State} {n : Nat} {act : Act Flow} {f : FaultInfo} (hc : s.calm) (ha : s.alone)
    (htrig : s.noTrigger s.core f.code) (hr : act.run ⟨s, s, []⟩ = .error (.freeze f)) : issue n act s = .next (s.freeze f) := by
  obtain ⟨hready, hpend, -⟩ := hc
  rw [issue_freeze hready hr, State.boundary_none]
  rw [State.freeze, State.slotAt_freezeAt ha htrig, Slot.frozenBy_pend]
  exact hpend

/-! ### Flows of an instruction that goes elsewhere -/

/-- Retirement at another pc (R113). -/
theorem State.retire_jump {s : State} {len pc : Nat} (hv : s.cur.state ≠ .vacant) (hp : s.cur.pend = .none) :
    s.retire len (.jump pc) =
      s.modCur (fun t => { t.setPc pc with retired := t.retired + 1, insn := 0, again := false }) := by
  unfold State.retire
  rw [if_neg hv]
  refine State.boundary_cur ?_
  rw [State.cur_modCur]
  simp only [Slot.setPc_pend, hp]

/-- An action that changes its own slot and branches. -/
theorem issue_jumped {s : State} {n pc : Nat} {act : Act Flow} {f : Slot → Slot} {ps : Tab CReg} (h : s.calm)
    (hr : act.run ⟨s, s, []⟩ = .ok (.jump pc, ⟨s, s.modCur f, ps⟩)) (hstate : (f s.cur).state = s.cur.state)
    (hpend : (f s.cur).pend = s.cur.pend) : issue n act s = .next (s.jumped pc f) := by
  obtain ⟨hready, hnone, -⟩ := h
  rw [issue_ok hready hr, State.retire_jump (by rw [State.cur_modCur, hstate, hready]; decide)
    (by rw [State.cur_modCur, hpend, hnone]), State.modCur_modCur]
  rfl

/-- An action that does nothing but branch. -/
theorem issue_jumped_only {s : State} {n pc : Nat} {act : Act Flow} {ps : Tab CReg} (h : s.calm)
    (hr : act.run ⟨s, s, []⟩ = .ok (.jump pc, ⟨s, s, ps⟩)) : issue n act s = .next (s.jumped pc (fun t => t)) := by
  obtain ⟨hready, hnone, -⟩ := h
  rw [issue_ok hready hr, State.retire_jump (by rw [hready]; decide) hnone]
  rfl

/-- An action that does nothing and goes on. -/
theorem issue_went_only {s : State} {n : Nat} {act : Act Flow} {ps : Tab CReg} (h : s.calm)
    (hr : act.run ⟨s, s, []⟩ = .ok (.next, ⟨s, s, ps⟩)) : issue n act s = .next (s.went n (fun t => t)) := by
  obtain ⟨hready, hnone, hreplay⟩ := h
  rw [issue_ok hready hr, State.retire_next (by rw [hready]; decide) hnone hreplay]
  rfl

/-! ### Branches (R113) -/

/-- Where a branch goes: on, to its target, or to a fault (R113). -/
def State.branchesTo (s : State) (taken : Bool) (off : Int) : Except FaultInfo Flow :=
  let x : Int := s.cur.pc + 2 * off
  if taken = false then .ok .next
  else if 0 ≤ x ∧ x + 2 ≤ (s.objAt (objOf s.cur.code)).length then .ok (.jump x.toNat)
  else .error { code := 0x04, arg := 5, addr := (x % 2 ^ 48).toNat }

/-- An action that ends in a flow, with the state so far, or in a fault. -/
def endsWith (s0 s : State) (ps : Tab CReg) : Except FaultInfo Flow → Except Stop (Flow × Ctx)
  | .ok x => .ok (x, ⟨s0, s, ps⟩)
  | .error f => .error (.freeze f)

theorem run_branchIf (s0 s : State) (ps : Tab CReg) (taken : Bool) (off : Int) :
    (branchIf taken off).run ⟨s0, s, ps⟩ = endsWith s0 s ps (s.branchesTo taken off) := by
  cases taken with
  | false => rfl
  | true =>
    simp only [branchIf, if_true, branchTo, Act.run_bind, Act.run_getS, State.branchesTo, Bool.true_eq_false, if_false, Act.run_ite]
    generalize (s.cur.pc : Int) + 2 * off = x
    by_cases h : 0 ≤ x ∧ x + 2 ≤ (s.objAt (objOf s.cur.code)).length
    · rw [if_pos h, if_neg (by omega)]
      rfl
    · rw [if_neg h, if_pos (by omega)]
      rfl

/-- What follows a flow that it leaves as it is. -/
theorem run_bind_endsWith {x : Act Flow} {k : Flow → Act Flow} {c : Ctx} {s0 s s' : State} {ps : Tab CReg} {r : Except FaultInfo Flow}
    (hx : x.run c = endsWith s0 s ps r) (hk : ∀ y, (k y).run ⟨s0, s, ps⟩ = .ok (y, ⟨s0, s', ps⟩)) :
    (x >>= k).run c = endsWith s0 s' ps r := by
  rw [Act.run_bind, hx]
  cases r with
  | ok y => exact hk y
  | error f => rfl

section branches
variable {s : State} {n : Nat} {act : Act Flow} {taken : Bool} {off : Int} {f : Slot → Slot}

/-- An action that ends in a branch, with nothing else done. -/
theorem issue_branched_only (hc : s.calm) (ha : s.alone) (hr : act.run ⟨s, s, []⟩ = endsWith s s [] (s.branchesTo taken off)) :
    issue n act s = .next (s.branched n taken off (fun t => t)) := by
  simp only [State.branchesTo] at hr
  simp only [State.branched]
  split
  · next h => exact issue_went_only hc (by rw [hr, if_pos h]; rfl)
  · next h =>
    rw [if_neg h] at hr
    split
    · next h' => exact issue_jumped_only hc (by rw [hr, if_pos h']; rfl)
    · next h' => exact issue_freezes hc ha (by rintro ⟨⟩) (by rw [hr, if_neg h']; rfl)

/-- An action that ends in a branch and has changed its own slot, unless it faults. -/
theorem issue_branched (hc : s.calm) (ha : s.alone) (hr : act.run ⟨s, s, []⟩ = endsWith s (s.modCur f) [] (s.branchesTo taken off))
    (hstate : (f s.cur).state = s.cur.state) (hpend : (f s.cur).pend = s.cur.pend) :
    issue n act s = .next (s.branched n taken off f) := by
  simp only [State.branchesTo] at hr
  simp only [State.branched]
  split
  · next h => exact issue_next_went hc (by rw [hr, if_pos h]; rfl) hstate hpend
  · next h =>
    rw [if_neg h] at hr
    split
    · next h' => exact issue_jumped hc (by rw [hr, if_pos h']; rfl) hstate hpend
    · next h' => exact issue_freezes hc ha (by rintro ⟨⟩) (by rw [hr, if_neg h']; rfl)

end branches

/-- The conditions of R49 against zero are those on words. -/
theorem condZHolds_toNat (c : CondZ) (x : BitVec 64) : condZHolds c x.toNat = condOnZero c x := by
  have hzero : (x.toNat == 0) = (x == 0) := by
    rw [Bool.beq_eq_decide_eq, Bool.beq_eq_decide_eq, decide_eq_decide]
    exact BitVec.toNat_inj (y := 0)
  have hneg : decide (x.toInt < 0) = x.slt 0 := rfl
  have hpos : decide (0 < x.toInt) = (0 : BitVec 64).slt x := rfl
  cases c with
  | eqz => exact hzero
  | nez => exact congrArg not hzero
  | ltz => rw [condZHolds, sintN_toNat, hneg]; rfl
  | gez => rw [condZHolds, sintN_toNat, condOnZero, ← hneg, ← decide_not, decide_eq_decide, Int.not_lt]
  | gtz => rw [condZHolds, sintN_toNat, hpos]; rfl
  | lez => rw [condZHolds, sintN_toNat, condOnZero, ← hpos, ← decide_not, decide_eq_decide, Int.not_lt]

theorem run_branchZ {s : State} {a : CR} {c : CondZ} {off : Int} (hu : s.unbound [a]) :
    (branchZ a c off).run ⟨s, s, []⟩ = endsWith s s [] (s.branchesTo (condOnZero c (s.low a)) off) := by
  have hdirs := run_dirs (rs := [a]) (ws := []) hu (by simp) (by simp)
  simp only [branchZ, Act.run_bind, hdirs, src_unbound (hu a (by simp)), CReg.lo_reg, condZHolds_toNat, run_branchIf]

theorem run_bcc {s : State} {a b : CR} {c : Cond} {off : Int} (hu : s.unbound [a, b]) :
    (do dirs [a, b] []
        let x ← src a
        let y ← src b
        branchIf (condHolds c x.lo y.lo) off : Act Flow).run ⟨s, s, []⟩ =
      endsWith s s [] (s.branchesTo (condOn c (s.low a) (s.low b)) off) := by
  have hdirs := run_dirs (rs := [a, b]) (ws := []) hu (by simp) (by simp)
  simp only [Act.run_bind, hdirs, src_unbound (hu a (by simp)), src_unbound (hu b (by simp)), CReg.lo_reg, condHolds_toNat,
    run_branchIf]

/-- The link of `bl` and `brl` (R114, R116). -/
theorem linkOf_eq (t : Slot) (n : Nat) : linkOf t n = ⟨t.code.val.extractLsb' 48 80 ++ BitVec.ofNat 48 (t.pc + n), true⟩ := by
  have hmod : BitVec.ofNat 48 ((t.pc + n) % 2 ^ 48) = BitVec.ofNat 48 (t.pc + n) := by
    refine BitVec.eq_of_toNat_eq ?_
    rw [BitVec.toNat_ofNat, BitVec.toNat_ofNat, Nat.mod_mod]
  rw [linkOf, withPc, hmod]

theorem run_bl (s : State) (off : Int) : (do
      let x ← branchTo off
      setRaw 31 (linkOf (← me) 4)
      return x : Act Flow).run ⟨s, s, []⟩ =
    endsWith s (s.modCur fun t => t.setReg 31 (linkOf s.cur 4)) [] (s.branchesTo true off) :=
  run_bind_endsWith (run_branchIf s s [] true off) (fun _ => rfl)

theorem run_dbnz {s : State} {a : CR} {off : Int} (hu : s.unbound [a]) : (do
      dirs [a] [a]
      let v ← src a
      let x := bitsN ((v.lo : Int) - 1) 64
      let f ← branchIf (x != 0) off
      dst a (plain x)
      return f : Act Flow).run ⟨s, s, []⟩ =
    endsWith s (s.modCur fun t => t.setReg a.val (word64 (s.low a - 1))) [] (s.branchesTo (s.low a - 1 != 0) off) := by
  have hdirs := run_dirs (rs := [a]) (ws := [a]) hu (by simp) (by simp)
  have hcount : (s.low a - 1).toNat = bitsN (((s.low a).toNat : Int) - 1) 64 := by unfold bitsN; bv_omega
  have htaken : ((s.low a - 1).toNat != 0) = (s.low a - 1 != 0) := by
    refine congrArg not ?_
    rw [Bool.beq_eq_decide_eq, Bool.beq_eq_decide_eq, decide_eq_decide]
    exact BitVec.toNat_inj (y := 0)
  rw [Act.run_bind, hdirs]
  dsimp only
  rw [Act.run_bind, src_unbound (hu a (by simp))]
  simp only [CReg.lo_reg, ← hcount, htaken]
  refine run_bind_endsWith (run_branchIf s s [] _ off) fun y => ?_
  simp only [Act.run_bind, dst_unbound (hu a (by simp)), plain_eq_of_toNat rfl, Act.run_pure]

/-- Settles O10: each form runs down to `branchIf` on its condition, which goes on, jumps or faults. -/
theorem branchesFollowTheirOffsets : Obligations.BranchesFollowTheirOffsets := by
  unfold Obligations.BranchesFollowTheirOffsets
  intro s a b c z k25 k17 k12 k11 k8 r hc ha hu link count
  have hab : s.unbound [a, b] := State.unbound_subset hu (by simp)
  have hua : s.unbound [a] := State.unbound_subset hu (by simp)
  have hur : s.unbound [cr3 r] := State.unbound_subset hu (by simp)
  refine ⟨issue_branched_only hc ha (run_branchIf s s [] true _), issue_branched hc ha ?bl rfl rfl,
    issue_branched_only hc ha (run_bcc hab), issue_branched_only hc ha (run_branchZ hua),
    issue_branched hc ha (run_dbnz hua) (Slot.setReg_state ..) (Slot.setReg_pend ..),
    issue_branched_only hc ha (run_branchIf s s [] true _), issue_branched_only hc ha (run_branchZ hur),
    issue_branched_only hc ha (run_branchZ hur)⟩
  case bl =>
    have hrun := run_bl s k25.toInt
    rwa [linkOf_eq] at hrun

/-! ### addpc (R111) -/

theorem Slot.ofNat_pc (t : Slot) : BitVec.ofNat 48 t.pc = t.code.val.setWidth 48 := by
  refine BitVec.eq_of_toNat_eq ?_
  rw [BitVec.toNat_ofNat, BitVec.toNat_setWidth, Slot.pc, bitsAt, pow_zero, Nat.div_one, Nat.mod_mod]

/-- The CURSOR that `addpc` gives is pc + 2 × k in 48 bits. -/
theorem ofNat_bitsN_addpc (t : Slot) (k : BitVec 15) : BitVec.ofNat 48 (bitsN (t.pc + 2 * k.toInt) 48) =
    t.code.val.setWidth 48 + k.signExtend 48 + k.signExtend 48 := by
  rw [bitsN_eq_toNat, BitVec.ofNat_toNat, BitVec.setWidth_eq, BitVec.ofInt_add, BitVec.ofInt_natCast, Slot.ofNat_pc, two_mul,
    BitVec.ofInt_add, BitVec.add_assoc]
  rfl

/-- Settles O12: the CURSOR of the derived capability is a sum in 48 bits, and c0 as destination is ILLEGAL. -/
theorem codeAddressIsDerived : Obligations.CodeAddressIsDerived := by
  unfold Obligations.CodeAddressIsDerived
  intro s d k hc ha hu
  have hdirs := run_dirs (rs := []) (ws := [d]) hu (by simp) (by simp)
  refine ⟨fun hd => ?derives, fun hd => ?illegal⟩
  case derives =>
    refine issue_went (ps := []) hc ?_ (Slot.setReg_state ..) (Slot.setReg_pend ..)
    simp only [if_neg hd, Act.run_bind, hdirs, Act.run_me, dst_unbound (hu d (by simp)), withPc, ofNat_bitsN_addpc]
    rw [State.modCur_congr]
    rfl
  case illegal =>
    refine issue_freezes hc ha (by rintro ⟨⟩) ?_
    simp only [if_pos hd, Act.run_bind, Act.run_illegal]
    rfl

/-! ### Remote regions (R123 to R128) -/

@[simp] theorem State.setSlot_setSlot (s : State) (c i : Nat) (t u : Slot) : (s.setSlot c i t).setSlot c i u = s.setSlot c i u := by
  simp only [State.setSlot, State.modCore, State.setCore, State.coreAt, lookT_putT, Option.getD_some, Core.setSlot, putT_putT]

theorem State.modSlot_setSlot (s : State) (c i : Nat) (t : Slot) (f : Slot → Slot) :
    (s.setSlot c i t).modSlot c i f = s.setSlot c i (f t) := by
  rw [State.modSlot, State.slotAt_setSlot, State.setSlot_setSlot]

theorem State.drain_of_no_stores {s : State} {c i : Nat} (h : (s.slotAt c i).sbuf = []) : s.drain c i = s := by
  rw [State.drain, h]; rfl

/-- A strand back at the start of its region, at the failure target, with an error word in E (R126). -/
def Slot.rolledBack (t : Slot) (r : Region) (err : CReg) : Slot :=
  ({ t with c := if r.e = 0 then r.c else putT r.c r.e err, p := r.p, code := r.code, fpmode := r.fpmode, fpflags := r.fpflags,
            seed := r.seed, region := none, state := .ready, retired := t.retired + 1, insn := 0, again := false } : Slot).setPc
    r.target.toNat

/-- The failure target of a region lies inside the code object that began it (R124). -/
def State.targetInside (s : State) (r : Region) : Prop :=
  0 ≤ r.target ∧ r.target + 2 ≤ (s.objAt (objOf r.code)).length

section rollback
variable {s : State} {c i code dev : Nat} {r : Region}

/-- A failure other than NO_REPLY of a strand in no pair changes its slot alone (R126). -/
theorem State.failRegionAt_rollsBack (hr : (s.slotAt c i).region = some r) (hpair : (s.slotAt c i).pair = 0) (hcode : code ≠ 1)
    (hin : s.targetInside r) : s.failRegionAt c i code dev =
      s.modSlot c i (fun t => t.rolledBack r (plain (field dev 16 16 + field code 0 8))) := by
  have hlead : ¬((s.slotAt c i).pair = 1 ∧ code ≤ 4) := by rw [hpair]; omega
  have htrail : ¬((s.slotAt c i).pair = 2 ∧ code ≤ 4) := by rw [hpair]; omega
  have hreply : ¬(code = 1 ∧ (s.slotAt c i).pair ≠ 2) := fun h => hcode h.1
  unfold State.failRegionAt
  simp only [hr]
  rw [if_neg hlead, if_neg htrail, if_neg hreply]
  exact (if_pos hin).trans (State.modSlot_setSlot ..)

end rollback

/-- An action that fails the open region rolls the strand back (R126). -/
theorem issue_region {s : State} {n code dev : Nat} {act : Act Flow} {r : Region} (hc : s.calm) (ha : s.alone) (hr : s.cur.region = some r)
    (hcode : code ≠ 1) (hin : s.targetInside r) (hrun : act.run ⟨s, s, []⟩ = .error (.region code dev)) :
    issue n act s = .next (s.modCur (fun t => t.rolledBack r (plain (field dev 16 16 + field code 0 8)))) := by
  obtain ⟨hready, hpend, -⟩ := hc
  simp only [issue, if_pos hready, hrun]
  rw [State.failRegionAt_rollsBack hr ha hcode hin, State.boundary_none]
  · rfl
  · rw [State.slotAt_modSlot]
    exact hpend

/-- Settles O16: outside a region the three act on their own slot alone; inside one, `rmt.commit` finds no destination to wait
for, and `rmt.abort` fails the region with code 7. -/
theorem remoteRegionsOpenAndClose : Obligations.RemoteRegionsOpenAndClose := by
  unfold Obligations.RemoteRegionsOpenAndClose
  intro s e k hc ha hu
  have hdirs := run_dirs (rs := []) (ws := [e]) hu (by simp) (by simp)
  have hue := hu e (by simp)
  refine ⟨fun hr => ⟨?begin, ?commit, ?abort⟩, fun r hr => ⟨fun hbuf hopen hsbuf howes => ?close, fun hlo hhi => ?rollback⟩⟩
  case begin =>
    refine issue_went (ps := []) hc ?_ (Slot.setReg_state ..) (Slot.setReg_pend ..)
    simp only [Act.run_bind, hdirs, Act.run_me, hr, Option.isSome_none, Bool.false_eq_true, if_false, Act.run_modS]
    rw [dst_unbound (by rw [State.cur_modCur]; exact hue), State.modCur_modCur]
    rfl
  case commit =>
    refine issue_next_went hc (ps := []) ?_ (Slot.setReg_state ..) (Slot.setReg_pend ..)
    simp only [Act.run_bind, hdirs, Act.run_me, hr, dst_unbound hue, Act.run_pure]
    rfl
  case abort =>
    refine issue_went_only (ps := []) hc ?_
    simp only [Act.run_bind, Act.run_me, hr, Option.isSome_none, Bool.false_eq_true, if_false, Act.run_pure]
  case close =>
    refine issue_next_went hc (ps := []) ?_ (Slot.setReg_state ..) (Slot.setReg_pend ..)
    have halone : s.cur.pair = 0 := ha
    have hdests : destinations r = [] := by rw [destinations, hbuf]; rfl
    simp only [Act.run_bind, hdirs, Act.run_me, hr, hopen, Act.run_pure, hdests, effect, Act.run_getS, halone, if_true, awaitRemote,
      howes, Bool.and_false, Bool.not_false, Act.run_until_true, Act.run_modS, State.drain_of_no_stores hsbuf, List.foldl_nil,
      Act.run_putS, List.isEmpty_nil]
    rw [dst_unbound (by simp only [State.cur_modCur]; exact hue), State.modCur_modCur, State.modCur_modCur, plain_eq_word64]
    rfl
  case rollback =>
    have herr : plain (field 0 16 16 + field 7 0 8) = word64 7 := by rw [plain_eq_word64]; rfl
    have hrun := issue_region (n := 4) hc ha hr (code := 7) (dev := 0) (act := do (do if (← me).region.isSome then throw (.region 7 0)); return .next)
      (by decide) ⟨hlo, hhi⟩ (by simp only [Act.run_bind, Act.run_me, hr, Option.isSome_some, if_true, Act.run_throw])
    rw [herr] at hrun
    exact hrun

end Sys2Proof.Machine

/-! PROOF. The end of a strand (R119, R298), and the instructions that move or stop one (R118, R120). -/

namespace Sys2Proof.Machine

/-! ### Domains -/

theorem lookT_mapT {α : Type} (t : Tab α) (k : Nat) (f : α → α) : lookT (mapT t k f) k = (lookT t k).map f := by
  unfold mapT
  cases h : lookT t k with
  | none => exact h
  | some x => exact lookT_putT t k (f x)

theorem State.domAt_modDom {s : State} {c asid : Nat} (f : Domain → Domain) (h : s.hasDom c asid = true) :
    (s.modDom c asid f).domAt c asid = f (s.domAt c asid) := by
  obtain ⟨d, hd⟩ := Option.isSome_iff_exists.mp h
  simp only [State.domAt, State.modDom, lookT_mapT, hd, Option.map_some, Option.getD_some]

/-! ### A strand leaves its slot (R119) -/

/-- A strand that holds no assist frame leaves its slot vacant and scrubbed. -/
theorem State.slotAt_vacate {s : State} {c i : Nat} (h : (s.slotAt c i).frame = none) :
    (s.vacate c i).slotAt c i = (s.slotAt c i).emptied := by
  simp only [State.vacate, State.dropFrame, h]
  rw [State.slotAt_modSlot]
  refine congrArg Slot.emptied ?_
  exact (State.KeepsStrands.modCore _ c (by intro _; rfl)).slotAt_eq c i

/-- The strand that leaves notes its clock in its domain, whose handles stay. -/
theorem State.handles_vacate {s : State} {c i : Nat} (h : (s.slotAt c i).frame = none) (hd : s.hasDom c (s.slotAt c i).asid = true) :
    ((s.vacate c i).domAt c (s.slotAt c i).asid).handles = (s.domAt c (s.slotAt c i).asid).handles := by
  have hnote := State.domAt_modDom (fun d => { d with starts := putT d.starts i (clkAt (s.slotAt c i).clock i + 1) }) hd
  simp only [State.vacate, State.dropFrame, h]
  exact (congrArg Domain.handles hnote :)

/-- A release below system scope of a strand with nothing to write back orders its host lines, and does nothing else (R247). -/
theorem State.releaseAll_idle {s : State} {c i : Nat} {sc : Scope} (hsbuf : (s.slotAt c i).sbuf = []) (hwrote : (s.slotAt c i).wrote = [])
    (hsc : sc ≠ .system) : let t := s.releaseAll c i sc
    t.slotAt c i = { s.slotAt c i with wrote := [] } ∧ t.core = s.core ∧ t.slot = s.slot ∧ t.domains = s.domains := by
  have hcur := State.slotAt_modSlot s c i (fun t => { t with wrote := [] })
  simp only [State.releaseAll, State.drain_of_no_stores hsbuf, hwrote, List.foldl_nil, if_neg hsc]
  exact ⟨hcur, rfl, rfl, rfl⟩

theorem State.tickAt_alone {s : State} {c i : Nat} (h : (s.slotAt c i).pair = 0) :
    s.tickAt c i = s.modSlot c i (fun t => { t with clock := setL t.clock i (clkAt t.clock i + 1) }) := by
  simp [State.tickAt, State.modClock, h]

/-- The handle of a helper that ends has its result (R119, R156). -/
theorem State.exists_ended_endHandle {s : State} {c asid : Nat} {r : CReg} {x : Carried} {h : Handle} (hd : s.hasDom c asid = true)
    (hh : h ∈ (s.domAt c asid).handles) :
    ∃ g ∈ ((s.endHandle c asid h.serial r x).domAt c asid).handles, g.serial = h.serial ∧ g.ended = some (r, x) := by
  refine ⟨{ h with ended := some (r, x) }, ?_, rfl, rfl⟩
  rw [State.endHandle, State.domAt_modDom _ hd]
  exact List.mem_map.mpr ⟨h, hh, by simp⟩

/-- The turn stays where it is when a strand leaves its slot. -/
theorem State.vacate_turn (s : State) (c i : Nat) : (s.vacate c i).core = s.core ∧ (s.vacate c i).slot = s.slot := by
  simp only [State.vacate, State.dropFrame]
  split
  · exact ⟨rfl, rfl⟩
  · split <;> exact ⟨rfl, rfl⟩

/-- What the end of a strand leaves (R119, R298). -/
structure State.Ended (s t : State) : Prop where
  cur_eq : t.cur = s.cur.emptied
  core_eq : t.core = s.core
  slot_eq : t.slot = s.slot
  handle : s.cur.kind = 1 → s.hasDom s.core s.cur.asid = true → ∀ h ∈ s.dom.handles, h.serial = s.cur.serial →
    ∃ g ∈ (t.domAt s.core s.cur.asid).handles, g.serial = h.serial ∧ ∃ x, g.ended = some (s.cur.reg 1, x)

/-- The slot of a strand whose end has taken effect, before it is vacated. -/
def Slot.closed (t : Slot) : Slot := { t with region := none, wrote := [] }

/-- The strand's region closes and its stores are released, with nothing left to write back (R119 step 2). -/
theorem State.exists_closed {s : State} (hsbuf : s.cur.sbuf = []) (hwrote : s.cur.wrote = []) :
    ∃ w, (s.modCur (fun t => { t with region := none })).releaseAll s.core s.slot .domain = w ∧ w.cur = s.cur.closed ∧
      w.core = s.core ∧ w.slot = s.slot ∧ w.domains = s.domains := by
  have hcur := State.slotAt_modSlot s s.core s.slot (fun t => { t with region := none })
  obtain ⟨hslotAt, hcore, hslot, hdoms⟩ := State.releaseAll_idle (s := s.modCur (fun t => { t with region := none }))
    (sc := .domain) (c := s.core) (i := s.slot) (by rw [State.modCur, hcur]; exact hsbuf) (by rw [State.modCur, hcur]; exact hwrote)
    (by decide)
  refine ⟨_, rfl, ?_, hcore, hslot, hdoms⟩
  rw [State.cur, hcore, hslot]
  refine hslotAt.trans ?_
  rw [State.modCur, hcur]
  rfl

theorem run_releaseMe_domain (c : Ctx) :
    (releaseMe .domain).run c = .ok ((), { c with st := c.st.releaseAll c.st.core c.st.slot .domain }) := rfl

/-- The strand leaves its slot once its handle, if it has one, has its result. -/
theorem State.Ended.of_vacate {s w : State} (hcore : w.core = s.core) (hslot : w.slot = s.slot) (hasid : w.cur.asid = s.cur.asid)
    (hempty : w.cur.emptied = s.cur.emptied) (hframe : w.cur.frame = none) (hdom : w.hasDom s.core s.cur.asid = s.hasDom s.core s.cur.asid)
    (hhandle : s.cur.kind = 1 → s.hasDom s.core s.cur.asid = true → ∀ h ∈ s.dom.handles, h.serial = s.cur.serial →
      ∃ g ∈ (w.domAt s.core s.cur.asid).handles, g.serial = h.serial ∧ ∃ x, g.ended = some (s.cur.reg 1, x)) :
    s.Ended (w.vacate w.core w.slot) where
  cur_eq := by
    rw [State.cur, (w.vacate_turn _ _).1, (w.vacate_turn _ _).2, State.slotAt_vacate hframe]
    exact hempty
  core_eq := (w.vacate_turn ..).1.trans hcore
  slot_eq := (w.vacate_turn ..).2.trans hslot
  handle hkind hd h hh hserial := by
    have hkept := State.handles_vacate (s := w) (c := w.core) (i := w.slot) hframe
    rw [show (w.slotAt w.core w.slot).asid = s.cur.asid from hasid, hcore] at hkept
    rw [hcore, hkept (hdom.trans hd)]
    exact hhandle hkind hd h hh hserial

/-- A strand in no pair ticks: its own clock goes on, and nothing else changes (R297). -/
theorem State.exists_ticked {w : State} (h : w.cur.pair = 0) : ∃ v k, w.tickAt w.core w.slot = v ∧ v.cur = { w.cur with clock := k } ∧
    v.core = w.core ∧ v.slot = w.slot ∧ v.domains = w.domains := by
  refine ⟨_, _, State.tickAt_alone h, State.slotAt_modSlot .., rfl, rfl, rfl⟩

/-- A helper leaves its slot: the handle of its serial number has its result (R156, R298). -/
theorem State.Ended.of_helper {s v : State} {k : List Nat} {x : Carried} (hcore : v.core = s.core) (hslot : v.slot = s.slot)
    (hcur : v.cur = { s.cur.closed with clock := k }) (hframe : s.cur.frame = none) (hdoms : v.domains = s.domains) :
    s.Ended ((v.endHandle s.core s.cur.asid s.cur.serial (s.cur.reg 1) x).vacate v.core v.slot) := by
  have hdom : v.hasDom s.core s.cur.asid = s.hasDom s.core s.cur.asid := by rw [State.hasDom, hdoms]; rfl
  have hat : v.domAt s.core s.cur.asid = s.dom := by rw [State.domAt, hdoms]; rfl
  have hkept : (v.endHandle s.core s.cur.asid s.cur.serial (s.cur.reg 1) x).cur = { s.cur.closed with clock := k } := hcur
  refine .of_vacate hcore hslot (by rw [hkept]; rfl) (by rw [hkept]; rfl) (by rw [hkept]; exact hframe) ?_ ?_
  · rw [← hdom]
    unfold State.hasDom State.endHandle State.modDom
    rw [lookT_mapT, Option.isSome_map]
  · intro _ hd h hh hserial
    obtain ⟨g, hg, hgs, hge⟩ := State.exists_ended_endHandle (r := s.cur.reg 1) (x := x) (hdom.trans hd) (hat ▸ hh)
    rw [hserial] at hg
    exact ⟨g, hg, hgs, x, hge⟩

theorem State.mustRebase_alone {s : State} {c i : Nat} (h : (s.slotAt c i).pair = 0) :
    s.mustRebase c i = decide (clkMax ≤ clkAt (s.slotAt c i).clock i) := by
  simp [State.mustRebase, h]

/-- `end` from step 2 on, of a strand in no pair with nothing to write back (R119). -/
theorem run_endNow {s : State} (ha : s.alone) (hframe : s.cur.frame = none) (hsbuf : s.cur.sbuf = []) (hwrote : s.cur.wrote = [])
    (hreb : s.mustRebase s.core s.slot = false) : ∃ t, endNow.run ⟨s, s, []⟩ = .ok ((), ⟨s, t, []⟩) ∧ s.Ended t := by
  obtain ⟨w, hw, hcur, hcore, hslot, hdoms⟩ := State.exists_closed hsbuf hwrote
  have hpair : w.cur.pair = 0 := by rw [hcur]; exact ha
  have hlead : ¬w.cur.pair = 1 := by rw [hpair]; decide
  unfold endNow
  rw [Act.run_bind, Act.run_modS]
  dsimp only
  rw [Act.run_bind, run_releaseMe_domain]
  dsimp only
  rw [State.modCur_core, State.modCur_slot, hw, Act.run_bind, Act.run_me]
  dsimp only
  have hdom : w.hasDom s.core s.cur.asid = s.hasDom s.core s.cur.asid := by rw [State.hasDom, hdoms]; rfl
  by_cases hkind : w.cur.kind = 1
  case neg =>
    simp only [if_neg hkind, Act.run_modS, if_neg hlead]
    exact ⟨_, rfl, .of_vacate hcore hslot (by rw [hcur]; rfl) (by rw [hcur]; rfl) (by rw [hcur]; exact hframe) hdom
      (fun h => absurd (by rw [hcur]; exact h) hkind)⟩
  case pos =>
    obtain ⟨v, k, hv, hvcur, hvcore, hvslot, hvdoms⟩ := State.exists_ticked hpair
    have hmay : w.mustRebase w.core w.slot = false := by
      rw [State.mustRebase_alone ha] at hreb
      rw [State.mustRebase_alone hpair, show w.slotAt w.core w.slot = s.cur.closed from hcur, hslot]
      exact hreb
    simp only [if_pos hkind, Act.run_bind, tickMe, Act.run_getS, hmay, Bool.not_false, Act.run_until_true, Act.run_modS,
      hv, myClock, Act.run_pure, Act.run_me, if_neg hlead]
    have hreg : v.cur.reg 1 = s.cur.reg 1 := by rw [hvcur, hcur]; rfl
    have hserial : v.cur.serial = s.cur.serial := by rw [hvcur, hcur]; rfl
    have hasid : v.cur.asid = s.cur.asid := by rw [hvcur, hcur]; rfl
    rw [hreg, hserial, hasid, hvcore, hcore]
    exact ⟨_, rfl, .of_helper (hvcore.trans hcore) (hvslot.trans hslot) (hvcur.trans (by rw [hcur])) hframe (hvdoms.trans hdoms)⟩

theorem endHoldsShade_eq_false {t : Slot} (h : ∀ p ∈ t.c, (if t.kind = 1 then 2 else 1) ≤ p.1 → isShade p.2 = false) :
    endHoldsShade t = false := by
  simp only [endHoldsShade, List.any_eq_false, Bool.and_eq_true, decide_eq_true_eq, not_and, Bool.not_eq_true]
  exact h

/-- `end` of a strand in no pair with no assist frame, no SHADE and nothing to write back (R119). -/
theorem issue_endStrand {s : State} (hc : s.calm) (ha : s.alone) (hframe : s.cur.frame = none) (hsbuf : s.cur.sbuf = [])
    (hwrote : s.cur.wrote = []) (hshade : endHoldsShade s.cur = false) (hreb : s.mustRebase s.core s.slot = false) :
    ∃ t, exec .endStrand s = .next t ∧ s.Ended t := by
  obtain ⟨t, hrun, hended⟩ := run_endNow ha hframe hsbuf hwrote hreb
  have hpair : s.cur.pair = 0 := ha
  have hvacant : t.cur.state = .vacant := by rw [hended.cur_eq]; rfl
  refine ⟨t, ?_, hended⟩
  change issue 4 _ s = _
  rw [issue_ok (f := .settled) (c := ⟨s, t, []⟩) hc.1]
  · rw [State.retire, if_pos hvacant]
  · rw [Act.run_bind, Act.run_me]
    simp only [hframe, hshade, Bool.false_eq_true, if_false, Act.run_bind, effect, Act.run_me, Act.run_getS, hpair, if_true, hrun]
    rfl

/-- Settles O13: the first five move or freeze their strand alone, and `end` vacates the slot after its handle has its result. -/
theorem strandControlEffects : Obligations.StrandControlEffects := by
  unfold Obligations.StrandControlEffects
  intro s k w compact hc ha cl
  have stops (n : Nat) (f : FaultInfo) (h : s.noTrigger s.core f.code) : issue n (stopWith f) s = .next (s.freeze f) :=
    issue_freezes hc ha h rfl
  refine ⟨issue_nothing hc, ?yields, stops 4 { code := fTRAP, arg := k.toNat } (by rintro ⟨⟩),
    fun hbreak => stops 4 { code := fBREAK, arg := k.toNat } (fun _ => hbreak),
    stops (if compact then 2 else 4) { code := fILLEGAL } (by rintro ⟨⟩), fun hframe _ hsbuf hwrote hshade hreb => ?ends⟩
  case yields =>
    exact issue_went (act := modS (fun s => s.modCur (fun t => { t with yielded := true }))) (f := fun t => { t with yielded := true })
      (ps := []) hc rfl rfl rfl
  case ends =>
    obtain ⟨t, ht, hended⟩ := issue_endStrand hc ha hframe hsbuf hwrote (endHoldsShade_eq_false hshade) hreb
    exact ⟨t, ht, hended.cur_eq, hended.core_eq, hended.slot_eq, hended.handle⟩

end Sys2Proof.Machine

/-! PROOF. Steps that end the wait of one strand (R125 to R127, R226, R240, R241, R375). -/

namespace Sys2Proof.Machine

/-! ### Acting for a strand outside its turn -/

/-- The state in which a slot's instruction of some bytes is acted for. -/
def State.focus (s : State) (c i len : Nat) : State :=
  { s with core := c, slot := i, ir := (s.slotAt c i).insn, replaying := len == 0 }

theorem State.slotAt_asSlot (s : State) (c i len : Nat) (f : State → State) (d j : Nat) :
    (s.asSlot c i len f).slotAt d j = (f (s.focus c i len)).slotAt d j := rfl

theorem State.cur_focus (s : State) (c i len : Nat) : (s.focus c i len).cur = s.slotAt c i := rfl

/-- The slot of a strand that freezes at a step of the memory system. -/
theorem State.slotAt_freeze_boundary {s : State} {c i : Nat} {f : FaultInfo} (hpair : (s.slotAt c i).pair = 0)
    (hpend : (s.slotAt c i).pend = .none) (htrig : s.noTrigger c f.code) :
    ((s.freezeAt c i f).boundary c i).slotAt c i = (s.slotAt c i).frozenBy (f.code % 256) := by
  rw [State.boundary_none, State.slotAt_freezeAt hpair htrig]
  rw [State.slotAt_freezeAt hpair htrig]
  exact hpend

/-- A strand that waits freezes with a fault other than BREAK (R240, R375). -/
theorem State.slotAt_asSlot_freeze {s : State} {c i len : Nat} {f : FaultInfo} (hpair : (s.slotAt c i).pair = 0)
    (hpend : (s.slotAt c i).pend = .none) (hcode : f.code ≠ 0x18) :
    (s.asSlot c i len (fun s => ((s.modCur (fun t => { t with state := .ready })).freeze f).boundary c i)).slotAt c i =
      (s.slotAt c i).frozenBy (f.code % 256) := by
  have hcur : ((s.focus c i len).modCur (fun t => { t with state := .ready })).slotAt c i = { s.slotAt c i with state := .ready } :=
    State.cur_modCur (s.focus c i len) _
  rw [State.slotAt_asSlot]
  refine (State.slotAt_freeze_boundary (s := (s.focus c i len).modCur (fun t => { t with state := .ready })) (c := c) (i := i) ?_ ?_ ?_).trans ?_
  · rw [hcur]; exact hpair
  · rw [hcur]; exact hpend
  · exact fun h => absurd h hcode
  · rw [hcur]; rfl

/-- A strand whose instruction of n bytes has retired. -/
def Slot.retires (t : Slot) (n : Nat) : Slot := { t.setPc (t.pc + n) with retired := t.retired + 1, insn := 0, again := false }

/-- A waiting strand's slot as its instruction ends. -/
def Slot.readied (t : Slot) : Slot := { t with state := .ready }

/-- The instruction of a waiting strand ends in a state where its turn stands (R20). -/
theorem State.slotAt_finishBy {s w : State} {c i len : Nat} {back : State → State} {act : Act Flow} {ps : Tab CReg}
    (hturn : w.core = c ∧ w.slot = i ∧ w.replaying = false) (hstate : w.cur.state = .ready) (hpend : w.cur.pend = .none)
    (hrun : ∀ s0, act.run ⟨s0, (s.focus c i len).modCur Slot.readied, []⟩ = .ok (.next, ⟨s0, w, ps⟩)) :
    (s.finishBy c i len back act).slotAt c i = w.cur.retires len := by
  obtain ⟨rfl, rfl, hreplay⟩ := hturn
  have hretire := State.retire_next (len := len) (by rw [hstate]; decide) hpend hreplay
  rw [State.finishBy, State.slotAt_asSlot]
  simp only [show (fun t : Slot => { t with state := .ready }) = Slot.readied from rfl, hrun, hretire]
  exact State.cur_modCur w _

theorem State.cur_readied (s : State) (c i len : Nat) : ((s.focus c i len).modCur Slot.readied).cur = (s.slotAt c i).readied :=
  State.cur_modCur ..

theorem State.focus_replaying {s : State} {c i len : Nat} (h : 0 < len) : (s.focus c i len).replaying = false :=
  beq_eq_false_iff_ne.mpr (Nat.pos_iff_ne_zero.mp h)

/-- TRANSLATION_STORE of a strand with nothing left in its buffer (R241). -/
theorem leads_translationStore {s : State} {c i n : Nat} (hstate : (s.slotAt c i).state = .wait (.translation n))
    (hpend : (s.slotAt c i).pend = .none) (hsbuf : (s.slotAt c i).sbuf = []) (hn : 0 < n) :
    Leads (exec (.translationStore c i) s) (fun u => u.slotAt c i = (s.slotAt c i).readied.retires n) := by
  refine ⟨s.finishAt c i n (pure .next), ?_, ?_⟩
  · change execTranslationStore c i s = _
    simp only [execTranslationStore, hstate, hsbuf, List.foldl_nil, State.drain_of_no_stores hsbuf, List.isEmpty_nil, if_true]
  · have hcur := s.cur_readied c i n
    refine (State.slotAt_finishBy (w := (s.focus c i n).modCur Slot.readied)
      ⟨rfl, rfl, State.focus_replaying (s := s) (c := c) (i := i) hn⟩ ?_ ?_ (fun s0 => rfl)).trans ?_
    · rw [hcur]; rfl
    · rw [hcur]; exact hpend
    · rw [hcur]

/-- TIMEOUT of a HOST access that popped nothing (R375). -/
theorem leads_timeout {s : State} {c i n : Nat} {a : Access} (hstate : (s.slotAt c i).state = .wait (.reply a n))
    (hpair : (s.slotAt c i).pair = 0) (hpend : (s.slotAt c i).pend = .none) (hpops : a.pops = []) (hlevel : (s.objAt a.obj).level = 4) :
    Leads (exec (.timeout c i) s) (fun u => u.slotAt c i = (s.slotAt c i).frozenBy 0x1C) := by
  refine ⟨s.replyFault c i n a { code := fTIMEOUT, addr := (a.pieces.headD (0, 0, 0)).2.1, reg := s.regOf c i a }, ?_, ?_⟩
  · change execTimeout c i s = _
    simp only [execTimeout, hstate, if_pos hlevel]
  · simp only [State.replyFault, State.putBack, hpops, List.foldl_nil]
    exact State.slotAt_asSlot_freeze hpair hpend (by change fTIMEOUT ≠ 0x18; decide)

/-- CLEANING_DONE of the only range that is being cleaned (R222). -/
theorem leads_cleaningDone {s : State} {k : Cleaning} (hk : s.cleaning = [k]) (hkind : (s.objAt k.pool).entKind = 2) :
    Leads (exec (.cleaningDone k.pool k.base) s) (fun u =>
      u.cleaning = [] ∧ (u.objAt k.pool).inUse = (s.objAt k.pool).inUse - k.len ∧ u.mem = s.mem) := by
  refine ⟨s.cleaned k, ?_, ?_⟩
  · change execCleaningDone k.pool k.base s = _
    simp only [execCleaningDone, hk, List.find?_cons, beq_self_eq_true, Bool.and_self]
  · simp only [State.cleaned, if_pos hkind]
    refine ⟨?_, ?_, rfl⟩
    · simp [State.modObj, State.setObj, hk]
    · simp only [State.objAt, State.modObj, State.setObj, lookT_putT, Option.getD_some]

theorem lookT_map {α β : Type} (f : α → β) (t : Tab α) (k : Nat) : lookT (t.map (fun p => (p.1, f p.2))) k = (lookT t k).map f := by
  induction t with
  | nil => rfl
  | cons p t ih =>
    obtain ⟨j, x⟩ := p
    by_cases h : j = k
    · simp [lookT, h]
    · simpa [lookT, h] using ih

/-- A change of every slot of a core. -/
def Core.mapSlots (k : Core) (f : Slot → Slot) : Core := { k with slots := k.slots.map (fun t => (t.1, f t.2)) }

/-- A change of every slot of every core that leaves a vacant one. -/
theorem State.slotAt_mapSlots (s : State) {f : Slot → Slot} (hf : f Slot.vacant = Slot.vacant) (c i : Nat) :
    ({ s with cores := s.cores.map (fun k => (k.1, k.2.mapSlots f)) } : State).slotAt c i = f (s.slotAt c i) := by
  simp only [State.slotAt, State.coreAt, Core.slotAt, lookT_map (fun k : Core => k.mapSlots f)]
  cases lookT s.cores c with
  | none => exact hf.symm
  | some k =>
    simp only [Option.map_some, Option.getD_some, Core.mapSlots, lookT_map f]
    cases lookT k.slots i with
    | none => exact hf.symm
    | some t => rfl

/-- A strand that waits for an entry's acknowledgements issues again (R226). -/
def Slot.acknowledged (o : Nat) (t : Slot) : Slot := if t.state == .wait (.entry o) then { t with state := .ready } else t

/-- ENTRY_UPDATE with no load of the object out (R226). -/
theorem leads_entryUpdate {s : State} {o : Nat} (c i : Nat) (h : s.loading o = false) :
    Leads (exec (.entryUpdate o) s) (fun u => u.mem = s.mem ∧
      u.slotAt c i = if (s.slotAt c i).state = .wait (.entry o) then { s.slotAt c i with state := .ready } else s.slotAt c i) := by
  have hvacant : Slot.vacant.acknowledged o = Slot.vacant := rfl
  have hack (t : Nat × Slot) : (if t.2.state == .wait (.entry o) then (t.1, { t.2 with state := .ready }) else t) =
      (t.1, t.2.acknowledged o) := by
    unfold Slot.acknowledged
    split <;> rfl
  refine ⟨{ s with cores := s.cores.map (fun k => (k.1, k.2.mapSlots (Slot.acknowledged o))) }, ?_, rfl, ?_⟩
  · change execEntryUpdate o s = _
    simp only [execEntryUpdate, h, Bool.false_eq_true, if_false, hack]
    rfl
  · rw [State.slotAt_mapSlots _ hvacant]
    simp only [Slot.acknowledged, beq_iff_eq]

/-! ### Page walks (R240) -/

/-- What every step of a fold keeps, the fold keeps. -/
theorem foldl_keeps {α β γ : Type} (p : α → γ) {f : α → β → α} (h : ∀ a b, p (f a b) = p a) (l : List β) (a : α) :
    p (l.foldl f a) = p a := by
  induction l generalizing a with
  | nil => rfl
  | cons b l ih => exact (ih _).trans (h a b)

theorem State.keepEntry_keeps (s : State) (die asid : Nat) (x : Nat × Nat) :
    (s.keepEntry die asid x).mem = s.mem ∧ (s.keepEntry die asid x).cores = s.cores ∧ (s.keepEntry die asid x).clusters = s.clusters := by
  unfold State.keepEntry
  dsimp only
  split
  · exact ⟨rfl, rfl, rfl⟩
  · split <;> exact ⟨rfl, rfl, rfl⟩

theorem State.keepTrail_keeps (s : State) (die asid va : Nat) :
    (s.keepTrail die asid va).mem = s.mem ∧ (s.keepTrail die asid va).cores = s.cores ∧ (s.keepTrail die asid va).clusters = s.clusters := by
  unfold State.keepTrail
  split
  · exact ⟨foldl_keeps State.mem (fun s e => (s.keepEntry_keeps die asid e).1) _ _,
      foldl_keeps State.cores (fun s e => (s.keepEntry_keeps die asid e).2.1) _ _,
      foldl_keeps State.clusters (fun s e => (s.keepEntry_keeps die asid e).2.2) _ _⟩
  · exact ⟨rfl, rfl, rfl⟩

theorem State.keepsStrands_fillClusterTlb (s : State) (c asid : Nat) (p : Page) : s.KeepsStrands (s.fillClusterTlb c asid p) := by
  have hput := s.keepsStrands_modCluster (clusterOf c)
    (f := fun k => { k with tlb := tlbPut (s.clusterAt (clusterOf c)).tlb ⟨asid, p.va, p.size, p.tgt, p.pa⟩ 2048 s.fresh }) (by intro _; rfl)
  unfold State.fillClusterTlb
  dsimp only
  split
  · exact hput
  · exact hput.trans (.of_cores rfl rfl)

theorem State.keepsStrands_fillCoreTlb (s : State) (c asid : Nat) (p : Page) : s.KeepsStrands (s.fillCoreTlb c asid p) := by
  have hput := State.KeepsStrands.modCore s c
    (f := fun k => { k with tlb := tlbPut (s.coreAt c).tlb ⟨asid, p.va, p.size, p.tgt, p.pa⟩ 32 s.fresh }) (by intro _; rfl)
  unfold State.fillCoreTlb
  dsimp only
  split
  · exact hput
  · exact hput.trans (.of_cores rfl rfl)

theorem mem_tlbPut (t : List Tlb) (e : Tlb) (n pick : Nat) : e ∈ tlbPut t e n pick := by
  unfold tlbPut
  split <;> simp

/-- The TLB of a core holds the page that fills it (R238). -/
theorem State.mem_tlb_fillCoreTlb (s : State) (c asid : Nat) (p : Page) :
    (⟨asid, p.va, p.size, p.tgt, p.pa⟩ : Tlb) ∈ ((s.fillCoreTlb c asid p).coreAt c).tlb := by
  have hput : (⟨asid, p.va, p.size, p.tgt, p.pa⟩ : Tlb) ∈ ((s.modCore c (fun k =>
      { k with tlb := tlbPut (s.coreAt c).tlb ⟨asid, p.va, p.size, p.tgt, p.pa⟩ 32 s.fresh })).coreAt c).tlb := by
    rw [State.coreAt_modCore]
    exact mem_tlbPut ..
  unfold State.fillCoreTlb
  dsimp only
  split
  · exact hput
  · exact hput

theorem State.mem_fillCoreTlb (s : State) (c asid : Nat) (p : Page) : (s.fillCoreTlb c asid p).mem = s.mem := by
  unfold State.fillCoreTlb
  dsimp only
  split <;> rfl

theorem State.mem_fillClusterTlb (s : State) (c asid : Nat) (p : Page) : (s.fillClusterTlb c asid p).mem = s.mem := by
  unfold State.fillClusterTlb
  dsimp only
  split <;> rfl

section walk
variable {s v : State} {c i die asid va l : Nat}

/-- A walk that finds its page makes the strand READY with the page in the TLB of its core (R240). -/
theorem State.walked_ok {p : Page} (hv : s.keepTrail die asid va = v) (hp : v.walkBy die asid l va = .ok p)
    (hpend : (v.slotAt c i).pend = .none) : let u := s.walked die asid (c, i, va, l)
    u.slotAt c i = (v.slotAt c i).readied ∧ (⟨asid, p.va, p.size, p.tgt, p.pa⟩ : Tlb) ∈ (u.coreAt c).tlb ∧ u.mem = v.mem := by
  have hslot : (((v.fillClusterTlb c asid p).fillCoreTlb c asid p).modSlot c i Slot.readied).slotAt c i = (v.slotAt c i).readied := by
    rw [State.slotAt_modSlot, (State.keepsStrands_fillCoreTlb ..).slotAt_eq, (State.keepsStrands_fillClusterTlb ..).slotAt_eq]
  have hwalked : s.walked die asid (c, i, va, l) = ((v.fillClusterTlb c asid p).fillCoreTlb c asid p).modSlot c i Slot.readied := by
    simp only [State.walked, hv, hp]
    exact State.boundary_none ((congrArg Slot.pend hslot).trans hpend)
  rw [hwalked]
  refine ⟨hslot, ?_, (State.mem_fillCoreTlb ..).trans (State.mem_fillClusterTlb ..)⟩
  rw [State.modSlot, State.setSlot, State.coreAt_modCore]
  exact State.mem_tlb_fillCoreTlb ..

/-- A walk that finds no page freezes the strand with XLATE (R240). -/
theorem State.walked_error {x : Nat} (hv : s.keepTrail die asid va = v) (hx : v.walkBy die asid l va = .error x)
    (hpair : (v.slotAt c i).pair = 0) (hpend : (v.slotAt c i).pend = .none) :
    (s.walked die asid (c, i, va, l)).slotAt c i = (v.slotAt c i).frozenBy 0x09 := by
  simp only [State.walked, hv, hx]
  exact State.slotAt_asSlot_freeze hpair hpend (by change fXLATE ≠ 0x18; decide)

end walk

/-- PAGE_WALK of a walk of one die for which one strand waits. -/
theorem exec_pageWalk {s : State} {asid page die : Nat} {w : Nat × Nat × Nat × Nat} (hw : s.walkers die asid page = [w])
    (hdie : (s.dies.filter (fun d => d.2.active.contains (asid, page))).map (fun d => d.1) = [die]) :
    exec (.pageWalk asid page) s =
      .next ((s.modDie die (fun d => { d with walks := d.walks.erase (asid, page) })).walked die asid w) := by
  obtain ⟨d, hd, rfl⟩ := List.map_eq_singleton_iff.mp hdie
  change execPageWalk asid page s = _
  simp only [execPageWalk, hd, List.foldl_cons, List.foldl_nil, hw]

/-! ### Failed regions (R126) -/

/-- A packet changes no entry of the object table. -/
theorem State.objs_sendPacket (s : State) (part to_ core : Nat) (dw rec : List Word) :
    (s.sendPacket part to_ core dw rec).objs = s.objs := by
  unfold State.sendPacket State.toSupervisor State.send_
  dsimp only
  split
  · rfl
  · split
    · rfl
    · split <;> rfl

/-- What both branches give, the choice gives. -/
theorem apply_ite_eq {α β : Type} {p : Prop} [Decidable p] (f : α → β) {a b : α} {y : β} (ha : f a = y) (hb : f b = y) :
    f (if p then a else b) = y := by
  split
  exacts [ha, hb]

theorem State.KeepsStrands.ite {p : Prop} [Decidable p] {s a b : State} (ha : s.KeepsStrands a) (hb : s.KeepsStrands b) :
    s.KeepsStrands (if p then a else b) := by
  split
  exacts [ha, hb]

theorem State.objs_informPacket (s : State) (part core asid kind slot : Nat) (f : FaultInfo) :
    (s.informPacket part core asid kind slot f).objs = s.objs := State.objs_sendPacket ..

theorem State.objs_count (s : State) (core asid num n : Nat) : (s.count core asid num n).objs = s.objs := rfl

theorem State.keepsStrands_modDom (s : State) (core asid : Nat) (f : Domain → Domain) : s.KeepsStrands (s.modDom core asid f) :=
  .of_cores rfl rfl

theorem State.keepsStrands_count (s : State) (core asid num n : Nat) : s.KeepsStrands (s.count core asid num n) := s.keepsStrands_modDom ..

theorem State.keepsStrands_informPacket (s : State) (part core asid kind slot : Nat) (f : FaultInfo) :
    s.KeepsStrands (s.informPacket part core asid kind slot f) := s.keepsStrands_sendPacket ..

/-- The slot of a strand whose region has failed, before it goes on. -/
def Slot.discarded (t : Slot) (r : Region) (err : CReg) : Slot :=
  { t with c := if r.e = 0 then r.c else putT r.c r.e err, p := r.p, code := r.code, fpmode := r.fpmode, fpflags := r.fpflags,
           seed := r.seed, region := none, again := false }

/-- What a strand does at its failure target. -/
def Slot.atTarget (t : Slot) (r : Region) : Slot :=
  { t.setPc r.target.toNat with state := .ready, retired := t.retired + 1, insn := 0 }

/-- A region of a strand in no pair fails: the strand rolls back, a failure by silence is reported, and the failure target is
taken (R126). -/
theorem State.exists_failRegionAt {s : State} {c i code dev : Nat} {r : Region} (hr : (s.slotAt c i).region = some r)
    (hpair : (s.slotAt c i).pair = 0) : ∃ u : State,
      (s.modSlot c i (fun t => t.discarded r (plain (field dev 16 16 + field code 0 8)))).KeepsStrands u ∧ u.objs = s.objs ∧
      (u.targetInside r → s.failRegionAt c i code dev = u.modSlot c i (fun t => t.atTarget r)) := by
  have hlead : ¬((s.slotAt c i).pair = 1 ∧ code ≤ 4) := by rw [hpair]; omega
  have htrail : ¬((s.slotAt c i).pair = 2 ∧ code ≤ 4) := by rw [hpair]; omega
  unfold State.failRegionAt
  simp only [hr]
  rw [if_neg hlead, if_neg htrail]
  refine ⟨_, ?_, ?_, fun hin => if_pos hin⟩
  · exact .ite (.ite ((State.keepsStrands_count ..).trans ((State.keepsStrands_modDom ..).trans (State.keepsStrands_informPacket ..)))
      (State.keepsStrands_count ..)) (.refl _)
  · refine apply_ite_eq State.objs (apply_ite_eq State.objs ?_ ?_) (State.setSlot_objs ..)
    · rw [State.objs_informPacket, State.modDom_objs, State.objs_count, State.setSlot_objs]
    · rw [State.objs_count, State.setSlot_objs]

/-- The slot of a strand in no pair whose region has failed (R126). -/
theorem State.slotAt_failRegionAt {s : State} {c i code dev : Nat} {r : Region} (hr : (s.slotAt c i).region = some r)
    (hpair : (s.slotAt c i).pair = 0) (hin : s.targetInside r) : (s.failRegionAt c i code dev).slotAt c i =
      (s.slotAt c i).rolledBack r (plain (field dev 16 16 + field code 0 8)) := by
  obtain ⟨u, hkeeps, hobjs, hfail⟩ := State.exists_failRegionAt (code := code) (dev := dev) hr hpair
  have hinside : u.targetInside r := by
    unfold State.targetInside State.objAt
    rw [hobjs]
    exact hin
  rw [hfail hinside, State.slotAt_modSlot, hkeeps.slotAt_eq, State.slotAt_modSlot]
  rfl

/-- NO_REPLY of a remote load that popped nothing (R126). -/
theorem leads_noReply {s : State} {c i n : Nat} {a : Access} {r : Region} (hstate : (s.slotAt c i).state = .wait (.reply a n))
    (hpair : (s.slotAt c i).pair = 0) (hpend : (s.slotAt c i).pend = .none) (hpops : a.pops = [])
    (hr : (s.slotAt c i).region = some r) (hlevel : (s.objAt a.obj).level = 5) (hwaited : (s.slotAt c i).waited s.time = true)
    (hin : s.targetInside r) : Leads (exec (.noReply c i (s.objAt a.obj).homeDev) s) (fun u => u.slotAt c i =
      (s.slotAt c i).rolledBack r (plain (field (s.objAt a.obj).homeDev 16 16 + field 1 0 8))) := by
  have hslot := State.slotAt_failRegionAt (code := 1) (dev := (s.objAt a.obj).homeDev) hr hpair hin
  refine ⟨s.failRegionAt c i 1 (s.objAt a.obj).homeDev, ?_, hslot⟩
  have hback : s.putBack c i a = s := by rw [State.putBack, hpops, List.foldl_nil]
  have hboundary := State.boundary_none ((congrArg Slot.pend hslot).trans hpend)
  change execNoReply c i _ s = _
  simp only [execNoReply, hstate, hlevel, hwaited, and_self, if_true, State.failReply, hback, reduceCtorEq, if_false, hboundary]

/-! ### The outcome of a commit (R127) -/

namespace Commit

/-- The commit once some destinations have said that they applied their batches. -/
def heard (k : Commit) (now : Nat) (ds : List Nat) : Commit := (ds.map (fun d => (d, none))).foldl (fun k x => k.hears now x) k

/-- Every answer so far says that the batch was applied. -/
def AllApplied (k : Commit) : Prop := ∀ x ∈ k.answers, x.2 = none

theorem answer_eq {k : Commit} {d : Nat} (h : k.AllApplied) (hd : (k.answer d).isSome = true) : k.answer d = some none := by
  unfold answer at hd ⊢
  cases hf : k.answers.find? (fun x => x.1 == d) with
  | none => simp [hf] at hd
  | some x => simp [h x (List.mem_of_find?_eq_some hf)]

/-- One destination applies its batch. -/
theorem hears_applied {k : Commit} {now d : Nat} (h : k.AllApplied) (hd : d ∈ k.dests) (hnow : now ≤ k.sent + 100000) :
    let k' := k.hears now (d, none)
    k'.dests = k.dests ∧ k'.sr = k.sr ∧ k'.sent = k.sent ∧ k'.AllApplied ∧
      ∀ e, e = d ∨ (k.answer e).isSome = true → (k'.answer e).isSome = true := by
  by_cases hnew : (k.answer d).isNone = true
  · have hk : k.hears now (d, none) = { k with answers := k.answers ++ [(d, none)] } := by
      simp [hears, hd, hnew, hnow]
    rw [hk]
    refine ⟨rfl, rfl, rfl, ?_, fun e he => ?_⟩
    · intro x hx
      rcases List.mem_append.mp hx with hx | hx
      · exact h x hx
      · rw [List.mem_singleton.mp hx]
    · simp only [answer, Option.isSome_map, List.find?_append, Option.isSome_or] at he ⊢
      rcases he with rfl | he
      · simp
      · simp [he]
  · have hk : k.hears now (d, none) = k := by simp [hears, hnew]
    rw [hk]
    refine ⟨rfl, rfl, rfl, h, fun e he => ?_⟩
    rcases he with rfl | he
    · exact Option.isSome_iff_ne_none.mpr (by simpa using hnew)
    · exact he

/-- Every destination of a list has applied its batch once the list is heard. -/
theorem heard_applied {now : Nat} (ds : List Nat) {k : Commit} (h : k.AllApplied) (hds : ds ⊆ k.dests) (hnow : now ≤ k.sent + 100000) :
    (k.heard now ds).dests = k.dests ∧ (k.heard now ds).sr = k.sr ∧
    ∀ d, d ∈ ds ∨ (k.answer d).isSome = true → (k.heard now ds).answer d = some none := by
  induction ds generalizing k with
  | nil => exact ⟨rfl, rfl, fun d hd => answer_eq h (hd.resolve_left (by simp))⟩
  | cons d ds ih =>
    obtain ⟨hdests, hsr, hsent, hall, hsome⟩ := hears_applied h (hds List.mem_cons_self) hnow
    obtain ⟨hdests', hsr', hanswer⟩ := ih hall (hdests ▸ fun e he => hds (List.mem_cons_of_mem d he)) (hsent ▸ hnow)
    refine ⟨hdests'.trans hdests, hsr'.trans hsr, fun e he => hanswer e ?_⟩
    rcases he with he | he
    · exact (List.mem_cons.mp he).elim (fun h => .inr (hsome e (.inl h))) .inl
    · exact .inr (hsome e (.inr he))

end Commit

/-- The end of a commit's region in a strand with no stream (R127). -/
theorem run_closeCommit {s0 s : State} {sr : Nat} {v : CReg} (hpair : s.cur.pair = 0) (hstreams : s.cur.streams = []) :
    (closeCommit sr v).run ⟨s0, s, []⟩ =
      .ok (.next, ⟨s0, s.modCur (fun t => ({ t with region := none } : Slot).setReg (sr % 32) v), []⟩) := by
  have hpush (w : State) : w.pushLvq w.core w.slot v = w.modCur (fun t => if t.pair = 1 then { t with lvq := t.lvq ++ [v] } else t) := rfl
  simp only [closeCommit, Act.run_bind, Act.run_modS, hpush]
  rw [dst_unbound]
  · simp only [Act.run_pure, State.modCur_modCur]
    rw [State.modCur_congr]
    simp [hpair]
  · simp [Slot.stream, hpair, hstreams, lookT]

/-- The slot of a strand whose commit's region closes at a reply (R127). -/
theorem State.slotAt_finishAt_closeCommit {s : State} {c i sr : Nat} {v : CReg} (hpair : (s.slotAt c i).pair = 0)
    (hpend : (s.slotAt c i).pend = .none) (hstreams : (s.slotAt c i).streams = []) : (s.finishAt c i 4 (closeCommit sr v)).slotAt c i =
      (({ (s.slotAt c i).readied with region := none } : Slot).setReg (sr % 32) v).retires 4 := by
  have hready := s.cur_readied c i 4
  have hrun (s0 : State) := run_closeCommit (s0 := s0) (s := (s.focus c i 4).modCur Slot.readied) (sr := sr) (v := v)
    (by rw [hready]; exact hpair) (by rw [hready]; exact hstreams)
  refine (State.slotAt_finishBy (w := ((s.focus c i 4).modCur Slot.readied).modCur _) ⟨rfl, rfl, rfl⟩ ?_ ?_ hrun).trans ?_
  · rw [State.cur_modCur, Slot.setReg_state, hready]; rfl
  · rw [State.cur_modCur, Slot.setReg_pend, hready]; exact hpend
  · rw [State.cur_modCur, hready]

/-- The slot of a strand whose commit has its outcome (R127). -/
theorem State.slotAt_commitEnds {s : State} {c i : Nat} {k : Commit} {v : CReg} (hpair : (s.slotAt c i).pair = 0)
    (hpend : (s.slotAt c i).pend = .none) (hstreams : (s.slotAt c i).streams = []) : (s.commitEnds c i k v).slotAt c i =
      (({ (s.slotAt c i).readied with region := none } : Slot).setReg (k.sr % 32) v).retires 4 := by
  rw [State.commitEnds, State.slotAt_finishAt_closeCommit] <;> rw [State.slotAt_modSlot]
  exacts [rfl, hpair, hpend, hstreams]

/-- A slot whose commit has heard some answers. -/
def Slot.heard (t : Slot) (now : Nat) (ds : List Nat) : Slot :=
  { t with region := t.region.map (fun r => { r with commit := r.commit.map (fun k => k.heard now ds) }) }

/-- The answers reach the commit before its outcome is decided (R127). -/
theorem State.hearBatch_map (s : State) (c i : Nat) (ds : List Nat) : s.hearBatch c i (ds.map (fun d => (d, none))) =
    s.modSlot c i (fun t => t.heard s.time ds) := rfl

theorem filter_eq_nil_of_forall {α : Type} {p : α → Bool} {l : List α} (h : ∀ a ∈ l, p a = false) : l.filter p = [] :=
  List.filter_eq_nil_iff.mpr (fun a ha => by simp [h a ha])

section commit
variable {s : State} {c i : Nat} {r : Region} {x : Commit}

theorem Slot.heard_commit {t : Slot} {now : Nat} {ds : List Nat} (hr : t.region = some r) (hx : r.commit = some x) :
    (t.heard now ds).region.bind (fun r => r.commit) = some (x.heard now ds) := by simp [Slot.heard, hr, hx]

/-- COMMIT_OUTCOME where every destination has applied its batch (R127). -/
theorem leads_commitOutcome (hr : (s.slotAt c i).region = some r) (hx : r.commit = some x) (hstate : (s.slotAt c i).state = .wait .commit)
    (hpair : (s.slotAt c i).pair = 0) (hpend : (s.slotAt c i).pend = .none) (hstreams : (s.slotAt c i).streams = [])
    (hanswers : x.answers = []) (hdests : x.dests ≠ []) (hnow : s.time ≤ x.sent + 100000) :
    Leads (exec (.commitOutcome c i (x.dests.map (fun d => (d, none)))) s) (fun u => u.slotAt c i =
      (({ (s.slotAt c i).readied with region := none } : Slot).setReg (x.sr % 32) (commitStatus x.dests.length [] [])).retires 4) := by
  obtain ⟨hds, hsr, happlied⟩ := Commit.heard_applied x.dests (k := x) (now := s.time) (by simp [Commit.AllApplied, hanswers])
    (List.Subset.refl _) hnow
  have hall (d : Nat) (hd : d ∈ x.dests) := happlied d (.inl hd)
  have hslot : (s.modSlot c i (fun t => t.heard s.time x.dests)).slotAt c i = (s.slotAt c i).heard s.time x.dests := State.slotAt_modSlot ..
  refine ⟨(s.modSlot c i (fun t => t.heard s.time x.dests)).commitEnds c i (x.heard s.time x.dests) (commitStatus x.dests.length [] []), ?_, ?_⟩
  · have hsilent : x.dests.filter (fun d => (x.heard s.time x.dests).answer d == none) = [] :=
      filter_eq_nil_of_forall (fun d hd => by rw [hall d hd]; rfl)
    have hrefused : x.dests.filter (fun d => (x.heard s.time x.dests).answer d != none && (x.heard s.time x.dests).answer d != some none) = [] :=
      filter_eq_nil_of_forall (fun d hd => by rw [hall d hd]; rfl)
    have hfailed : x.dests.filter (fun d => (x.heard s.time x.dests).answer d != some none) = [] :=
      filter_eq_nil_of_forall (fun d hd => by rw [hall d hd]; rfl)
    have hdone : x.dests.filter (fun d => (x.heard s.time x.dests).answer d == some none) = x.dests :=
      List.filter_eq_self.mpr (fun d hd => by rw [hall d hd]; rfl)
    have hstill : ((s.slotAt c i).heard s.time x.dests).state = .wait .commit := hstate
    change execCommitOutcome c i _ s = _
    simp only [execCommitOutcome, State.hearBatch_map, hslot, hstill, Slot.heard_commit hr hx, hds, hsilent, hrefused, hfailed, hdone]
    simp [hdests]
  · refine (State.slotAt_commitEnds ?_ ?_ ?_).trans ?_ <;> rw [hslot]
    exacts [hpair, hpend, hstreams, by rw [hsr]; rfl]

/-- COMMIT_OUTCOME while a destination is silent and 100 µs have not passed (R127). -/
theorem leads_commitOutcome_silent (hr : (s.slotAt c i).region = some r) (hx : r.commit = some x)
    (hstate : (s.slotAt c i).state = .wait .commit) (hanswers : x.answers = []) (hdests : x.dests ≠ []) (hnow : s.time < x.sent + 100000) :
    Leads (exec (.commitOutcome c i []) s) (fun u => u.slotAt c i = s.slotAt c i ∧ u.mem = s.mem ∧ u.net = s.net) := by
  have hslot : (s.modSlot c i (fun t => t.heard s.time [])).slotAt c i = (s.slotAt c i).heard s.time [] := State.slotAt_modSlot ..
  have hsame : (s.slotAt c i).heard s.time [] = s.slotAt c i := by simp [Slot.heard, Commit.heard]
  refine ⟨s.modSlot c i (fun t => t.heard s.time []), ?_, hslot.trans hsame, rfl, rfl⟩
  change execCommitOutcome c i [] s = _
  have hempty : s.hearBatch c i [] = s.modSlot c i (fun t => t.heard s.time []) := rfl
  have hsilent : x.dests.filter (fun d => x.answer d == none) = x.dests :=
    List.filter_eq_self.mpr (fun d _ => by simp [Commit.answer, hanswers])
  simp only [execCommitOutcome, hempty, hslot, hsame, hstate, hr, Option.bind_some, hx, hsilent]
  rw [if_pos ⟨by simpa using hdests, hnow⟩]

end commit

end Sys2Proof.Machine

/-! PROOF. Transfers that are placed or bounced (R224, R230 to R233), and the settlement of O48. -/

namespace Sys2Proof.Machine

/-! ### What a copy leaves (R231) -/

/-- The second state has the object table and the transfers of the first. -/
structure State.KeepsTables (s t : State) : Prop where
  objs_eq : t.objs = s.objs
  transfers_eq : t.transfers = s.transfers

namespace State.KeepsTables
variable {s t u : State}

theorem refl (s : State) : s.KeepsTables s := ⟨rfl, rfl⟩

theorem trans (h : s.KeepsTables t) (h' : t.KeepsTables u) : s.KeepsTables u :=
  ⟨h'.objs_eq.trans h.objs_eq, h'.transfers_eq.trans h.transfers_eq⟩

theorem foldl {α : Type} {f : State → α → State} (h : ∀ (s : State) x, s.KeepsTables (f s x)) (l : List α) (s : State) :
    s.KeepsTables (l.foldl f s) :=
  ⟨foldl_keeps State.objs (fun s x => (h s x).objs_eq) l s, foldl_keeps State.transfers (fun s x => (h s x).transfers_eq) l s⟩

end State.KeepsTables

theorem State.keepsTables_clearTags (s : State) (a n : Nat) : s.KeepsTables (s.clearTags a n) := by
  unfold State.clearTags
  split <;> exact ⟨rfl, rfl⟩

theorem State.keepsTables_clearRange (s : State) (a n : Nat) : s.KeepsTables (s.clearRange a n) :=
  have h := State.keepsTables_clearTags ({ s with mem := Memory.clear s.mem a n }) a n
  ⟨h.objs_eq, h.transfers_eq⟩

theorem State.keepsTables_carryRange (s : State) (a d n : Nat) : s.KeepsTables (s.carryRange a d n) := by
  have h := State.keepsTables_clearTags ({ s with mem := Memory.copy s.mem a d n }) d n
  exact ⟨h.objs_eq, h.transfers_eq⟩

theorem State.keepsTables_carryObj (s : State) (srcAsid dstAsid : Nat) (a d : Obj) (n : Nat) :
    s.KeepsTables (s.carryObj srcAsid dstAsid a d n) := by
  refine .foldl (fun t k => ?_) _ _
  dsimp only
  split
  · exact t.keepsTables_carryRange ..
  · exact .refl t

theorem State.keepsTables_overSpan (s : State) (asid : Nat) (e : Obj) (loc n : Nat) {f : State → Nat → Nat → State}
    (h : ∀ (s : State) a k, s.KeepsTables (f s a k)) : s.KeepsTables (s.overSpan asid e loc n f) := by
  unfold State.overSpan
  split
  · exact .refl s
  · split
    · exact h ..
    · refine .foldl (fun t k => ?_) _ _
      dsimp only
      split
      · exact h ..
      · exact .refl t

theorem State.keepsTables_giveBack (s : State) (e : Obj) : s.KeepsTables (s.giveBack e) := by
  unfold State.giveBack
  split
  · exact (s.keepsTables_overSpan e.ownCtx e 0 e.length (fun t a k => t.keepsTables_clearRange a k)).trans ⟨rfl, rfl⟩
  · exact .refl s

theorem State.keepsTables_inheritLines (s : State) (a n rb : Nat) : s.KeepsTables (s.inheritLines a n rb) := by
  unfold State.inheritLines
  dsimp only
  split
  · exact .refl s
  · split <;> exact ⟨rfl, rfl⟩

@[simp] theorem State.objAt_writeEntry (s : State) (o : Nat) (e : Obj) : (s.writeEntry o e).objAt o = e := by
  simp only [State.objAt, State.writeEntry, State.stirAll, State.setObj, lookT_putT, Option.getD_some]

theorem State.objAt_writeEntry_ne (s : State) {o p : Nat} (e : Obj) (h : p ≠ o) : (s.writeEntry o e).objAt p = s.objAt p := by
  simp only [State.objAt, State.writeEntry, State.stirAll, State.setObj, lookT_putT_ne _ _ h]

theorem State.objAt_of_objs_eq {s t : State} (h : t.objs = s.objs) (o : Nat) : t.objAt o = s.objAt o := by rw [State.objAt, h]; rfl

/-- The entry of an object in another pool (R231). -/
def Obj.inPool (e p : Obj) (pool base : Nat) : Obj := { e with level := p.level, key := p.key, base := base, poolId := pool }

/-- An object takes an entry, with the lines of its bytes inherited where it lies in a local level (R231, R301). -/
def State.entered (s : State) (o : Nat) (e : Obj) : State :=
  let t := s.writeEntry o e
  if e.level < 3 then t.inheritLines (t.localAddr e 0) e.length (t.epochOf o) else t

theorem State.entered_spec (s : State) (o : Nat) (e : Obj) : (s.entered o e).objAt o = e ∧ (s.entered o e).transfers = s.transfers := by
  have hkeeps : (s.writeEntry o e).KeepsTables (s.entered o e) := by
    unfold State.entered
    dsimp only
    split
    exacts [State.keepsTables_inheritLines .., .refl _]
  exact ⟨(State.objAt_of_objs_eq hkeeps.objs_eq o).trans (State.objAt_writeEntry ..), hkeeps.transfers_eq⟩

/-- A pool with the space of an object taken. -/
def Obj.holding (p e : Obj) : Obj := { p with inUse := p.inUse + spanOf p.level e.length }

theorem State.rehome_eq (s : State) (o pool base asid : Nat) : s.rehome o pool base asid =
    ((((s.setObj pool ((s.objAt pool).holding (s.objAt o))).carryObj asid asid (s.objAt o) ((s.objAt o).inPool (s.objAt pool) pool base)
      (s.objAt o).length).giveBack (s.objAt o)).entered o ((s.objAt o).inPool (s.objAt pool) pool base)) := rfl

/-- An object that moves to a pool has its entry there, and the transfers stay (R231). -/
theorem State.rehome_spec (s : State) (o pool base asid : Nat) :
    (s.rehome o pool base asid).objAt o = (s.objAt o).inPool (s.objAt pool) pool base ∧ (s.rehome o pool base asid).transfers = s.transfers := by
  rw [State.rehome_eq]
  refine ⟨(State.entered_spec ..).1, (State.entered_spec ..).2.trans ?_⟩
  exact ((State.keepsTables_giveBack ..).transfers_eq).trans (State.keepsTables_carryObj ..).transfers_eq

/-! ### TRANSFER_PLACEMENT (R230 to R232) -/

section placement
variable {s : State} {o : Nat} {x : Transfer} {m : Msg} {l : Nat}

/-- The transfer with its grants returned to the die (R407). -/
def State.returned (s : State) (o : Nat) (x : Transfer) : State :=
  s.modDie (dieOf (s.objAt o).ownCore) (fun d => { d with granted := d.granted - min 1 x.leave })

/-- A copy that has its leave is made for a domain of this device (R230, R231). -/
theorem State.placeTransfer_of_leave (hx : s.transfers.find? (fun x => x.obj == o && x.sent.isNone) = some x)
    (hm : s.net.find? (fun m => m.pay.any (fun y => isOwn y && objOf y == o)) = some m) (hdev : m.dstDev = s.devOf m.srcCtx)
    (hl : x.copyTo = some l) (hrun : (s.clusterAt ((s.objAt o).ownCore / 32)).halted = false) (hleave : s.copyLeave x ≤ x.leave) :
    s.placeTransfer o = (s.returned o x).placeHere x l m.dstCore m.dstCtx := by
  simp only [State.placeTransfer, hx, clusterOf, hrun, Bool.false_eq_true, if_false, if_neg (Nat.not_lt.mpr hleave), hl, State.modDie, hm]
  exact if_pos hdev

/-- The transfers but those of an object. -/
def State.withoutTransfer (s : State) (o : Nat) : List Transfer := s.transfers.filter (fun y => y.obj != o)

/-- A fallback keeps the object where it is and marks its message (R230, R232). -/
theorem State.placeHere_fallback {core ctx : Nat}
    (hpool : (s.domAt core ctx).rx l = none ∨ ∀ p ∈ (s.domAt core ctx).rx l, s.room p (s.objAt x.obj).length true = none) :
    s.placeHere x l core ctx = ({ s with transfers := s.withoutTransfer x.obj } : State).markMsg x.obj 1 := by
  unfold State.placeHere
  dsimp only
  split
  · rfl
  · next p hp =>
    have hroom := hpool.resolve_left (by rw [show (s.domAt core ctx).rx l = some p from hp]; simp) p hp
    split
    · rfl
    · next b hb => exact absurd (hb.symm.trans hroom) (by simp)

/-- A copy lies in the receive pool (R230, R231). -/
theorem State.placeHere_spec {core ctx p b : Nat} (hpool : (s.domAt core ctx).rx l = some p)
    (hroom : s.room p (s.objAt x.obj).length true = some b) :
    (s.placeHere x l core ctx).objAt x.obj = (s.objAt x.obj).inPool (s.objAt p) p b ∧
      (s.placeHere x l core ctx).transfers = s.withoutTransfer x.obj := by
  have hplace : s.placeHere x l core ctx =
      (({ s with transfers := s.withoutTransfer x.obj } : State).rehome x.obj p b ctx).markMsg x.obj 2 := by
    unfold State.placeHere
    dsimp only
    split
    · next h => exact absurd (h.symm.trans hpool) (by simp)
    · next q hq =>
      obtain rfl : q = p := Option.some.inj (hq.symm.trans hpool)
      split
      · next h => exact absurd (h.symm.trans hroom) (by simp)
      · next d hd =>
        obtain rfl : d = b := Option.some.inj (hd.symm.trans hroom)
        rfl
  rw [hplace]
  exact State.rehome_spec ({ s with transfers := s.withoutTransfer x.obj }) x.obj p b ctx

/-- A message that carries an object, marked as a fallback (R143, R230). -/
def fellBack (o : Nat) (m : Msg) : Msg :=
  if m.pay.any (fun y => isOwn y && objOf y == o) = true ∧ m.form = 2 then
    { m with pay := [m.pay.getD 0 CReg.zero, word64 (.ofNat 64 ((m.pay.getD 1 CReg.zero).lo ||| 1))] }
  else m

theorem State.markMsg_one (s : State) (o : Nat) : s.markMsg o 1 = { s with net := s.net.map (fellBack o) } := by
  have hmark (m : Msg) : (if m.pay.any (fun y => isOwn y && objOf y == o) then setStatus m 1 else m) = fellBack o m := by
    unfold fellBack setStatus
    split
    · next h => simp only [h, true_and, plain_eq_word64]
    · next h => rw [if_neg (fun h' => h h'.1)]
  simp only [State.markMsg, hmark]

end placement

/-! ### TRANSFER_BOUNCE (R233) -/

/-- The transit of an object ends (R224). -/
def State.endTransitOf (s : State) (o : Nat) : State := if (s.objAt o).transit then s.writeEntry o { s.objAt o with transit := false } else s

theorem State.transit_endTransitOf (s : State) (o : Nat) : ((s.endTransitOf o).objAt o).transit = false := by
  unfold State.endTransitOf
  split
  · rw [State.objAt_writeEntry]
  · next h => exact Bool.eq_false_iff.mpr h

/-- An object that is not in transit stays so. -/
theorem State.transit_endTransitOf_of_false {s : State} {o p : Nat} (h : (s.objAt p).transit = false) :
    ((s.endTransitOf o).objAt p).transit = false := by
  by_cases hp : p = o
  · exact hp ▸ s.transit_endTransitOf o
  · unfold State.endTransitOf
    split
    · rw [State.objAt_writeEntry_ne _ _ hp]; exact h
    · exact h

/-- The transit of every object of a list has ended. -/
theorem State.transit_foldl_endTransitOf {o : Nat} (os : List Nat) (s : State) (h : o ∈ os ∨ (s.objAt o).transit = false) :
    ((os.foldl State.endTransitOf s).objAt o).transit = false := by
  induction os generalizing s with
  | nil => exact h.resolve_left (by simp)
  | cons p os ih =>
    refine ih _ ?_
    rcases h with h | h
    · rcases List.mem_cons.mp h with rfl | h
      · exact .inr (s.transit_endTransitOf o)
      · exact .inl h
    · exact .inr (State.transit_endTransitOf_of_false h)

/-- What the end of a transit leaves of the fabric interface, the messages and the domains. -/
def State.interface (s : State) : List Msg × List (Nat × Nat × Nat) × List Msg × Tab Domain := (s.outbox, s.notices, s.net, s.domains)

theorem State.interface_endTransitOf (s : State) (o : Nat) : (s.endTransitOf o).interface = s.interface := by
  unfold State.endTransitOf
  split <;> rfl

theorem State.endTransit_spec (s : State) (m : Msg) : (s.endTransit m).interface = s.interface ∧
    ∀ z ∈ m.pay, isOwn z = true → ((s.endTransit m).objAt (objOf z)).transit = false := by
  refine ⟨foldl_keeps State.interface State.interface_endTransitOf ((m.pay.filter isOwn).map objOf) s, fun z hz hown => ?_⟩
  exact State.transit_foldl_endTransitOf ((m.pay.filter isOwn).map objOf) s
    (.inl (List.mem_map.mpr ⟨z, List.mem_filter.mpr ⟨hz, hown⟩, rfl⟩))

/-- A message of this device that is neither a bounce nor the hardware's goes back to the domain that sent it (R233, R280). -/
theorem State.refuse_spec {s : State} {m : Msg} (hform : m.form < 4) (hdev : m.srcDev = s.devOf m.srcCtx)
    (hdom : s.hasDom m.srcCore m.srcCtx = true) (hland : s.landingOf m = none) (hheld : s.held_ m.srcDev m.srcCore m.srcCtx = false) :
    (s.refuse m).net = s.net ++ [bounceMsg m (s.carriesPoison m)] ∧
    ∀ z ∈ m.pay, isOwn z = true → ((s.refuse m).objAt (objOf z)).transit = false := by
  obtain ⟨hface, htransit⟩ := s.endTransit_spec m
  have hlost : ¬(m.form = 6 ∨ m.form = 5 ∨ m.form = 4) := by omega
  simp only [State.interface, Prod.mk.injEq] at hface
  obtain ⟨houtbox, hnotices, hnet, hdomains⟩ := hface
  have hdom' : (s.endTransit m).hasDom m.srcCore m.srcCtx = true := by rw [State.hasDom, hdomains]; exact hdom
  have hheld' : (s.endTransit m).held_ m.srcDev m.srcCore m.srcCtx = false := by
    rw [State.held_, houtbox, hnotices]; exact hheld
  have hrefuse : s.refuse m = { s.endTransit m with net := s.net ++ [bounceMsg m (s.carriesPoison m)] } := by
    simp only [State.refuse, hland, if_neg hlost, if_pos hdev, hdom', if_true, State.send_]
    rw [← hnet]
    exact if_neg (Bool.eq_false_iff.mp hheld')
  rw [hrefuse]
  exact ⟨rfl, htransit⟩

/-! ### The steps together -/

/-- The result register may be written before or after the instruction retires. -/
theorem Slot.retires_setReg (t : Slot) (n k : Nat) (v : CReg) : (t.setReg k v).retires n = (t.retires n).setReg k v := by
  unfold Slot.retires
  rw [Slot.setReg_pc]
  unfold Slot.setReg
  split <;> rfl

/-- The status word of a commit that every destination has applied (R127). -/
theorem commitStatus_applied (n : Nat) : commitStatus n [] [] = word64 (.ofNat 64 (n % 256 * 2 ^ 40)) := by
  simp [commitStatus, plain_eq_word64, field]

/-- Settles O48: each clause is the step's own lemma, read at the slot, or at the tables, that it speaks of. -/
theorem memoryStepsEndWaits : Obligations.MemoryStepsEndWaits := by
  unfold Obligations.MemoryStepsEndWaits
  intro s c i t alone frozen
  refine ⟨?walk, fun o => ⟨fun h => ?held, leads_entryUpdate c i⟩, ?store, fun a n hstate ⟨hpair, hpend⟩ hpops => ⟨?timeout, ?silence⟩,
    ?commit, ?cleaning, ?placement, ?bounce⟩
  case walk =>
    intro asid page va l die hw ⟨hpair, hpend⟩ hdie v
    have hv : (s.modDie die (fun d => { d with walks := d.walks.erase (asid, page) })).keepTrail die asid va = v := rfl
    obtain ⟨hmem, hcores, -⟩ := State.keepTrail_keeps (s.modDie die (fun d => { d with walks := d.walks.erase (asid, page) })) die asid va
    have hslot : v.slotAt c i = t := by simp only [State.slotAt, State.coreAt, ← hv, hcores]; rfl
    refine ⟨fun p hp => ⟨_, exec_pageWalk hw hdie, ?_⟩, fun x hx => ⟨_, exec_pageWalk hw hdie, ?_⟩⟩
    · obtain ⟨hready, htlb, hkept⟩ := State.walked_ok hv hp (hslot ▸ hpend)
      exact ⟨hready.trans (by rw [hslot]; rfl), htlb, hkept.trans hmem⟩
    · exact (State.walked_error hv hx (hslot ▸ hpair) (hslot ▸ hpend)).trans (by rw [hslot]; rfl)
  case held =>
    change execEntryUpdate o s = _
    simp only [execEntryUpdate, h, if_true]
  case store => exact fun n hstate ⟨_, hpend⟩ hsbuf hn => leads_translationStore hstate hpend hsbuf hn
  case timeout => exact leads_timeout hstate hpair hpend hpops
  case silence =>
    intro r hr hlevel hwaited dev he hlo hhi _
    obtain ⟨u, hu, hslot⟩ := leads_noReply hstate hpair hpend hpops hr hlevel hwaited ⟨hlo, hhi⟩
    refine ⟨u, hu, hslot.trans ?_⟩
    rw [Slot.rolledBack, if_neg he, plain_eq_word64]
    rfl
  case commit =>
    intro r hr x hx hstate ⟨hpair, hpend⟩ hstreams hanswers ans n hn hnow
    have hdests : x.dests ≠ [] := List.ne_nil_of_length_pos hn
    refine ⟨?_, leads_commitOutcome_silent hr hx hstate hanswers hdests⟩
    obtain ⟨u, hu, hslot⟩ := leads_commitOutcome hr hx hstate hpair hpend hstreams hanswers hdests hnow
    rw [List.map_eq_flatMap] at hu
    exact ⟨u, hu, hslot.trans (by rw [Slot.retires_setReg, commitStatus_applied]; rfl)⟩
  case cleaning => exact fun k hk hkind => leads_cleaningDone hk hkind
  case placement =>
    intro o x hx m hm hdev l hl k pool of_ fallback
    have hobj : x.obj = o := by
      have hfound := List.find?_some hx
      simp only [Bool.and_eq_true, beq_iff_eq] at hfound
      exact hfound.1
    have hmade := State.placeTransfer_of_leave hx hm hdev hl
    refine ⟨fun hhalt => ?_, fun hrun hleave hopen => ⟨s.placeTransfer o, rfl, ?_⟩, fun hrun hleave hpool => ⟨s.placeTransfer o, rfl, ?_⟩,
      fun hrun hleave p hp b hb => ⟨s.placeTransfer o, rfl, ?_⟩⟩
    · change execTransferPlacement o s = _
      simp only [execTransferPlacement, State.placeTransfer, hx, clusterOf, show (s.clusterAt _).halted = true from hhalt, if_true]
    · simp only [State.placeTransfer, hx, clusterOf, show (s.clusterAt _).halted = false from hrun, Bool.false_eq_true, if_false,
        if_pos hleave, dieOf, hopen, Bool.not_true]
      exact ⟨rfl, rfl, rfl, trivial⟩
    · rw [hmade hrun hleave, State.placeHere_fallback (hobj ▸ hpool), State.markMsg_one, hobj]
      exact ⟨rfl, rfl, rfl, rfl⟩
    · rw [hmade hrun hleave]
      obtain ⟨hentry, htransfers⟩ := State.placeHere_spec (s := s.returned o x) (x := x) hp (hobj ▸ hb)
      rw [hobj] at hentry htransfers
      rw [hentry]
      exact ⟨rfl, rfl, rfl, htransfers⟩
  case bounce =>
    intro o x hx y hy
    refine ⟨fun hearly => ?_, fun hdue hform hdev hdom hland hheld => ⟨s.refuse y.2, ?_, State.refuse_spec hform hdev hdom hland hheld⟩⟩
    · change execTransferBounce o s = _
      simp only [execTransferBounce, hx, hy, if_neg (Nat.not_le.mpr hearly)]
    · change execTransferBounce o s = _
      simp only [execTransferBounce, hx, hy, if_pos hdue]

end Sys2Proof.Machine

/-! PROOF. What strands do leaves the fabric alone: the device's place in it, and its fences and revoked keys (R350, R354, R355). -/

namespace Sys2Proof.Machine

/-- The device's place in the fabric, the fenced devices and the revoked keys. -/
def State.fabric (s : State) : Nat × (Nat × Nat × Nat × Nat) × List Nat × List Nat := (s.phys, s.extents, s.fenced, s.revoked)

section
variable (s : State)

/-! ### Parts of the state -/

theorem State.fabric_withMem (m : List Host.Cell) : ({ s with mem := m } : State).fabric = s.fabric := rfl
theorem State.fabric_withOut (o : List Output) : ({ s with out := o } : State).fabric = s.fabric := rfl
theorem State.fabric_withHostBuf (b : List HostLine) : ({ s with hostBuf := b } : State).fabric = s.fabric := rfl
@[simp] theorem State.fabric_modCore (c : Nat) (f : Core → Core) : (s.modCore c f).fabric = s.fabric := rfl
@[simp] theorem State.fabric_modSlot (c i : Nat) (f : Slot → Slot) : (s.modSlot c i f).fabric = s.fabric := rfl
@[simp] theorem State.fabric_modCur (f : Slot → Slot) : (s.modCur f).fabric = s.fabric := rfl
@[simp] theorem State.fabric_modDom (c a : Nat) (f : Domain → Domain) : (s.modDom c a f).fabric = s.fabric := rfl
@[simp] theorem State.fabric_modPart (p : Nat) (f : Partition → Partition) : (s.modPart p f).fabric = s.fabric := rfl
@[simp] theorem State.fabric_modCluster (c : Nat) (f : Cluster → Cluster) : (s.modCluster c f).fabric = s.fabric := rfl
@[simp] theorem State.fabric_modDie (d : Nat) (f : Die → Die) : (s.modDie d f).fabric = s.fabric := rfl
@[simp] theorem State.fabric_setTag (a : Nat) (t : Bool) : (s.setTag a t).fabric = s.fabric := rfl
@[simp] theorem State.fabric_setField (l : Nat) (m : Mordant) : (s.setField l m).fabric = s.fabric := rfl
@[simp] theorem State.fabric_drawn : s.drawn.fabric = s.fabric := rfl
@[simp] theorem State.fabric_count (c a k n : Nat) : (s.count c a k n).fabric = s.fabric := rfl
@[simp] theorem State.fabric_hardSet (c a k : Nat) : (s.hardSet c a k).fabric = s.fabric := rfl
@[simp] theorem State.fabric_writeEntry (o : Nat) (e : Obj) : (s.writeEntry o e).fabric = s.fabric := rfl
@[simp] theorem State.fabric_purgeTlbs (o : Nat) : (s.purgeTlbs o).fabric = s.fabric := rfl
@[simp] theorem State.fabric_rereadLines (c : Nat) : (s.rereadLines c).fabric = s.fabric := rfl
@[simp] theorem State.fabric_writeGranule (a : Nat) (v : CReg) : (s.writeGranule a v).fabric = s.fabric := rfl
@[simp] theorem State.fabric_noteEnd (c i : Nat) : (s.noteEnd c i).fabric = s.fabric := rfl
@[simp] theorem State.fabric_endHandle (c a k : Nat) (r : CReg) (x : Carried) : (s.endHandle c a k r x).fabric = s.fabric := rfl
@[simp] theorem State.fabric_tableTouch (c a : Nat) (w : Bool) (k : Nat) : (s.tableTouch c a w k).fabric = s.fabric := rfl
@[simp] theorem State.fabric_ringPut (r : TraceRec) : (s.ringPut r).fabric = s.fabric := by
  unfold State.fabric
  rw [State.ringPut]

theorem State.fabric_foldl {α : Type} {f : State → α → State} (h : ∀ (s : State) x, (f s x).fabric = s.fabric) (l : List α) :
    (l.foldl f s).fabric = s.fabric := foldl_keeps State.fabric h l s

/-! ### Memory and the L1 -/

@[simp] theorem State.fabric_countLoss (c a k n : Nat) : (s.countLoss c a k n).fabric = s.fabric := by
  unfold State.countLoss
  split <;> rfl

@[simp] theorem State.fabric_countLost (ls : List L1Line) : (s.countLost ls).fabric = s.fabric :=
  s.fabric_foldl (fun s l => by dsimp only; split; exacts [s.fabric_countLoss .., rfl]) ls

@[simp] theorem State.fabric_clearTags (a n : Nat) : (s.clearTags a n).fabric = s.fabric := by
  unfold State.clearTags
  split <;> rfl

@[simp] theorem State.fabric_writeLevel (a : Nat) (bs : List Byte) : (s.writeLevel a bs).fabric = s.fabric :=
  State.fabric_clearTags { s with mem := Memory.write s.mem a bs } a bs.length

@[simp] theorem State.fabric_writeLevelSome (a : Nat) (bs : List (Option Byte)) : (s.writeLevelSome a bs).fabric = s.fabric := by
  induction bs generalizing s a with
  | nil => rfl
  | cons b bs ih =>
    cases b with
    | none => exact ih s (a + 1)
    | some b => exact (ih _ _).trans (s.fabric_writeLevel a [b])

@[simp] theorem State.fabric_syncLines (c a n : Nat) : (s.syncLines c a n).fabric = s.fabric :=
  (State.fabric_countLost _ _).trans (s.fabric_modCore c _)

@[simp] theorem State.fabric_writeBackLine (l : L1Line) : (s.writeBackLine l).fabric = s.fabric :=
  s.fabric_foldl (fun s g => by dsimp only; split <;> rfl) _

@[simp] theorem State.fabric_loseLine (c : Nat) (l : L1Line) : (s.loseLine c l).fabric = s.fabric :=
  (State.fabric_countLost _ _).trans (s.fabric_writeBackLine l)

@[simp] theorem State.fabric_fillLine (c asid o a loc : Nat) : (s.fillLine c asid o a loc).fabric = s.fabric := by
  unfold State.fillLine
  dsimp only
  repeat' split
  all_goals simp

@[simp] theorem State.fabric_writeBackObj (c o : Nat) : (s.writeBackObj c o).fabric = s.fabric :=
  s.fabric_foldl State.fabric_writeBackLine _

@[simp] theorem State.fabric_zeroGranule (c o a : Nat) : (s.zeroGranule c o a).fabric = s.fabric := by
  unfold State.zeroGranule
  dsimp only
  repeat' split
  all_goals simp

/-! ### Race records (R303, R314) -/

@[simp] theorem State.fabric_recordWrite (p : Party) (o loc a n w : Nat) : (s.recordWrite p o loc a n w).fabric = s.fabric := by
  unfold State.recordWrite
  extract_lets m mark
  split
  · rfl
  · split
    · exact s.fabric_foldl (fun s _ => s.fabric_setField _ m) _
    · split <;> rfl

@[simp] theorem State.fabric_reportWrite (o a : Nat) (bs : List Byte) : (s.reportWrite o a bs).fabric = s.fabric := by
  have hwrite : ((s.writeLevel a bs).syncLines (s.objAt o).ownCore a bs.length).fabric = s.fabric := by simp
  unfold State.reportWrite
  dsimp only
  split
  · exact (State.fabric_foldl _ (fun s _ => s.fabric_setField _ _) _).trans hwrite
  · exact hwrite

@[simp] theorem State.fabric_appendReport (cap : CReg) (rec : List Word) : (s.appendReport cap rec).1.fabric = s.fabric := by
  unfold State.appendReport
  dsimp only
  repeat' split
  all_goals simp

@[simp] theorem State.fabric_closeRecord (c : Nat) : (s.closeRecord c).fabric = s.fabric := by
  unfold State.closeRecord
  dsimp only
  repeat' split
  all_goals simp

@[simp] theorem State.fabric_reportRace (c : Nat) (dw : List Word) : (s.reportRace c dw).fabric = s.fabric := by
  unfold State.reportRace
  dsimp only
  repeat' split
  all_goals simp

@[simp] theorem State.fabric_judge (p : Party) (races : List (List Word)) : (s.judge p races).1.fabric = s.fabric := by
  unfold State.judge
  dsimp only
  repeat' split
  case h_1 => rfl
  case h_2.isFalse.isTrue => exact State.fabric_foldl _ (fun s dw => s.fabric_reportRace p.core dw) _
  all_goals exact s.fabric_count ..

/-! ### The host write buffer and the store buffer (R250, R255) -/

@[simp] theorem State.fabric_hostDrain : s.hostDrain.fabric = s.fabric := by
  unfold State.hostDrain
  split <;> rfl

@[simp] theorem State.fabric_hostClear : s.hostClear.fabric = s.fabric := s.fabric_foldl (fun s _ => s.fabric_hostDrain) _

@[simp] theorem State.fabric_hostFlush (who : Nat × Nat) (n : Nat) : (s.hostFlush who n).fabric = s.fabric := by
  induction n generalizing s with
  | zero => rfl
  | succ n ih =>
    unfold State.hostFlush
    split
    · exact (ih _).trans s.fabric_hostDrain
    · rfl

theorem State.fabric_hostEnter {t : State} {addr obj : Nat} {bs : List (Option Byte)} {who : Nat × Nat}
    (h : s.hostEnter addr obj bs who = some t) : t.fabric = s.fabric := by
  unfold State.hostEnter at h
  dsimp only at h
  repeat' split at h
  case h_1.isFalse.isTrue => contradiction
  all_goals exact Option.some.inj h ▸ rfl

/-- A store that is performed. -/
theorem State.fabric_performStore {t : State} {c i : Nat} {e : StoreEntry} (h : s.performStore c i e = some t) : t.fabric = s.fabric := by
  unfold State.performStore at h
  extract_lets o u n v filled w p at h
  have hv : v.fabric = s.fabric := by unfold v; split <;> simp
  have hfilled : filled.fabric = s.fabric := (v.fabric_fillLine ..).trans hv
  have hw : w.fabric = s.fabric := by
    unfold w
    repeat' split
    · rw [State.fabric_modSlot, State.fabric_modCore, hfilled]
    · exact hfilled
    · rw [State.fabric_setTag, State.fabric_withMem, hv]
    · rw [State.fabric_writeLevelSome, hv]
  split at h
  · obtain ⟨x, hx, rfl⟩ := Option.map_eq_some_iff.mp h
    exact (State.fabric_hostEnter _ hx).trans hv
  · split at h
    · exact Option.some.inj h ▸ hv
    · obtain rfl := Option.some.inj h
      split
      · exact (w.fabric_recordWrite ..).trans hw
      · exact hw

theorem State.fabric_drainOne {t : State} {c i : Nat} (h : s.drainOne c i = some t) : t.fabric = s.fabric := by
  unfold State.drainOne at h
  split at h
  · contradiction
  · split at h
    · contradiction
    · split at h
      · next u hu =>
        obtain rfl := Option.some.inj h
        exact (State.fabric_performStore _ hu).trans (s.fabric_modSlot c i _)
      · contradiction

@[simp] theorem State.fabric_drainSteps (c i n : Nat) : (s.drainSteps c i n).fabric = s.fabric := by
  induction n generalizing s with
  | zero => rfl
  | succ n ih =>
    unfold State.drainSteps
    split
    · next t ht => exact (ih t).trans (s.fabric_drainOne ht)
    · split
      · next t ht => exact (ih t).trans ((State.fabric_drainOne _ ht).trans s.fabric_hostDrain)
      · rfl

@[simp] theorem State.fabric_drain (c i : Nat) : (s.drain c i).fabric = s.fabric := s.fabric_drainSteps ..

@[simp] theorem State.fabric_drainObj (o : Nat) : (s.drainObj o).fabric = s.fabric :=
  s.fabric_foldl (fun s k => s.fabric_foldl (fun s t => by split; exacts [s.fabric_drain .., rfl]) _) _

@[simp] theorem State.fabric_zeroReads (c i : Nat) (ok : Nat → Bool) : (s.zeroReads c i ok).fabric = s.fabric := by
  unfold State.zeroReads
  dsimp only
  split
  · rw [State.fabric_withOut, State.fabric_modSlot]
  · rfl

@[simp] theorem State.fabric_releaseAll (c i : Nat) (sc : Scope) : (s.releaseAll c i sc).fabric = s.fabric := by
  have hback (t : State) (l : List Nat) : (l.foldl (fun s o => s.writeBackObj c o) t).fabric = t.fabric :=
    t.fabric_foldl (fun s o => s.fabric_writeBackObj c o) l
  have hlines (t : State) (l : List Nat) : (l.foldl (fun s _ => s.hostDrain) t).fabric = t.fabric :=
    t.fabric_foldl (fun s _ => s.fabric_hostDrain) l
  unfold State.releaseAll
  extract_lets u v w d p tenant n x
  have hw : w.fabric = s.fabric := by simp [w, v, u, hback]
  split
  · split
    · simp [x, hlines, hw]
    · simp [hw]
  · rw [State.fabric_withHostBuf, hw]

/-! ### Clocks and the release table (R297, R300) -/

@[simp] theorem State.fabric_modClock (c i : Nat) (f : Nat → Slot → List Nat) : (s.modClock c i f).fabric = s.fabric := by
  unfold State.modClock
  dsimp only
  repeat' split
  all_goals simp

@[simp] theorem State.fabric_acquireAt (c i : Nat) (x : Carried) : (s.acquireAt c i x).fabric = s.fabric := by
  unfold State.acquireAt
  split <;> simp

@[simp] theorem State.fabric_tickAt (c i : Nat) : (s.tickAt c i).fabric = s.fabric := s.fabric_modClock ..

@[simp] theorem State.fabric_tableRelease (c a : Nat) (w : Bool) (k : Nat) (x : Carried) : (s.tableRelease c a w k x).fabric = s.fabric := by
  unfold State.tableRelease State.foldRelease
  dsimp only
  repeat' split
  all_goals simp

@[simp] theorem State.fabric_tableAcquire (c i : Nat) (w : Bool) (k : Nat) : (s.tableAcquire c i w k).fabric = s.fabric := by
  unfold State.tableAcquire
  dsimp only
  split <;> simp

/-! ### Traces and packets (R319, R396) -/

@[simp] theorem State.fabric_trace (cls part core slot asid pc d : Nat) : (s.trace cls part core slot asid pc d).fabric = s.fabric := by
  unfold State.trace State.traceOp State.traceOwn
  dsimp only
  repeat' split
  all_goals simp

@[simp] theorem State.fabric_traceFreeze (c i d : Nat) : (s.traceFreeze c i d).fabric = s.fabric := s.fabric_trace ..

@[simp] theorem State.fabric_send_ (m : Msg) : (s.send_ m).fabric = s.fabric := by
  unfold State.send_
  split <;> rfl

@[simp] theorem State.fabric_toSupervisor (part core : Nat) (dw rec : List Word) : (s.toSupervisor part core dw rec).fabric = s.fabric := by
  unfold State.toSupervisor
  split
  · rfl
  · exact s.fabric_send_ _

@[simp] theorem State.fabric_sendPacket (part to_ core : Nat) (dw rec : List Word) : (s.sendPacket part to_ core dw rec).fabric = s.fabric := by
  unfold State.sendPacket
  dsimp only
  split
  · rw [State.fabric_withOut, State.fabric_modPart]
  · simp

@[simp] theorem State.fabric_informPacket (part core asid kind slot : Nat) (f : FaultInfo) :
    (s.informPacket part core asid kind slot f).fabric = s.fabric := s.fabric_sendPacket ..

@[simp] theorem State.fabric_sendStrandPacket (c i : Nat) (f : FaultInfo) (dw : List Word) :
    (s.sendStrandPacket c i f dw).fabric = s.fabric := s.fabric_sendPacket ..

/-! ### Strands that stop (R157, R317, R333) -/

@[simp] theorem State.fabric_dropShades (t : Slot) : (s.dropShades t).fabric = s.fabric :=
  s.fabric_foldl (fun s p => by split <;> rfl) _

@[simp] theorem State.fabric_dropFrame (t : Slot) : (s.dropFrame t).fabric = s.fabric := by
  unfold State.dropFrame
  dsimp only
  repeat' split
  all_goals rfl

theorem State.fabric_withWaiters (w : List Waiter) : ({ s with waiters := w } : State).fabric = s.fabric := rfl

@[simp] theorem State.fabric_vacate (c i : Nat) : (s.vacate c i).fabric = s.fabric := by
  unfold State.vacate
  dsimp only
  rw [State.fabric_modSlot, State.fabric_modCore, State.fabric_withWaiters, State.fabric_dropFrame, State.fabric_noteEnd]

@[simp] theorem State.fabric_killSlot (c i code : Nat) : (s.killSlot c i code).fabric = s.fabric := by
  unfold State.killSlot
  dsimp only
  repeat' split
  all_goals simp

@[simp] theorem State.fabric_endOut (c i : Nat) : (s.endOut c i).fabric = s.fabric := by
  unfold State.endOut
  split <;> simp

@[simp] theorem State.fabric_killStrand (c i code : Nat) : (s.killStrand c i code).fabric = s.fabric := by
  unfold State.killStrand
  dsimp only
  repeat' split
  all_goals simp

@[simp] theorem State.fabric_stopAt (c i code : Nat) : (s.stopAt c i code).fabric = s.fabric := by simp [State.stopAt]

@[simp] theorem State.fabric_pairMismatch (c lead what loc : Nat) : (s.pairMismatch c lead what loc).fabric = s.fabric := by
  simp [State.pairMismatch]

theorem State.fabric_withWaitersCores (w : List Waiter) (k : Tab Core) :
    ({ s with waiters := w, cores := k } : State).fabric = s.fabric := rfl

@[simp] theorem State.fabric_fireTrigger (cl : Nat) : (s.fireTrigger cl).fabric = s.fabric := by
  unfold State.fireTrigger
  extract_lets inCl u hit v
  rw [State.fabric_withWaitersCores]
  exact u.fabric_foldl (fun s x => s.fabric_traceFreeze ..) hit

@[simp] theorem State.fabric_freezeAt (c i : Nat) (f : FaultInfo) : (s.freezeAt c i f).fabric = s.fabric := by
  have hafter (t : State) (code : Nat) : (t.afterFreeze c code).fabric = t.fabric := by
    unfold State.afterFreeze
    dsimp only
    split <;> simp
  unfold State.freezeAt
  dsimp only
  repeat' split
  all_goals simp [hafter]

@[simp] theorem State.fabric_freeze (f : FaultInfo) : (s.freeze f).fabric = s.fabric := s.fabric_freezeAt ..

@[simp] theorem State.fabric_stopPair (c i : Nat) (dw rec : List Word) : (s.stopPair c i dw rec).fabric = s.fabric := by
  simp [State.stopPair]

@[simp] theorem State.fabric_boundary (c i : Nat) : (s.boundary c i).fabric = s.fabric := by
  unfold State.boundary
  dsimp only
  repeat' split
  all_goals simp

@[simp] theorem State.fabric_freeLoop (c : Nat) : (s.freeLoop c).fabric = s.fabric := by
  unfold State.freeLoop
  dsimp only
  repeat' split
  all_goals simp

@[simp] theorem State.fabric_retire (n : Nat) (f : Flow) : (s.retire n f).fabric = s.fabric := by
  unfold State.retire
  dsimp only
  repeat' split
  all_goals simp

@[simp] theorem State.fabric_askWalk (c : Nat) (w : Wait) : (s.askWalk c w).fabric = s.fabric := by
  unfold State.askWalk
  split <;> simp

@[simp] theorem State.fabric_parked (w : Wait) : (s.parked w).fabric = s.fabric := by simp [State.parked]

@[simp] theorem State.fabric_failRegionAt (c i code dev : Nat) : (s.failRegionAt c i code dev).fabric = s.fabric := by
  unfold State.failRegionAt
  extract_lets t
  split
  · rfl
  · extract_lets regs t' u d v w x due y len
    have hv : v.fabric = s.fabric := by unfold v; split <;> rfl
    have hw : w.fabric = s.fabric := by unfold w; split <;> exact hv
    have hy : y.fabric = s.fabric := by
      unfold y
      split
      · split
        · rw [State.fabric_informPacket, State.fabric_modDom, State.fabric_count, hw]
        · exact hw
      · exact hw
    split
    · exact hy
    · rw [State.fabric_freezeAt, State.fabric_modSlot, hy]

@[simp] theorem State.fabric_putBack (c i : Nat) (a : Access) : (s.putBack c i a).fabric = s.fabric :=
  s.fabric_foldl (fun s _ => s.fabric_modSlot ..) _

end

end Sys2Proof.Machine

/-! PROOF. Instructions of strands leave the fabric alone, and so do their waits when they end (R125, R131, R226, R335). -/

namespace Sys2Proof.Machine

/-! ### Actions -/

/-- Both states of an instruction under way are of one fabric. -/
def Ctx.InFabric (F : Nat × (Nat × Nat × Nat × Nat) × List Nat × List Nat) (c : Ctx) : Prop := c.st0.fabric = F ∧ c.st.fabric = F

/-- The state that a stop keeps is of one fabric. -/
def Stop.InFabric (F : Nat × (Nat × Nat × Nat × Nat) × List Nat × List Nat) : Stop → Prop
  | .freezeIn s _ | .park s _ => s.fabric = F
  | _ => True

/-- An action stays in a fabric, whether it ends or stops. -/
structure Act.Stays (F : Nat × (Nat × Nat × Nat × Nat) × List Nat × List Nat) {α : Type} (x : Act α) : Prop where
  run : ∀ c : Ctx, c.InFabric F → match x.run c with
    | .ok r => r.2.InFabric F
    | .error e => e.InFabric F

namespace Act.Stays

section
variable {F : Nat × (Nat × Nat × Nat × Nat) × List Nat × List Nat} {α β : Type}

theorem pure (x : α) : Act.Stays F (Pure.pure x : Act α) := ⟨fun _ h => h⟩

theorem bind {x : Act α} {f : α → Act β} (hx : Act.Stays F x) (hf : ∀ a, Act.Stays F (f a)) : Act.Stays F (x >>= f) := by
  refine ⟨fun c hc => ?_⟩
  have h := hx.run c hc
  rw [Act.run_bind]
  cases hr : x.run c with
  | error e => rw [hr] at h; exact h
  | ok r => rw [hr] at h; exact (hf r.1).run r.2 h

theorem get_bind {f : Ctx → Act β} (hf : ∀ c : Ctx, c.InFabric F → Act.Stays F (f c)) : Act.Stays F ((get : Act Ctx) >>= f) :=
  ⟨fun c hc => (hf c hc).run c hc⟩

theorem getS_bind {f : State → Act β} (hf : ∀ s : State, s.fabric = F → Act.Stays F (f s)) : Act.Stays F (getS >>= f) :=
  ⟨fun c hc => (hf c.st hc.2).run c hc⟩

theorem me_bind {f : Slot → Act β} (hf : ∀ t : Slot, Act.Stays F (f t)) : Act.Stays F (me >>= f) :=
  ⟨fun c hc => (hf c.st.cur).run c hc⟩

theorem ite {p : Prop} [Decidable p] {x y : Act α} (hx : Act.Stays F x) (hy : Act.Stays F y) : Act.Stays F (if p then x else y) := by
  split
  · exact hx
  · exact hy

theorem throw {e : Stop} (h : e.InFabric F) : Act.Stays F (MonadExcept.throw e : Act α) := ⟨fun _ _ => h⟩

theorem stopWith (f : FaultInfo) : Act.Stays F (Machine.stopWith f : Act α) := ⟨fun _ _ => trivial⟩
theorem illegal : Act.Stays F (Machine.illegal : Act α) := ⟨fun _ _ => trivial⟩
theorem waitFor (w : Wait) : Act.Stays F (Machine.waitFor w : Act α) := ⟨fun _ _ => trivial⟩

theorem until_ (b : Bool) (w : Wait) : Act.Stays F (Machine.until_ b w) := by
  unfold Machine.until_
  exact ite (pure ()) (waitFor w)

theorem checked (r : Except FaultInfo α) : Act.Stays F (Machine.checked r) := by
  cases r with
  | ok x => exact pure x
  | error f => exact stopWith f

theorem modS {f : State → State} (h : ∀ s : State, (f s).fabric = s.fabric) : Act.Stays F (Machine.modS f) :=
  ⟨fun _ hc => ⟨hc.1, (h _).trans hc.2⟩⟩

theorem putS {s : State} (h : s.fabric = F) : Act.Stays F (Machine.putS s) := ⟨fun _ hc => ⟨hc.1, h⟩⟩

theorem parkWith {f : State → State} (w : Wait) (h : ∀ s : State, (f s).fabric = s.fabric) : Act.Stays F (Machine.parkWith f w : Act α) :=
  ⟨fun c hc => (h c.st0).trans hc.1⟩

theorem naming {x : Act α} (i : Nat) (h : Act.Stays F x) : Act.Stays F (Machine.naming i x) := by
  refine ⟨fun c hc => ?_⟩
  have h := h.run c hc
  change match Machine.naming i x c with | .ok r => r.2.InFabric F | .error e => e.InFabric F
  unfold Machine.naming
  rcases hr : x.run c with e | r <;> rw [hr] at h
  · cases e <;> exact h
  · exact h

end

end Act.Stays

section
variable {F : Nat × (Nat × Nat × Nat × Nat) × List Nat × List Nat}

/-! ### Checks and races -/

theorem raced_stays (p : Party) (races : List (List Word)) : Act.Stays F (raced p races) := by
  unfold raced
  refine .get_bind fun c hc => ?_
  split
  next r h => exact .throw ((State.fabric_judge ..).trans hc.1)
  next s h => exact .putS ((congrArg (·.1.fabric) h).symm.trans ((State.fabric_judge ..).trans hc.2))

theorem raceCheck_stays (own : Bool) (o loc a n : Nat) (w : Bool) : Act.Stays F (raceCheck own o loc a n w) :=
  .getS_bind fun _ _ => .ite (raced_stays ..) (.pure ())

theorem raceElems_stays (own : Bool) (o b : Nat) (w : Bool) (ps : List (Nat × Nat × Nat)) : Act.Stays F (raceElems own o b w ps) := by
  refine .getS_bind fun s _ => .ite ?_ (.pure ())
  dsimp only
  split
  · exact .pure ()
  · exact .naming _ (raced_stays ..)

theorem awaitLines_stays (own : Bool) (o loc a n : Nat) : Act.Stays F (awaitLines own o loc a n) := by
  refine .getS_bind fun s _ => ?_
  split
  · exact .waitFor _
  · exact .pure ()

theorem awaitEntry_stays (o : Nat) : Act.Stays F (awaitEntry o) := .getS_bind fun _ _ => .until_ ..

theorem headed_stays (c : CReg) (r : Except FaultInfo Obj) : Act.Stays F (headed c r) := by
  cases r with
  | ok e => exact .bind (awaitEntry_stays _) fun _ => .pure e
  | error f => exact .ite (.bind (awaitEntry_stays _) fun _ => .stopWith f) (.stopWith f)

theorem checkCapV_stays (op : Op) (c : CReg) (reg opnd : Nat) (off : Int) (n align : Nat) :
    Act.Stays F (checkCapV op c reg opnd off n align) :=
  .getS_bind fun _ _ => .bind (headed_stays ..) fun _ => .bind (.checked _) fun _ =>
    .ite (.bind (.checked _) fun _ => .bind (.until_ ..) fun _ => .pure _) (.pure _)

theorem flatAct_stays (o loc : Nat) : Act.Stays F (flatAct o loc) := by
  refine .getS_bind fun s _ => ?_
  dsimp only
  refine .ite (.pure _) ?_
  split
  · exact .ite (.pure _) (.stopWith _)
  · exact .ite (.waitFor _) (.waitFor _)

/-! ### Stores and effects -/

theorem pushStore_stays (e : StoreEntry) : Act.Stays F (pushStore e) := by
  refine .me_bind fun t => .ite (.bind (.until_ ..) fun _ => .modS fun _ => rfl) (.getS_bind fun s _ => ?_)
  dsimp only
  split
  · exact .ite (.modS fun _ => rfl) (.ite (.waitFor _) (.bind (.until_ ..) fun _ => .modS fun _ => rfl))
  · exact .ite (.parkWith _ fun _ => rfl) (.modS fun _ => rfl)

theorem storeBytes_stays (own : Bool) (o loc a : Nat) (bs : List (Option Byte)) (cap : Option Bool) :
    Act.Stays F (storeBytes own o loc a bs cap) :=
  .bind (awaitLines_stays ..) fun _ => .bind (raceCheck_stays ..) fun _ => .me_bind fun _ => .getS_bind fun _ _ => pushStore_stays _

theorem appendStream_stays (k : CR) (b : Stream) (v : CReg) : Act.Stays F (appendStream k b v) :=
  .ite (.stopWith _) (.bind (checkCapV_stays ..) fun _ => .bind (flatAct_stays ..) fun _ => .bind (storeBytes_stays ..) fun _ =>
    .modS fun _ => rfl)

theorem dst_stays (k : CR) (v : CReg) : Act.Stays F (dst k v) := by
  refine .me_bind fun t => ?_
  split
  · exact .ite (appendStream_stays ..) (.pure ())
  · exact .modS fun _ => rfl

theorem takeLvq_stays : Act.Stays F takeLvq := by
  refine .getS_bind fun s _ => .me_bind fun t => ?_
  split
  · split
    · exact .throw trivial
    · exact .bind (.modS fun _ => rfl) fun _ => .pure _
  · exact .waitFor _

theorem outside_stays {x : Act CReg} (h : Act.Stays F x) : Act.Stays F (outside x) := by
  have hrest : Act.Stays F (do let v ← x; modS (fun s => s.pushLvq s.core s.slot v); return v : Act CReg) :=
    .bind h fun _ => .bind (.modS fun _ => rfl) fun _ => .pure _
  exact .me_bind fun t => .ite takeLvq_stays (.ite (.bind (.until_ ..) fun _ => hrest) hrest)

theorem popStream_stays (k : CR) (b : Stream) : Act.Stays F (popStream k b) := by
  refine .ite (.stopWith _) (.bind (checkCapV_stays ..) fun spot => ?_)
  dsimp only
  split
  · have hrest (t : Tab Stream) (v : CReg) : Act.Stays F (do
        modS (fun s => s.modCur (fun u => { u with streams := t })); return v : Act CReg) := .bind (.modS fun _ => rfl) fun _ => .pure _
    refine .ite (.get_bind fun c hc => ?_) (.bind (.modS fun _ => rfl) fun _ => .pure _)
    split
    next r h => exact .throw ((State.fabric_modCur ..).trans ((State.fabric_judge ..).trans hc.1))
    next s h =>
      exact .bind (.putS ((congrArg (·.1.fabric) h).symm.trans ((State.fabric_judge ..).trans hc.2))) fun _ =>
        .bind (.modS fun _ => rfl) fun _ => .pure _
  · exact .bind (flatAct_stays ..) fun a => .getS_bind fun s _ =>
      .ite (.bind (raceCheck_stays ..) fun _ => .bind (.modS fun _ => rfl) fun _ => .pure _) (.waitFor _)

theorem src_stays (k : CR) : Act.Stays F (src k) := by
  refine .get_bind fun c hc => ?_
  split
  · exact .pure _
  · dsimp only
    split
    · exact .bind (outside_stays (popStream_stays ..)) fun v => .bind ⟨fun c hc => hc⟩ fun _ => .pure _
    · exact .pure _

theorem dirs_stays (reads writes : List CR) : Act.Stays F (dirs reads writes) := .me_bind fun _ => .ite .illegal (.pure ())

theorem effect_stays {x : Act Unit} (ops : List CReg) (loc : Nat) (data : List CReg) (h : Act.Stays F x) :
    Act.Stays F (effect ops loc x data) := by
  refine .me_bind fun t => .getS_bind fun s _ => .ite h ?_
  split
  · exact .ite (.bind (.modS fun _ => rfl) fun _ => .ite h (.pure ())) (.ite (.waitFor _) (.parkWith _ fun _ => rfl))
  · exact .parkWith _ fun _ => rfl

theorem effectV_stays {x : Act CReg} {f : CReg → Act Unit} (ops : List CReg) (loc : Nat) (hx : Act.Stays F x)
    (hf : ∀ v, Act.Stays F (f v)) : Act.Stays F (effectV ops loc x f) :=
  .me_bind fun _ => .bind (effect_stays _ _ _ (.bind (outside_stays hx) hf)) fun _ =>
    .ite (.bind takeLvq_stays hf) (.pure ())

/-! ### Atomics and loaded values (R134, R148, R255) -/

theorem takeGranule_stays (own : Bool) (reg o loc a : Nat) : Act.Stays F (takeGranule own reg o loc a) := by
  refine .getS_bind fun s _ => ?_
  dsimp only
  refine .ite (.stopWith _) (.bind (raceCheck_stays ..) fun _ => .ite ?_ (.pure _))
  exact .bind (.modS fun s => by simp) fun _ => .bind (.modS fun s => s.fabric_recordWrite ..) fun _ => .pure _

theorem awaitRemote_stays (sc : Scope) : Act.Stays F (awaitRemote sc) := .getS_bind fun _ _ => .until_ ..

theorem releaseMe_stays (sc : Scope) : Act.Stays F (releaseMe sc) :=
  .bind (awaitRemote_stays sc) fun _ => .modS fun s => s.fabric_releaseAll ..

theorem tickMe_stays : Act.Stays F tickMe := .getS_bind fun _ _ => .bind (.until_ ..) fun _ => .modS fun s => s.fabric_tickAt ..

theorem myClock_stays : Act.Stays F myClock := .getS_bind fun _ _ => .pure _

theorem acquireWord_stays (w : Nat) : Act.Stays F (acquireWord w) := .modS fun s => s.fabric_tableAcquire ..

theorem releaseWord_stays (w : Nat) : Act.Stays F (releaseWord w) :=
  .bind (releaseMe_stays _) fun _ => .bind tickMe_stays fun _ => .bind myClock_stays fun _ => .modS fun s => s.fabric_tableRelease ..

theorem joinList_stays {α : Type} (w op : Nat) : Act.Stays F (joinList w op : Act α) :=
  .getS_bind fun _ _ => .me_bind fun _ => .ite (.parkWith _ fun _ => rfl) (.waitFor _)

theorem syncWord_stays (c : CReg) (reg : Nat) (off : Int) (n : Nat) : Act.Stays F (syncWord c reg off n) :=
  .bind (checkCapV_stays ..) fun _ => .bind (flatAct_stays ..) fun _ => .pure _

theorem State.fabric_atomicAt (s : State) (k : Atomic) (a x y : Nat) : (s.atomicAt k a x y).2.fabric = s.fabric := rfl

theorem wordAtomic_stays (k : Atomic) (w a x y : Nat) : Act.Stays F (wordAtomic k w a x y) := by
  refine .bind (.modS fun s => s.fabric_drain ..) fun _ => .getS_bind fun _ _ => .ite (joinList_stays ..) (.ite (.stopWith _) ?_)
  exact .bind (releaseMe_stays _) fun _ => .bind (acquireWord_stays _) fun _ => .getS_bind fun s hs =>
    .bind (.putS ((s.fabric_atomicAt ..).trans hs)) fun _ => .bind (releaseWord_stays _) fun _ => .pure _

theorem hostAtomic_stays (k : Atomic) (op : Nat) (c : CReg) (x y : Nat) : Act.Stays F (hostAtomic k op c x y true) := by
  refine .bind (checkCapV_stays ..) fun spot => .bind (flatAct_stays ..) fun a => .getS_bind fun s hs => ?_
  exact .bind (.putS ((s.fabric_atomicAt ..).trans hs)) fun _ => .bind (acquireWord_stays _) fun _ => .bind tickMe_stays fun _ =>
    .bind myClock_stays fun _ => .bind (.modS fun s => s.fabric_tableRelease ..) fun _ => .pure _

theorem atomicAct_stays (k : Atomic) : Act.Stays F (atomicAct k true) := by
  unfold atomicAct
  refine .bind (dirs_stays ..) fun _ => .bind (src_stays _) fun c => .bind (src_stays _) fun b => ?_
  extract_lets put operand done finish
  have hfinish (x : CReg) : Act.Stays F (finish x) := by
    have hword (w a loc : Nat) : Act.Stays F (effectV [c, b, x] loc (wordAtomic k w a (lowBytes b k.n) (lowBytes x k.n)) (dst k.d)) :=
      effectV_stays _ _ (wordAtomic_stays ..) fun _ => dst_stays ..
    have hhost : Act.Stays F (hostAtomic k (k.host.getD 0) c (lowBytes b k.n) (lowBytes x k.n) true) := hostAtomic_stays ..
    refine .ite (.ite (.bind hhost fun v => .bind (.modS fun _ => rfl) fun _ => .bind (dst_stays ..) fun _ => .pure _)
      (.bind (effectV_stays _ _ hhost fun _ => dst_stays ..) fun _ => .pure _)) (.getS_bind fun s _ => ?_)
    exact .ite (.bind (.stopWith _) fun _ => .bind (syncWord_stays ..) fun y => .bind (hword ..) fun _ => .pure _)
      (.bind (syncWord_stays ..) fun y => .bind (hword ..) fun _ => .pure _)
  exact .ite (.bind (src_stays _) hfinish) (.bind (.pure _) hfinish)

theorem deliverReply_stays (a : Access) (bs : List Byte) : Act.Stays F (deliverReply a bs) := by
  refine .getS_bind fun s _ => ?_
  refine .ite ?_ (.ite ?_ ?_)
  · exact .bind (.modS fun _ => rfl) fun _ => .bind (.modS fun _ => rfl) fun _ => .pure _
  · exact .bind (takeGranule_stays ..) fun _ => .bind (.modS fun _ => rfl) fun _ => .bind (dst_stays ..) fun _ => .pure _
  · exact .bind (.modS fun _ => rfl) fun _ => .bind (dst_stays ..) fun _ => .pure _

/-! ### Waits that end -/

section
variable (s : State)

theorem State.fabric_asSlot (c i len : Nat) {f : State → State} (h : ∀ u : State, u.fabric = s.fabric → (f u).fabric = s.fabric) :
    (s.asSlot c i len f).fabric = s.fabric := h { s with core := c, slot := i, ir := (s.slotAt c i).insn, replaying := len == 0 } rfl

theorem State.fabric_finishBy (c i len : Nat) {back : State → State} {x : Act Flow} (hback : ∀ s : State, (back s).fabric = s.fabric)
    (hx : Act.Stays s.fabric x) : (s.finishBy c i len back x).fabric = s.fabric := by
  refine s.fabric_asSlot c i len fun u hu => ?_
  extract_lets ready was
  have hready : ready.fabric = s.fabric := hu
  have hwas : was.fabric = s.fabric := (hback ready).trans hready
  have h := hx.run ⟨was, ready, []⟩ ⟨hwas, hready⟩
  have hflow : ∀ r, (x.run ⟨was, ready, []⟩) = r → (match r with
      | .ok (f, x) => x.st.retire len f
      | .error (.freeze f) => (was.freeze f).boundary c i
      | .error (.freezeIn s' f) => (s'.freeze f).boundary c i
      | .error (.wait w) => was.parked w
      | .error (.park s' w) => s'.parked w
      | .error (.region code dev) => (was.failRegionAt c i code dev).boundary c i).fabric = s.fabric := by
    intro r hr
    rw [hr] at h
    rcases r with e | r
    · cases e with
      | freeze f => simp [hwas]
      | freezeIn s' f => simpa [Stop.InFabric] using h
      | wait w => simp [hwas]
      | park s' w => simpa [Stop.InFabric] using h
      | region code dev => simp [hwas]
    · simpa using h.2
  exact hflow _ rfl

theorem State.fabric_finishAt (c i len : Nat) {x : Act Flow} (hx : Act.Stays s.fabric x) :
    (s.finishAt c i len x).fabric = s.fabric := s.fabric_finishBy c i len (fun _ => rfl) hx

theorem State.fabric_finishLoad (c i len : Nat) (a : Access) {x : Act Flow} (hx : Act.Stays s.fabric x) :
    (s.finishLoad c i len a x).fabric = s.fabric := s.fabric_finishBy c i len (fun s => s.fabric_putBack c i a) hx

@[simp] theorem State.fabric_fillFor (c asid : Nat) (a : Access) : (s.fillFor c asid a).fabric = s.fabric := by
  unfold State.fillFor
  split
  · exact s.fabric_foldl (fun s p => by split; exacts [rfl, s.fabric_fillLine ..]) _
  · rfl

@[simp] theorem State.fabric_readAhead (c i : Nat) (a : Access) (bs : List Byte) : (s.readAhead c i a bs).fabric = s.fabric :=
  s.fabric_modSlot ..

@[simp] theorem State.fabric_levelReply (c i len : Nat) (a : Access) : (s.levelReply c i len a).fabric = s.fabric := by
  unfold State.levelReply
  extract_lets u bs
  have hu : u.fabric = s.fabric := s.fabric_fillFor ..
  split
  · rw [State.fabric_boundary, State.fabric_readAhead, hu]
  · split
    · split
      · exact (u.fabric_finishAt c i len (atomicAct_stays _)).trans hu
      · exact hu
    · refine (u.fabric_finishLoad c i len a ?_).trans hu
      have hd : Act.Stays u.fabric (deliverReply a bs) := deliverReply_stays a bs
      exact .ite (.getS_bind fun v _ => .ite (.bind (raceElems_stays ..) fun _ => hd) (.ite (.bind (raced_stays ..) fun _ => hd) hd)) hd

@[simp] theorem State.fabric_finishSome (p : Slot → Access → Bool) : (s.finishSome p).fabric = s.fabric := by
  refine s.fabric_foldl (fun s k => s.fabric_foldl (fun s t => ?_) _) _
  split
  · dsimp only
    split
    · split <;> simp
    · rfl
  · rfl

@[simp] theorem State.fabric_poison (o : Nat) : (s.poison o).fabric = s.fabric := by
  simp [State.poison, State.finishLoads]

@[simp] theorem State.fabric_poisonDevice (part job : Nat) : (s.poisonDevice part job).fabric = s.fabric := by
  unfold State.poisonDevice
  extract_lets hit
  exact s.fabric_foldl (f := fun s p => s.poison p.1) (fun s p => s.fabric_poison p.1) (s.objs.filter (fun p => hit p.2))

@[simp] theorem State.fabric_keyRevoked (part job : Nat) : (s.keyRevoked part job).fabric = s.fabric := by
  unfold State.keyRevoked
  split <;> exact s.fabric_informPacket ..

end

end

end Sys2Proof.Machine

/-! PROOF. Links: what a port keeps, answers and drops, retry, forwarding and fences (R344 to R346, R350 to R356). -/

namespace Sys2Proof.Machine

/-! ### Lists -/

theorem mem_putN {l : List Nat} {k x : Nat} : x ∈ putN l k ↔ x = k ∨ x ∈ l := by
  induction l with
  | nil => simp [putN]
  | cons j t ih =>
    unfold putN
    split
    · simp
    · split
      · next h => subst h; simp
      · simp only [List.mem_cons, ih]
        tauto

theorem mem_foldl_putN {ks l : List Nat} {x : Nat} (h : x ∈ ks ∨ x ∈ l) : x ∈ ks.foldl putN l := by
  induction ks generalizing l with
  | nil => simpa using h
  | cons k ks ih =>
    refine ih ?_
    rw [mem_putN]
    rcases h with h | h
    · rcases List.mem_cons.mp h with rfl | h
      exacts [.inr (.inl rfl), .inl h]
    · exact .inr (.inr h)

/-- A fold none of whose steps changes anything. -/
theorem foldl_eq_of_forall_mem {α β : Type} {f : α → β → α} {l : List β} (h : ∀ a, ∀ b ∈ l, f a b = a) (a : α) : l.foldl f a = a :=
  (List.foldl_ext f (fun a _ => a) a h).trans (List.foldl_fixed l)

/-! ### What packets leave alone -/

/-- Memory, cores and the object table. -/
def State.inside (s : State) : List Host.Cell × Tab Core × Tab Obj := (s.mem, s.cores, s.objs)

section
variable (s : State)

@[simp] theorem State.inside_answer (p : Packet) (b : Body) : (s.answer p b).inside = s.inside := rfl
@[simp] theorem State.inside_dropPacket (p : Packet) : (s.dropPacket p).inside = s.inside := rfl
@[simp] theorem State.inside_modLink (p : Nat) (f : Link → Link) : (s.modLink p f).inside = s.inside := rfl
@[simp] theorem State.inside_endRead (p : Packet) : (s.endRead p).inside = s.inside := rfl
@[simp] theorem State.inside_pump (p : Nat) : (s.pump p).inside = s.inside := rfl
@[simp] theorem State.inside_sendOn (p : Nat) (x : Packet) : (s.sendOn p x).inside = s.inside := rfl

/-- What an answer, a drop and the write log leave, an isolating router leaves. -/
theorem State.isolate_keeps {γ : Type} (f : State → γ) (hanswer : ∀ (s : State) p b, f (s.answer p b) = f s)
    (hdrop : ∀ (s : State) p, f (s.dropPacket p) = f s) (hlog : ∀ (s : State) w, f { s with writeLog := w } = f s) (p : Packet) :
    f (s.isolate p) = f s := by
  unfold State.isolate
  extract_lets told
  have htold (u : State) : f (told u) = f u := by
    unfold told
    split
    exacts [hanswer .., rfl]
  split
  · exact htold s
  · split
    · rw [htold]
      exact apply_ite_eq f (hlog ..) (hdrop ..)
    · exact hdrop ..

@[simp] theorem State.inside_isolate (p : Packet) : (s.isolate p).inside = s.inside :=
  s.isolate_keeps State.inside (fun _ _ _ => rfl) (fun _ _ => rfl) (fun _ _ => rfl) p

@[simp] theorem State.fabric_isolate (p : Packet) : (s.isolate p).fabric = s.fabric :=
  s.isolate_keeps State.fabric (fun _ _ _ => rfl) (fun _ _ => rfl) (fun _ _ => rfl) p

@[simp] theorem State.links_isolate (p : Packet) : (s.isolate p).links = s.links :=
  s.isolate_keeps State.links (fun _ _ _ => rfl) (fun _ _ => rfl) (fun _ _ => rfl) p

@[simp] theorem State.linkAt_isolate (p : Packet) (q : Nat) : (s.isolate p).linkAt q = s.linkAt q := by
  rw [State.linkAt, s.links_isolate]
  rfl

@[simp] theorem State.linkAt_modLink_self (p : Nat) (f : Link → Link) : (s.modLink p f).linkAt p = f (s.linkAt p) := by
  simp [State.linkAt, State.modLink]

theorem State.linkAt_modLink_ne {p q : Nat} (f : Link → Link) (h : q ≠ p) : (s.modLink p f).linkAt q = s.linkAt q := by
  simp [State.linkAt, State.modLink, lookT_putT_ne _ _ h]

end

/-! ### Fences (R335, R355, R356) -/

/-- No strand has stores in its buffer or an access that awaits its reply. -/
structure State.atRest (s : State) : Prop where
  slots : ∀ k ∈ s.cores, ∀ t ∈ k.2.slots, t.2.sbuf = [] ∧ t.2.state.outstanding = false

section
variable {s : State}

theorem State.atRest_iff : s.atRest ↔ s.cores.all (fun k => k.2.slots.all (fun t => t.2.sbuf.isEmpty && !t.2.state.outstanding)) = true := by
  simp only [List.all_eq_true, Bool.and_eq_true, List.isEmpty_iff, Bool.not_eq_true']
  exact ⟨fun h => h.slots, fun h => ⟨h⟩⟩

theorem State.finishLoads_of_atRest (h : s.atRest) (o : Nat) : s.finishLoads o = s := by
  refine foldl_eq_of_forall_mem (fun u k hk => foldl_eq_of_forall_mem (fun u t ht => ?_) u) s
  obtain ⟨-, hout⟩ := h.slots k hk t ht
  split
  next hst => rw [hst] at hout; contradiction
  next => rfl

theorem State.drainObj_of_atRest (h : s.atRest) (o : Nat) : s.drainObj o = s := by
  refine foldl_eq_of_forall_mem (fun u k hk => foldl_eq_of_forall_mem (fun u t ht => ?_) u) s
  obtain ⟨hs, -⟩ := h.slots k hk t ht
  rw [hs]
  rfl

theorem State.atRest_writeEntry (h : s.atRest) (o : Nat) (e : Obj) : (s.writeEntry o e).atRest := by
  refine ⟨fun k hk => ?_⟩
  obtain ⟨j, hj, rfl⟩ := List.mem_map.mp hk
  exact h.slots j hj

theorem State.poison_of_atRest (h : s.atRest) (o : Nat) : (s.poison o).atRest ∧ (s.poison o).mem = s.mem := by
  have heq : s.poison o = s.writeEntry o { s.objAt o with poisoned := true } := by
    unfold State.poison
    rw [State.finishLoads_of_atRest h, State.drainObj_of_atRest h]
  rw [heq]
  exact ⟨State.atRest_writeEntry h _ _, rfl⟩

/-- What each step keeps, with a memory that it leaves, a fold keeps. -/
theorem State.foldl_of_atRest {α : Type} {f : State → α → State} (hf : ∀ (s : State) x, s.atRest → (f s x).atRest ∧ (f s x).mem = s.mem)
    (l : List α) (h : s.atRest) : (l.foldl f s).atRest ∧ (l.foldl f s).mem = s.mem := by
  induction l generalizing s with
  | nil => exact ⟨h, rfl⟩
  | cons x l ih =>
    obtain ⟨hrest, hmem⟩ := hf s x h
    exact ⟨(ih hrest).1, (ih hrest).2.trans hmem⟩

theorem State.poisonDevice_of_atRest (h : s.atRest) (part job : Nat) :
    (s.poisonDevice part job).atRest ∧ (s.poisonDevice part job).mem = s.mem := by
  unfold State.poisonDevice
  extract_lets hit
  exact State.foldl_of_atRest (f := fun s p => s.poison p.1) (fun s p h => State.poison_of_atRest h p.1) (s.objs.filter (fun p => hit p.2)) h

theorem State.inside_sendPacket (s : State) (part to_ core : Nat) (dw rec : List Word) : (s.sendPacket part to_ core dw rec).inside = s.inside := by
  unfold State.sendPacket State.toSupervisor State.send_
  dsimp only
  split
  · rfl
  · split
    · rfl
    · split <;> rfl

theorem State.inside_keyRevoked (s : State) (part job : Nat) : (s.keyRevoked part job).inside = s.inside := by
  unfold State.keyRevoked
  split <;> exact State.inside_sendPacket ..

theorem State.keyRevoked_of_atRest (h : s.atRest) (part job : Nat) : (s.keyRevoked part job).atRest ∧ (s.keyRevoked part job).mem = s.mem := by
  have hin := s.inside_keyRevoked part job
  simp only [State.inside, Prod.mk.injEq] at hin
  obtain ⟨hmem, hcores, -⟩ := hin
  refine ⟨⟨?_⟩, hmem⟩
  rw [hcores]
  exact h.slots

/-- A port whose neighbour is fenced: its reads end (R356). -/
def State.fencePort (s : State) (p : Nat) : State :=
  (s.linkAt p).reads.foldl State.isolate (s.modLink p (fun l => { l with nextFenced := true, reads := [] }))

theorem State.fabric_fencePort (s : State) (p : Nat) : (s.fencePort p).fabric = s.fabric :=
  (State.fabric_foldl _ State.fabric_isolate _).trans rfl

theorem State.inside_fencePort (s : State) (p : Nat) : (s.fencePort p).inside = s.inside :=
  (foldl_keeps State.inside State.inside_isolate _ _).trans rfl

theorem State.nextFenced_fencePort (s : State) (p q : Nat) :
    ((s.fencePort p).linkAt q).nextFenced = (decide (q = p) || (s.linkAt q).nextFenced) := by
  have h : (s.fencePort p).linkAt q = (s.modLink p (fun l => { l with nextFenced := true, reads := [] })).linkAt q :=
    foldl_keeps (fun u : State => u.linkAt q) (fun u x => u.linkAt_isolate x q) _ _
  rw [h]
  by_cases hq : q = p
  · simp [hq]
  · rw [State.linkAt_modLink_ne _ _ hq]
    simp [hq]

theorem State.nextFenced_foldl_fencePort {ports : List Nat} {q : Nat} (h : q ∈ ports ∨ (s.linkAt q).nextFenced = true) :
    ((ports.foldl State.fencePort s).linkAt q).nextFenced = true := by
  induction ports generalizing s with
  | nil => simpa using h
  | cons p ports ih =>
    refine ih ?_
    rw [State.nextFenced_fencePort]
    rcases h with h | h
    · rcases List.mem_cons.mp h with rfl | h
      · simp
      · exact .inl h
    · simp [h]

/-- DEVICE_FENCE: the keys and the fence, the objects of the device, and the ports to it (R355, R356). -/
theorem leads_deviceFence (s : State) (dev : Nat) (keys : List Nat) : Leads (exec (.deviceFence dev keys) s) (fun u =>
    dev ∈ u.fenced ∧ (∀ x ∈ keys, x ∈ u.revoked) ∧
    (s.cores.all (fun k => k.2.slots.all (fun t => t.2.sbuf.isEmpty && !t.2.state.outstanding)) = true → u.mem = s.mem) ∧
    (∀ x < 8, s.hasLink x = true → neighbour s.extents s.phys x = dev → (u.linkAt x).nextFenced = true)) := by
  change Leads (execDeviceFence dev keys s) _
  unfold execDeviceFence
  extract_lets marked hit told ports
  have htold : told.fabric = marked.fabric :=
    marked.fabric_foldl (f := fun (s : State) (h : Nat × Nat) => (s.poisonDevice h.1 h.2).keyRevoked h.1 h.2)
      (fun s h => (State.fabric_keyRevoked _ h.1 h.2).trans (s.fabric_poisonDevice h.1 h.2)) hit
  have hfabric : (ports.foldl State.fencePort told).fabric = marked.fabric :=
    (told.fabric_foldl State.fabric_fencePort ports).trans htold
  have hinside : (ports.foldl State.fencePort told).inside = told.inside := foldl_keeps State.inside State.inside_fencePort ports told
  simp only [State.fabric, State.inside, Prod.mk.injEq] at htold hfabric hinside
  refine ⟨ports.foldl State.fencePort told, rfl, ?_, fun x hx => ?_, fun hrest => ?_, fun x hx hlink hnext => ?_⟩
  · rw [hfabric.2.2.1]
    exact mem_putN.mpr (.inl rfl)
  · rw [hfabric.2.2.2]
    exact mem_foldl_putN (.inl hx)
  · rw [hinside.1]
    refine (State.foldl_of_atRest (s := marked) (f := fun (s : State) (h : Nat × Nat) => (s.poisonDevice h.1 h.2).keyRevoked h.1 h.2)
      (fun s h hs => ?_) hit ?_).2
    · obtain ⟨hpoisoned, hmem⟩ := State.poisonDevice_of_atRest hs h.1 h.2
      obtain ⟨hrevoked, hmem'⟩ := State.keyRevoked_of_atRest hpoisoned h.1 h.2
      exact ⟨hrevoked, hmem'.trans hmem⟩
    · exact State.atRest_iff.mpr hrest
  · refine State.nextFenced_foldl_fencePort (.inl (List.mem_filter.mpr ⟨List.mem_range.mpr hx, ?_⟩))
    obtain ⟨hphys, hext, -⟩ := htold
    have hl : told.hasLink x = s.hasLink x := by
      unfold State.hasLink
      rw [hphys, hext]
    rw [hl, hlink, hphys, hext]
    exact decide_eq_true hnext

end

end Sys2Proof.Machine

/-! PROOF. Links acknowledge, resend and lose; routers forward, drop and answer; the fabric manager's changes (R344 to R353, R356). -/

namespace Sys2Proof.Machine

section
variable {s : State} {port : Nat}

/-! ### What waits at a port (R344, R345) -/

theorem State.mem_eq_of_inside {t : State} (h : t.inside = s.inside) : t.mem = s.mem := congrArg (·.1) h
theorem State.cores_eq_of_inside {t : State} (h : t.inside = s.inside) : t.cores = s.cores := congrArg (·.2.1) h

theorem State.linkAt_withOut (s : State) (o : List Output) (p : Nat) : ({ s with out := o } : State).linkAt p = s.linkAt p := rfl

/-- A port at which nothing waits sends nothing. -/
theorem State.pump_of_empty (h : (s.linkAt port).queue = []) : s.pump port = s.modLink port id := by
  have hl : { s.linkAt port with queue := [] } = s.linkAt port := by rw [← h]
  unfold State.pump
  simp only [h, List.foldl_nil, List.map_nil, List.append_nil, hl]
  rfl

theorem State.linkAt_takeAck (h : (s.linkAt port).queue = []) (a : Nat) : (s.takeAck port a).linkAt port = (s.linkAt port).ackedBy a := by
  unfold State.takeAck
  rw [State.pump_of_empty (by rw [State.linkAt_modLink_self]; exact h)]
  simp

theorem State.out_takeAck (h : (s.linkAt port).queue = []) (a : Nat) : (s.takeAck port a).out = s.out := by
  unfold State.takeAck
  rw [State.pump_of_empty (by rw [State.linkAt_modLink_self]; exact h)]
  rfl

theorem State.inside_takeAck (s : State) (port a : Nat) : (s.takeAck port a).inside = s.inside := by simp [State.takeAck]

/-! ### Groups (R344, R345) -/

section
variable {flits : List Byte} {ctl : BitVec 128}

theorem exec_linkGroupReceive_down (h : (s.linkAt port).width < 6) : exec (.linkGroupReceive port flits ctl) s = .next s := by
  change execLinkGroupReceive port flits ctl s = _
  simp [execLinkGroupReceive, h]

theorem exec_linkGroupReceive_refused (h : 6 ≤ (s.linkAt port).width)
    (hbad : groupOk flits ctl = false ∨ bitsAt ctl.toNat 116 12 ≠ (s.linkAt port).rxSeq) : exec (.linkGroupReceive port flits ctl) s =
      .next { s with out := s.out ++ [.control port (((s.linkAt port).rxSeq + 4095) % 4096) true 0 0] } := by
  have hok : (groupOk flits ctl && bitsAt ctl.toNat 116 12 == (s.linkAt port).rxSeq) = false := by
    rcases hbad with hbad | hbad
    · rw [hbad, Bool.false_and]
    · rw [beq_false_of_ne hbad, Bool.and_false]
  change execLinkGroupReceive port flits ctl s = _
  simp [execLinkGroupReceive, Nat.not_lt.mpr h, hok]

/-- A link that has taken an intact group: the credits that its control word returns, and those that go back. -/
def Link.received (l : Link) (c : Nat) : Link :=
  let owed := owedBy c l.owed
  let due := creditDue owed
  { l.credited c with rxSeq := (l.rxSeq + 1) % 4096, owed := setL owed due.1 (owed.getD due.1 0 - 8 * due.2) }

/-- A port that has taken an intact group, and what it sends back. -/
def State.receives (s : State) (port c : Nat) : State :=
  let owed := owedBy c (s.linkAt port).owed
  let due := creditDue owed
  { s.modLink port (fun l =>
      { l.credited c with rxSeq := (l.rxSeq + 1) % 4096, owed := setL owed due.1 (owed.getD due.1 0 - 8 * due.2) }) with
    out := s.out ++ [Output.control port (bitsAt c 116 12) false due.1 due.2] }

theorem State.linkAt_receives (s : State) (port c : Nat) : (s.receives port c).linkAt port = (s.linkAt port).received c := by
  unfold State.receives
  extract_lets owed due
  rw [State.linkAt_withOut, State.linkAt_modLink_self]
  rfl

theorem leads_linkGroupReceive (h : 6 ≤ (s.linkAt port).width) (hok : groupOk flits ctl = true)
    (hseq : bitsAt ctl.toNat 116 12 = (s.linkAt port).rxSeq) (hack : bit ctl.toNat 103 = false) (hq : (s.linkAt port).queue = []) :
    Leads (exec (.linkGroupReceive port flits ctl) s) (fun u =>
      u.out = s.out ++ [.control port (bitsAt ctl.toNat 116 12) false (creditDue (owedBy ctl.toNat (s.linkAt port).owed)).1
        (creditDue (owedBy ctl.toNat (s.linkAt port).owed)).2] ∧
      u.linkAt port = ((s.linkAt port).received ctl.toNat).ackedBy (bitsAt ctl.toNat 104 12) ∧ u.inside = s.inside) := by
  have hlink := s.linkAt_receives port ctl.toNat
  have hqueue : ((s.receives port ctl.toNat).linkAt port).queue = [] := by rw [hlink]; exact hq
  have hexec : exec (.linkGroupReceive port flits ctl) s = .next ((s.receives port ctl.toNat).takeAck port (bitsAt ctl.toNat 104 12)) := by
    have hgood : (groupOk flits ctl && bitsAt ctl.toNat 116 12 == (s.linkAt port).rxSeq) = true :=
      Bool.and_eq_true_iff.mpr ⟨hok, beq_iff_eq.mpr hseq⟩
    refine congrArg Host.Outcome.next ((if_neg (Nat.not_lt.mpr h)).trans ((if_pos hgood).trans (if_neg ?_)))
    rw [hack]
    exact Bool.false_ne_true
  refine ⟨_, hexec, State.out_takeAck hqueue _, ?_, State.inside_takeAck ..⟩
  rw [State.linkAt_takeAck hqueue, hlink]

end

/-! ### Links that resend, or are lost (R345, R346) -/

/-- Nothing in the replay buffer is acknowledged: it stays. -/
theorem Link.ackedBy_of_none {l : Link} {a : Nat} (h : ∀ x ∈ l.replay, acked a x.1 = false) : l.ackedBy a = l := by
  have hfilter : l.replay.filter (fun x => !acked a x.1) = l.replay := List.filter_eq_self.mpr (fun x hx => by rw [h x hx]; rfl)
  simp [Link.ackedBy, hfilter]

theorem Link.width_try_ (w : Waiting) (acc : Link × List Nat × List Packet) : (Link.try_ acc w).1.width = acc.1.width := by
  unfold Link.try_
  dsimp only
  split
  · rfl
  · split <;> rfl

theorem State.width_modLink (s : State) (p q : Nat) {f : Link → Link} (h : ∀ l, (f l).width = l.width) :
    ((s.modLink p f).linkAt q).width = (s.linkAt q).width := by
  by_cases hq : q = p
  · subst hq
    rw [State.linkAt_modLink_self, h]
  · rw [State.linkAt_modLink_ne _ _ hq]

theorem State.width_pump (s : State) (p q : Nat) : ((s.pump p).linkAt q).width = (s.linkAt q).width := by
  have hfold : ((s.linkAt p).queue.foldl Link.try_ ({ s.linkAt p with queue := [] }, [], [])).1.width = (s.linkAt p).width :=
    foldl_keeps (fun acc : Link × List Nat × List Packet => acc.1.width) (fun acc w => Link.width_try_ w acc) _ _
  by_cases hq : q = p
  · subst hq
    exact (congrArg Link.width (s.linkAt_modLink_self q (fun _ => _))).trans hfold
  · exact congrArg Link.width (s.linkAt_modLink_ne (fun _ => _) hq)

theorem State.width_sendOn (s : State) (p q : Nat) (x : Packet) : ((s.sendOn p x).linkAt q).width = (s.linkAt q).width :=
  (State.width_pump _ p q).trans (s.width_modLink p q fun _ => rfl)

theorem State.linkAt_endRead (s : State) (p : Packet) (q : Nat) : (s.endRead p).linkAt q =
    { s.linkAt q with reads := (s.linkAt q).reads.filter (fun r => !endsRead p r) } := by
  have h := lookT_map (fun l : Link => { l with reads := l.reads.filter (fun r => !endsRead p r) }) s.links q
  unfold State.linkAt State.endRead
  rw [h]
  cases lookT s.links q <;> rfl

theorem State.width_noteRead (s : State) (port q : Nat) (p : Packet) : ((s.noteRead port p).linkAt q).width = (s.linkAt q).width := by
  unfold State.noteRead
  split
  · exact s.width_modLink port q fun _ => rfl
  · rfl

theorem State.width_forward (s : State) (from_ q : Nat) (p : Packet) : ((s.forward from_ p).linkAt q).width = (s.linkAt q).width := by
  have hisolate (u : State) : ((u.isolate p).linkAt q).width = (u.linkAt q).width := congrArg Link.width (u.linkAt_isolate p q)
  have hdrop (u : State) : ((u.dropPacket p).linkAt q).width = (u.linkAt q).width := rfl
  unfold State.forward
  extract_lets exit dl u
  have hu : (u.linkAt q).width = (s.linkAt q).width := by
    have h := congrArg Link.width (s.linkAt_endRead p q)
    exact h
  have hite {c : Prop} [Decidable c] {a b : State} (ha : (a.linkAt q).width = (u.linkAt q).width)
      (hb : (b.linkAt q).width = (u.linkAt q).width) : ((if c then a else b).linkAt q).width = (u.linkAt q).width :=
    apply_ite_eq (fun v : State => (v.linkAt q).width) ha hb
  rw [← hu]
  refine hite rfl (hite ?_ (hite (hisolate u) (hite ?_ ?_)))
  · exact (State.width_sendOn ..).trans (State.width_noteRead ..)
  · exact hite (hisolate u) (hdrop u)
  · split
    · exact hdrop u
    · split
      · exact (State.width_sendOn ..).trans (State.width_noteRead ..)
      · exact hdrop u

/-- A lost link is down, wherever its packets go. -/
theorem State.width_linkLost (s : State) (port : Nat) : ((s.linkLost port).linkAt port).width = 0 := by
  unfold State.linkLost
  extract_lets ps u
  have hu : (u.linkAt port).width = 0 := congrArg Link.width (s.linkAt_modLink_self port _)
  exact (foldl_keeps (fun v : State => (v.linkAt port).width) (fun v p => v.width_forward port port p) ps u).trans hu

/-- A link that is down, with nothing left to send. -/
def Link.downed (l : Link) : Link :=
  { l with width := 0, replay := [], tries := 0, queue := [], credits := Link.reset.credits, owed := Link.reset.owed }

/-- A link with nothing to send again goes down alone. -/
theorem State.linkLost_of_empty (hr : (s.linkAt port).replay = []) (hq : (s.linkAt port).queue = []) :
    s.linkLost port = s.modLink port Link.downed := by
  have hps : (s.linkAt port).pending = [] := by simp [Link.pending, hr, hq]
  unfold State.linkLost
  rw [hps]
  rfl

/-- A link that sends its replay buffer once more. -/
def Link.retried (l : Link) : Link := { l with tries := l.tries + 1 }

section
variable {g : Nat}

theorem leads_nak_lost (h : ∀ x ∈ (s.linkAt port).replay, acked g x.1 = false) (hne : (s.linkAt port).replay ≠ [])
    (ht : 8 ≤ (s.linkAt port).tries) : Leads (exec (.nak port g) s) (fun u => (u.linkAt port).width = 0) := by
  refine ⟨(s.modLink port (fun l => l.ackedBy g)).linkLost port, ?_, State.width_linkLost ..⟩
  change execNak port g s = _
  have hempty : (s.linkAt port).replay.isEmpty = false := List.isEmpty_eq_false_iff.mpr hne
  simp [execNak, State.takeNak, Link.ackedBy_of_none h, hempty, ht]

theorem leads_nak_again (h : ∀ x ∈ (s.linkAt port).replay, acked g x.1 = false) (hne : (s.linkAt port).replay ≠ [])
    (ht : (s.linkAt port).tries < 8) (hq : (s.linkAt port).queue = []) : Leads (exec (.nak port g) s) (fun u =>
      u.out = s.out ++ (s.linkAt port).replay.map (fun x => .group port x.1 x.2.1 x.2.2) ∧ (u.linkAt port).replay = (s.linkAt port).replay ∧
      (u.linkAt port).tries = (s.linkAt port).tries + 1 ∧ u.mem = s.mem) := by
  have hempty : (s.linkAt port).replay.isEmpty = false := List.isEmpty_eq_false_iff.mpr hne
  let again : State := { (s.modLink port (fun l => l.ackedBy g)).modLink port Link.retried with
    out := s.out ++ (s.linkAt port).replay.map (fun x => Output.group port x.1 x.2.1 x.2.2) }
  have hlink : again.linkAt port = (s.linkAt port).retried := by
    refine (State.linkAt_modLink_self _ port Link.retried).trans ?_
    rw [State.linkAt_modLink_self, Link.ackedBy_of_none h]
  have hpump : again.pump port = again.modLink port id := State.pump_of_empty (by rw [hlink]; exact hq)
  have hexec : exec (.nak port g) s = .next (again.pump port) := by
    change execNak port g s = _
    simp only [execNak, State.takeNak, State.linkAt_modLink_self, Link.ackedBy_of_none h, hempty, Nat.not_le.mpr ht, if_false, Bool.false_eq_true]
    rfl
  rw [hpump] at hexec
  have hnow : (again.modLink port id).linkAt port = (s.linkAt port).retried := by
    rw [State.linkAt_modLink_self, hlink]
    rfl
  exact ⟨_, hexec, rfl, by rw [hnow]; rfl, by rw [hnow]; rfl, rfl⟩

end

theorem leads_linkDown (hr : (s.linkAt port).replay = []) (hq : (s.linkAt port).queue = []) : Leads (exec (.linkDown port) s) (fun u =>
    u.linkAt port = { s.linkAt port with width := 0, tries := 0, credits := List.replicate 12 64, owed := List.replicate 12 0 } ∧
    u.out = s.out ∧ u.mem = s.mem ∧ u.cores = s.cores) := by
  refine ⟨_, congrArg Host.Outcome.next (State.linkLost_of_empty hr hq), ?_, rfl, rfl, rfl⟩
  rw [State.linkAt_modLink_self]
  simp only [Link.downed, hr, hq]
  rfl

theorem exec_widthChange (n : Nat) : (n < 6 → exec (.widthChange port n) s = exec (.linkDown port) s) ∧
    (6 ≤ n → Leads (exec (.widthChange port n) s) (fun u => u.linkAt port = { s.linkAt port with width :=
      if n < 12 then 6 else if n < 24 then 12 else 24 } ∧ u.out = s.out ∧ u.mem = s.mem)) := by
  refine ⟨fun h => ?_, fun h => ⟨s.modLink port (fun l => { l with width := if n < 12 then 6 else if n < 24 then 12 else 24 }), ?_,
    s.linkAt_modLink_self port _, rfl, rfl⟩⟩
  · exact congrArg Host.Outcome.next (if_pos h)
  · exact congrArg Host.Outcome.next (if_neg (Nat.not_lt.mpr h))

/-! ### Packets on their way (R350, R354, R356) -/

theorem leads_packetHop_dropped {p : Packet} (hk : s.keyDrops p = true) (hp : port ≠ 8) : Leads (exec (.packetHop port p) s) (fun u =>
    u.out = s.out ∧ u.mem = s.mem ∧ u.objs = s.objs ∧ u.cores = s.cores) :=
  ⟨_, congrArg Host.Outcome.next (if_pos ⟨hp, hk⟩), rfl, rfl, rfl, rfl⟩

/-- A packet that has its credits, and groups free in the replay buffer, goes out at once. -/
theorem Link.try_free {l : Link} {x : Packet} {v : Nat} (hc : x.body.flits ≤ l.credits.getD v 0) (hr : l.replay.length + x.body.groups ≤ 64) :
    (Link.try_ (l, [], []) ⟨x, v, x.body.flits⟩).2.2 = [x] := by
  rw [List.getD_eq_getElem?_getD] at hc
  simp [Link.try_, hc, hr]

theorem State.out_sendOn_free {x : Packet} (hq : (s.linkAt port).queue = [])
    (hc : x.body.flits ≤ (s.linkAt port).credits.getD (vcOf port x) 0) (hr : (s.linkAt port).replay.length + x.body.groups ≤ 64) :
    (s.sendOn port x).out = s.out ++ [.packet port x] := by
  unfold State.sendOn State.pump
  simp only [State.linkAt_modLink_self, hq, List.nil_append, List.foldl_cons, List.foldl_nil]
  rw [Link.try_free (l := { s.linkAt port with queue := [] }) hc hr]
  rfl

theorem leads_packetHop_forwards {p : Packet} {c i : Nat} {r : Reply} (hb : p.body = .rdata c i r) (hk : s.keyDrops p = false)
    (hm : s.remapped p = false) (hd : p.dst ≠ s.phys) {q : Nat} (hport : nextPort s.extents s.phys p.dst = q) (hq : q ≠ 8)
    (hok : s.linkOk q = true) {x : Packet} (hx : { p with dl := nextDl s.extents s.phys q p.dl (q / 2 != port / 2) } = x)
    (hempty : (s.linkAt q).queue = []) (hc : x.body.flits ≤ (s.linkAt q).credits.getD (vcOf q x) 0)
    (hr : (s.linkAt q).replay.length + x.body.groups ≤ 64) : Leads (exec (.packetHop port p) s) (fun u =>
      u.out = s.out ++ [.packet q x] ∧ u.mem = s.mem ∧ u.cores = s.cores) := by
  have hlink := s.linkAt_endRead p q
  have hup : (s.endRead p).linkOk q = true := by
    rw [← hok]
    unfold State.linkOk
    rw [hlink]
    rfl
  have hread : p.privRead = false := by simp [Packet.privRead, hb]
  have hforward : s.forward port p = (s.endRead p).sendOn q x := by
    simp [State.forward, hport, hq, hup, State.noteRead, hread, ← hx]
  have hexec : exec (.packetHop port p) s = .next ((s.endRead p).sendOn q x) := by
    change execPacketHop port p s = _
    simp [execPacketHop, hk, hm, hb, hd, hforward]
  have hout := State.out_sendOn_free (s := s.endRead p) (port := q) (x := x) (by rw [hlink]; exact hempty) (by rw [hlink]; exact hc)
    (by rw [hlink]; exact hr)
  have hinside : ((s.endRead p).sendOn q x).inside = s.inside := (State.inside_sendOn ..).trans (State.inside_endRead ..)
  exact ⟨_, hexec, hout, State.mem_eq_of_inside hinside, State.cores_eq_of_inside hinside⟩

/-- An answer is told in the packets that go out, and changes no object and no strand. -/
def State.Answered (s : State) (p : Packet) (b : Body) (u : State) : Prop :=
  u.out = (s.answer p b).out ∧ u.objs = s.objs ∧ ∀ c i, u.slotAt c i = s.slotAt c i

theorem State.answered_answer (s : State) (p : Packet) (b : Body) : s.Answered p b (s.answer p b) := ⟨rfl, rfl, fun _ _ => rfl⟩

section
variable {p : Packet} {b : Body}

theorem exec_isolatedReadAnswer_unfenced (h : (s.linkAt port).nextFenced = false) : exec (.isolatedReadAnswer port p) s = .next s :=
  congrArg Host.Outcome.next (if_neg (by simp [h]))

theorem leads_isolatedReadAnswer_read (h : (s.linkAt port).nextFenced = true) (hp : p.privRead = true) (hb : poisonedAnswer p.body = some b) :
    Leads (exec (.isolatedReadAnswer port p) s) (fun u => u.mem = s.mem ∧ s.Answered p b u) := by
  refine ⟨s.answer p b, (congrArg Host.Outcome.next (if_pos h)).trans ?_, rfl, s.answered_answer p b⟩
  simp [State.isolate, hp, hb]

theorem leads_isolatedReadAnswer_write (h : (s.linkAt port).nextFenced = true) (hp : p.privRead = false) (hw : p.privWrite = true)
    (hb : poisonedAnswer p.body = some b) (hlog : s.writeLog.length < 4096) :
    Leads (exec (.isolatedReadAnswer port p) s) (fun u => s.Answered p b u ∧ u.mem = s.mem ∧ u.writeLog.length = s.writeLog.length + 1) := by
  let logged : State := { s with writeLog := s.writeLog ++ [(s.time,
    field p.src 48 16 + field p.dst 32 16 + field p.body.type 24 8 + field p.body.payload 0 24)] }
  refine ⟨logged.answer p b, (congrArg Host.Outcome.next (if_pos h)).trans ?_, ⟨rfl, rfl, fun _ _ => rfl⟩, rfl, by
    simp [logged, State.answer, State.answerTo]⟩
  simp [State.isolate, hp, hw, hb, hlog, logged]

end

/-! ### The fabric manager's changes (R352, R353) -/

theorem State.partAt_modPart_self (s : State) (p : Nat) (f : Partition → Partition) : (s.modPart p f).partAt p = f (s.partAt p) := by
  simp [State.partAt, State.modPart]

theorem leads_remapWrite (part job phys : Nat) (valid : Bool) (h : phys < 65536) : Leads (exec (.remapWrite part job phys valid) s) (fun u =>
    lookT (u.partAt part).remap job = some ⟨valid, (match lookT (s.partAt part).remap job with
      | some r => (r.epoch + 1) % 256
      | none => 1), phys⟩ ∧ u.mem = s.mem ∧ u.cores = s.cores ∧ u.out = s.out) := by
  refine ⟨_, rfl, ?_, rfl, rfl, rfl⟩
  rw [State.partAt_modPart_self]
  dsimp only
  rw [lookT_putT, Nat.mod_eq_of_lt h] <;> rfl

theorem exec_spareJobAssign_zero (part job : Nat) : exec (.spareJobAssign part job 0) s = .next s := rfl

theorem leads_spareJobAssign (part : Nat) {job key : Nat} (hj : job < 65536) (hpos : 0 < key) (hk : key < 65536) :
    Leads (exec (.spareJobAssign part job key) s) (fun u =>
      u.partAt part = { s.partAt part with job := job, pkey := key } ∧ u.mem = s.mem ∧ u.cores = s.cores ∧ u.out = s.out) := by
  have hkey : ¬key % 65536 = 0 := by omega
  refine ⟨_, congrArg Host.Outcome.next (if_neg hkey), ?_, rfl, rfl, rfl⟩
  rw [State.partAt_modPart_self, Nat.mod_eq_of_lt hj, Nat.mod_eq_of_lt hk]

end

end Sys2Proof.Machine

/-! PROOF. A home serves remote loads, batches, EWRITE and EREAD (R125, R126, R212, R349, R353, R357). -/

namespace Sys2Proof.Machine

/-! ### What an answer is made of -/

/-- The object table, and what an answer is made of: what has gone out, the sequence numbers, the device's place and its partitions. -/
def State.desk (s : State) : Tab Obj × List Output × Tab Nat × Nat × Tab Partition := (s.objs, s.out, s.sent, s.phys, s.parts)

/-- The second state has the strands of the first, and answers as the first does. -/
structure State.Undisturbed (s t : State) : Prop where
  desk_eq : t.desk = s.desk
  strands : s.KeepsStrands t

namespace State.Undisturbed
variable {s t u : State}

theorem refl (s : State) : s.Undisturbed s := ⟨rfl, .refl s⟩

theorem trans (h : s.Undisturbed t) (h' : t.Undisturbed u) : s.Undisturbed u := ⟨h'.desk_eq.trans h.desk_eq, h.strands.trans h'.strands⟩

theorem foldl {α : Type} {f : State → α → State} (h : ∀ (s : State) x, s.Undisturbed (f s x)) (l : List α) (s : State) :
    s.Undisturbed (l.foldl f s) := by
  induction l generalizing s with
  | nil => exact refl s
  | cons x l ih => exact (h s x).trans (ih _)

theorem answered (h : s.Undisturbed t) (p : Packet) (b : Body) : s.Answered p b (t.answer p b) := by
  have hdesk := h.desk_eq
  simp only [State.desk, Prod.mk.injEq] at hdesk
  obtain ⟨hobjs, hout, hsent, hphys, hparts⟩ := hdesk
  refine ⟨?_, hobjs, h.strands.slotAt_eq⟩
  simp only [State.answer, State.answerTo, State.backTo, State.keyOwner, State.keyIn, State.remapOf, State.partAt, State.nextSeq, hout,
    hsent, hphys, hparts]

end State.Undisturbed

section
variable (s : State)

theorem State.desk_countLost (ls : List L1Line) : (s.countLost ls).desk = s.desk :=
  foldl_keeps State.desk (fun s l => by
    dsimp only
    split
    · unfold State.countLoss
      split <;> rfl
    · rfl) ls s

theorem State.mem_countLost (ls : List L1Line) : (s.countLost ls).mem = s.mem :=
  foldl_keeps State.mem (fun s l => by
    dsimp only
    split
    · unfold State.countLoss
      split <;> rfl
    · rfl) ls s

theorem State.undisturbed_syncLines (c a n : Nat) : s.Undisturbed (s.syncLines c a n) :=
  ⟨(State.desk_countLost _ _).trans rfl, s.keepsStrands_syncLines c a n⟩

theorem State.mem_syncLines (c a n : Nat) : (s.syncLines c a n).mem = s.mem := (State.mem_countLost _ _).trans rfl

theorem State.undisturbed_writeLevel (a : Nat) (bs : List Byte) : s.Undisturbed (s.writeLevel a bs) := by
  refine ⟨?_, s.keepsStrands_writeLevel a bs⟩
  unfold State.writeLevel State.clearTags
  split <;> rfl

theorem State.mem_writeLevel (a : Nat) (bs : List Byte) : (s.writeLevel a bs).mem = Memory.write s.mem a bs := by
  unfold State.writeLevel State.clearTags
  split <;> rfl

theorem State.undisturbed_inheritLines (a n rb : Nat) : s.Undisturbed (s.inheritLines a n rb) := by
  unfold State.inheritLines
  dsimp only
  split
  · exact .refl s
  · split <;> exact ⟨rfl, .of_cores rfl rfl⟩

theorem State.mem_inheritLines (a n rb : Nat) : (s.inheritLines a n rb).mem = s.mem := by
  unfold State.inheritLines
  dsimp only
  split
  · rfl
  · split <;> rfl

theorem State.undisturbed_noteSeq (p : Packet) : s.Undisturbed (s.noteSeq p) := ⟨rfl, .of_cores rfl rfl⟩

end

/-- The same objects at the same addresses have the same ranges. -/
theorem State.spansNow_congr {s t : State} {asid : Nat} {e : Obj} (hlocal : ∀ loc, t.localAddr e loc = s.localAddr e loc)
    (hflat : ∀ loc, t.flatOf asid e loc = s.flatOf asid e loc) (fuel loc n : Nat) :
    t.spansNow asid e fuel loc n = s.spansNow asid e fuel loc n := by
  induction fuel generalizing loc n with
  | zero => rfl
  | succ fuel ih => simp only [State.spansNow, hlocal, hflat, ih]

@[simp] theorem State.homeSpans_noteSeq (s : State) (p : Packet) (o loc n : Nat) : (s.noteSeq p).homeSpans o loc n = s.homeSpans o loc n :=
  State.spansNow_congr (s := s) (t := s.noteSeq p) (fun _ => rfl) (fun _ => rfl) (n / 2 ^ 16 + 2) loc n

@[simp] theorem State.engineBytes_noteSeq (s : State) (p : Packet) (xs : List (Nat × Nat × Nat)) :
    (s.noteSeq p).engineBytes xs = s.engineBytes xs := rfl

@[simp] theorem State.homeCheck_noteSeq (s : State) (p q : Packet) (o gen loc n align : Nat) (w : Bool) :
    (s.noteSeq p).homeCheck q o gen loc n align w = s.homeCheck q o gen loc n align w := rfl

/-! ### Delivery (R349, R353) -/

/-- A packet that its home takes when it comes: for its JOB, under a key of its partition, not a duplicate, and in order. -/
def State.Due (s : State) (p : Packet) : Prop :=
  p.dstJob = s.jobDev (s.partOf p.ctx) ∧ s.keyIn (s.partOf p.ctx) p.pkey = true ∧ s.seen_ p = false ∧
    (p.tc = 0 → p.seq = s.nextOf p ∧ s.reorder = [])

section
variable {s : State} {p : Packet}

theorem State.deliverPacket_of_due (h : s.Due p) : s.deliverPacket p = (s.noteSeq p).handle p := by
  obtain ⟨hjob, hkey, hseen, horder⟩ := h
  have hjob' : ¬p.dstJob ≠ (s.noteSeq p).jobDev ((s.noteSeq p).partOf p.ctx) := not_not.mpr hjob
  have hkey' : ¬(!(s.noteSeq p).keyIn ((s.noteSeq p).partOf p.ctx) p.pkey) = true := by
    rw [Bool.not_eq_true', Bool.not_eq_false]
    exact hkey
  have htake : (s.noteSeq p).takeIn p = (s.noteSeq p).handle p := (if_neg hjob').trans (if_neg hkey')
  unfold State.deliverPacket
  rw [if_neg (by rw [hseen]; exact Bool.false_ne_true), htake]
  split
  · next htc =>
    obtain ⟨hseq, hnone⟩ := horder htc
    rw [if_pos hseq, hnone]
    rfl
  · rfl

/-- A packet whose handling is to answer it. -/
theorem leads_of_handle_answer {x : Out} {b : Body} (h : s.Due p) (hx : x = .next (s.deliverPacket p))
    (hb : (s.noteSeq p).handle p = (s.noteSeq p).answer p b) : Leads x (fun u => u.mem = s.mem ∧ s.Answered p b u) := by
  rw [hx, State.deliverPacket_of_due h, hb]
  exact ⟨_, rfl, rfl, (s.undisturbed_noteSeq p).answered p b⟩

/-! ### Loads (R212, R357) -/

section
variable {c i e q o gen loc n : Nat}

theorem exec_remoteLoadServe (hb : p.body = .rload c i o gen loc n) : exec (.remoteLoadServe p) s = .next (s.deliverPacket p) := by
  change execRemoteLoadServe p s = _
  simp only [execRemoteLoadServe, hb]

theorem leads_remoteLoadServe (hb : p.body = .rload c i o gen loc n) (h : s.Due p) (hok : s.homeCheck p o gen loc n n false = none)
    (hall : spanTotal (s.homeSpans o loc n) = n) : Leads (exec (.remoteLoadServe p) s) (fun u => u.mem = s.mem ∧
      s.Answered p (.rdata c i (.bytes (s.engineBytes (s.homeSpans o loc n)))) u) := by
  refine leads_of_handle_answer h (exec_remoteLoadServe hb) ?_
  simp only [State.handle, State.serveLoad, hb, State.homeCheck_noteSeq, hok, State.homeSpans_noteSeq, State.engineBytes_noteSeq,
    if_neg hall.not_lt]

theorem leads_remoteLoadServe_refused {x : Nat} (hb : p.body = .rload c i o gen loc n) (h : s.Due p)
    (hbad : s.homeCheck p o gen loc n n false = some x) : Leads (exec (.remoteLoadServe p) s) (fun u => u.mem = s.mem ∧
      s.Answered p (if x = 2 then .errcomp p.body else if x = 3 then .rdata c i .poisoned else .rdata c i (.refused x)) u) := by
  refine leads_of_handle_answer h (exec_remoteLoadServe hb) ?_
  simp only [State.handle, State.serveLoad, hb, State.homeCheck_noteSeq, hbad]
  split
  next h2 => rw [Option.some.inj h2]; rfl
  next h3 => rw [Option.some.inj h3]; rfl
  next h2 h3 hx =>
    obtain rfl := Option.some.inj hx
    rw [if_neg (by simpa using h2), if_neg (by simpa using h3)]
  next => contradiction

theorem exec_eread (hb : p.body = .eread c e q o gen loc n) : exec (.eread p) s = .next (s.deliverPacket p) := by
  change execEread p s = _
  simp only [execEread, hb]

theorem leads_eread (hb : p.body = .eread c e q o gen loc n) (h : s.Due p) (hok : s.homeCheck p o gen loc n 1 false = none)
    (hall : spanTotal (s.homeSpans o loc n) = n) : Leads (exec (.eread p) s) (fun u => u.mem = s.mem ∧
      s.Answered p (.eack c e q none (s.engineBytes (s.homeSpans o loc n))) u) := by
  refine leads_of_handle_answer h (exec_eread hb) ?_
  simp only [State.handle, State.serveRead, hb, State.homeCheck_noteSeq, hok, State.homeSpans_noteSeq, State.engineBytes_noteSeq,
    if_neg hall.not_lt]

theorem leads_eread_refused {x : Nat} (hb : p.body = .eread c e q o gen loc n) (h : s.Due p)
    (hbad : s.homeCheck p o gen loc n 1 false = some x) : Leads (exec (.eread p) s) (fun u => u.mem = s.mem ∧
      s.Answered p (.eack c e q (some x) []) u) := by
  refine leads_of_handle_answer h (exec_eread hb) ?_
  simp only [State.handle, State.serveRead, hb, State.homeCheck_noteSeq, hbad]

end

/-! ### Stores (R212, R357) -/

/-- A write of one range at a home writes its bytes there. -/
theorem State.homeWrite_one {o loc : Nat} {b : List Byte} {y : Nat × Nat × Nat} (hptab : (s.objAt o).ptab = false)
    (hspan : s.homeSpans o loc b.length = [y]) (hlen : y.2.2 = b.length) :
    s.Undisturbed (s.homeWrite o loc b) ∧ (s.homeWrite o loc b).mem = Memory.write s.mem y.2.1 b := by
  have heq : s.homeWrite o loc b = s.cores.foldl (fun u k => u.syncLines k.1 y.2.1 y.2.2) (s.writeLevel y.2.1 b) := by
    have hcores : (s.writeLevel y.2.1 b).cores = s.cores := by
      unfold State.writeLevel State.clearTags
      split <;> rfl
    unfold State.homeWrite
    simp only [hspan, List.foldl_cons, List.foldl_nil, hlen, List.take_length, hptab, Bool.false_eq_true, if_false, hcores]
  rw [heq]
  refine ⟨(s.undisturbed_writeLevel ..).trans (.foldl (fun u k => u.undisturbed_syncLines ..) _ _), ?_⟩
  exact (foldl_keeps State.mem (fun u k => u.mem_syncLines ..) _ _).trans (s.mem_writeLevel ..)

section
variable {c i : Nat} {x : RemoteStore}

theorem exec_rbatch {xs : List RemoteStore} (hb : p.body = .rbatch c i xs) : exec (.rbatch p) s = .next (s.deliverPacket p) := by
  change execRbatch p s = _
  simp only [execRbatch, hb]

theorem leads_rbatch (hb : p.body = .rbatch c i [x]) (h : s.Due p)
    (hok : s.homeCheck p x.homeObj x.homeGen x.loc x.bytes.length x.bytes.length true = none) (hptab : (s.objAt x.homeObj).ptab = false)
    {y : Nat × Nat × Nat} (hspan : s.homeSpans x.homeObj x.loc x.bytes.length = [y]) (hlen : y.2.2 = x.bytes.length) :
    Leads (exec (.rbatch p) s) (fun u => s.Answered p (.rback c i none) u ∧ u.mem = Memory.write s.mem y.2.1 x.bytes) := by
  obtain ⟨hkept, hmem⟩ := State.homeWrite_one (s := s.noteSeq p) hptab ((s.homeSpans_noteSeq p ..).trans hspan) hlen
  have hall : ¬spanTotal [y] < x.bytes.length := by simp [spanTotal, hlen]
  have hcheck : (s.noteSeq p).batchCheck p [x] = none := by
    simp only [State.batchCheck, State.homeCheck_noteSeq, hok, State.homeSpans_noteSeq, hspan, if_neg hall]
  obtain ⟨hout, hobjs, hslots⟩ := ((s.undisturbed_noteSeq p).trans hkept).answered p (.rback c i none)
  rw [exec_rbatch hb, State.deliverPacket_of_due h]
  refine ⟨_, rfl, ?_⟩
  simp only [State.handle, State.serveBatch, hb, hcheck, List.foldl_cons, List.foldl_nil]
  refine ⟨⟨hout, hobjs, fun c i => ?_⟩, hmem⟩
  rw [← hslots c i]
  refine (State.KeepsStrands.of_cores ?_ ?_).slotAt_eq c i
  · rfl
  · rfl

theorem leads_rbatch_refused {code : Nat} (hb : p.body = .rbatch c i [x]) (h : s.Due p)
    (hbad : s.homeCheck p x.homeObj x.homeGen x.loc x.bytes.length x.bytes.length true = some code) :
    Leads (exec (.rbatch p) s) (fun u => u.mem = s.mem ∧
      s.Answered p (if code = 2 then .errcomp p.body else .rback c i (some code)) u) := by
  refine leads_of_handle_answer h (exec_rbatch hb) ?_
  simp only [State.handle, State.serveBatch, hb, State.batchCheck, State.homeCheck_noteSeq, hbad]
  split
  next h2 => rw [Option.some.inj h2]; rfl
  next h2 hx =>
    obtain rfl := Option.some.inj hx
    rw [if_neg (by simpa using h2)]
  next => contradiction

end

section
variable {c e q o gen loc : Nat} {b : List Byte}

theorem exec_ewrite (hb : p.body = .ewrite c e q o gen loc b) : exec (.ewrite p) s = .next (s.deliverPacket p) := by
  change execEwrite p s = _
  simp only [execEwrite, hb]

theorem State.mapped_noteSeq (s : State) (p : Packet) (asid o loc n : Nat) : (s.noteSeq p).mapped asid o loc n = s.mapped asid o loc n := by
  have hspans : (s.noteSeq p).spansAt asid o loc n = s.spansAt asid o loc n :=
    State.spansNow_congr (s := s) (t := s.noteSeq p) (fun _ => rfl) (fun _ => rfl) (n / 2 ^ 16 + 2) loc n
  unfold State.mapped
  rw [hspans]
  rfl

theorem leads_ewrite (hb : p.body = .ewrite c e q o gen loc b) (h : s.Due p) (hok : s.homeCheck p o gen loc b.length 1 true = none)
    (hptab : (s.objAt o).ptab = false) (hmapped : s.mapped (s.objAt o).ownCtx o loc b.length = true)
    {y : Nat × Nat × Nat} (hspan : s.homeSpans o loc b.length = [y]) (hlen : y.2.2 = b.length) :
    Leads (exec (.ewrite p) s) (fun u => s.Answered p (.eack c e q none []) u ∧ u.mem = Memory.write s.mem y.2.1 b) := by
  obtain ⟨hkept, hmem⟩ := State.homeWrite_one (s := s.noteSeq p) hptab ((s.homeSpans_noteSeq p ..).trans hspan) hlen
  have hnot : ¬(!(s.noteSeq p).mapped ((s.noteSeq p).objAt o).ownCtx o loc b.length) = true := by
    rw [State.mapped_noteSeq, Bool.not_eq_true', Bool.not_eq_false]
    exact hmapped
  rw [exec_ewrite hb, State.deliverPacket_of_due h]
  refine ⟨_, rfl, ?_⟩
  simp only [State.handle, State.serveWrite, hb, State.homeCheck_noteSeq, hok, if_neg hnot]
  split
  · refine ⟨(((s.undisturbed_noteSeq p).trans hkept).trans (.foldl (fun u x => u.undisturbed_inheritLines ..) _ _)).answered p _, ?_⟩
    exact (foldl_keeps State.mem (fun u x => u.mem_inheritLines ..) _ _).trans hmem
  · exact ⟨((s.undisturbed_noteSeq p).trans hkept).answered p _, hmem⟩

theorem leads_ewrite_refused {code : Nat} (hb : p.body = .ewrite c e q o gen loc b) (h : s.Due p)
    (hbad : s.homeCheck p o gen loc b.length 1 true = some code) : Leads (exec (.ewrite p) s) (fun u => u.mem = s.mem ∧
      s.Answered p (.eack c e q (some code) []) u) := by
  refine leads_of_handle_answer h (exec_ewrite hb) ?_
  simp only [State.handle, State.serveWrite, hb, State.homeCheck_noteSeq, hbad]

end

end

/-- Settles O54: a home's answers, and what it writes, by the checks of R125 and R357; the links' retry, loss and forwarding; fences. -/
theorem homeServesAndLinksCarry : Obligations.HomeServesAndLinksCarry := by
  intro s p port
  extract_lets part l due answers freely whole
  refine ⟨fun c i o gen loc n hb hdue => ⟨leads_remoteLoadServe hb hdue, fun x hx => leads_remoteLoadServe_refused hb hdue hx⟩,
    fun c e q o gen loc n hb hdue => ⟨leads_eread hb hdue, fun x hx => leads_eread_refused hb hdue hx⟩,
    fun c i x hb hdue => ⟨fun hok hptab y hspan hlen => leads_rbatch hb hdue hok hptab hspan hlen,
      fun code hbad => leads_rbatch_refused hb hdue hbad⟩,
    fun c e q o gen loc b hb hdue => ⟨fun hok hptab hmapped y hspan hlen => leads_ewrite hb hdue hok hptab hmapped hspan hlen,
      fun code hbad => leads_ewrite_refused hb hdue hbad⟩,
    ?_, fun job phys valid h => leads_remapWrite part job phys valid h, fun job => exec_spareJobAssign_zero part job,
    fun job key hj hpos hk => leads_spareJobAssign part hj hpos hk, fun dev keys => leads_deviceFence s dev keys⟩
  refine ⟨fun flits ctl => ⟨exec_linkGroupReceive_down, fun h hok hseq hack hq => ?_,
      fun h hbad => ⟨_, exec_linkGroupReceive_refused h hbad, rfl⟩⟩,
    fun g h hne => ⟨leads_nak_lost h hne, leads_nak_again h hne⟩, leads_linkDown, exec_widthChange, leads_packetHop_dropped,
    fun c i r hb hk hm hd hq hok hfree => ?_, exec_isolatedReadAnswer_unfenced, fun b h hp hb => leads_isolatedReadAnswer_read h hp hb,
    fun b h hp hw hb hlog => leads_isolatedReadAnswer_write h hp hw hb hlog⟩
  · obtain ⟨u, hu, hout, hlink, hin⟩ := leads_linkGroupReceive h hok hseq hack hq
    exact ⟨u, hu, hout, by rw [hlink]; rfl, by rw [hlink, hseq]; rfl, by rw [hlink]; rfl, State.mem_eq_of_inside hin,
      State.cores_eq_of_inside hin⟩
  · obtain ⟨hempty, hc, hr⟩ := hfree
    exact leads_packetHop_forwards hb hk hm hd rfl hq hok rfl hempty hc hr

end Sys2Proof.Machine
